-- ==== Sys2Proof/Word.lean ====
section
/-! DEFINITION. The word types of the part (R5) and their plainest arithmetic. -/

namespace Sys2Proof

/-- A byte. -/
abbrev Byte := BitVec 8

/-- A word is 32 bits (R5). -/
abbrev Word := BitVec 32

/-- A double is 64 bits (R5). -/
abbrev Dword := BitVec 64

/-- A sparse map from numbers to values: pairs in ascending order of the number. -/
abbrev AMap (α : Type) := List (Nat × α)

end Sys2Proof
end

