-- ==== Sys2Proof/Config.lean ====
section
/-! DEFINITION. What a part or its surroundings fix and the spec leaves open: constants without a body, so that no proof
can lean on a value, and the counts of R1. -/

namespace Sys2Proof

/-- RETMIN above its lower bound (R107, log entry 18): set for each part at manufacture. -/
opaque Config.retminExtra : BitVec 31

/-- RETMIN in ticks, at least 4,000,000 (R107). -/
def Config.retmin : Nat := 4000000 + Config.retminExtra.toNat

/-- The sign of a zero endpoint of an interval product whose candidates are zeros of both signs or a product of 0 and ±∞, by
the two intervals (R324 and R325 give its value and not its sign, log entry 17). -/
opaque Config.zeroSign : Nat → Nat → Bool

/-- The body of a manifest in flash, by number: 0 the A-die firmware, 1 the compute-die image (R368). -/
opaque Config.body : Nat → List Byte

/-- The signing public key in that body. -/
opaque Config.bodyKey : Nat → List Byte

/-- The security version in that body. -/
opaque Config.bodyVersion : Nat → Nat

/-- The digests in that body, one for each image that it covers. -/
opaque Config.bodyDigests : Nat → List (BitVec 256)

/-- The signature that follows the body: 2,420 bytes. -/
opaque Config.signature : Nat → List Byte

/-- The images that a manifest covers, as they stand in flash (R368, R371): the first is the firmware or compute-die image itself. -/
opaque Config.images : Nat → List (List Byte)

/-- The resident kernel as the A-die firmware measures it before it is started (R371). -/
opaque Config.kernelImage : List Byte

/-- The fused SHA3-256 digest of the vendor's public key (R368). -/
opaque Config.fusedKey : BitVec 256

/-- The fused minimum security version (R368). -/
opaque Config.fusedVersion : Nat

/-- The text that stands for the fused minimum version and key digest where they are measured (R371): its layout is left open. -/
opaque Config.fusedText : Nat → BitVec 256 → List Byte

/-- The fused secret of the device (R371). -/
opaque Config.secret : List Byte

/-- ML-DSA-44, which the spec names and does not define (R368, R371, log entry 11): whether a signature over a digest verifies under a
public key. -/
opaque Config.dsaVerify : List Byte → BitVec 256 → List Byte → Bool

/-- The private key that ML-DSA-44 makes of a seed. -/
opaque Config.dsaKey : BitVec 256 → List Byte

/-- The signature that a private key makes over a text. -/
opaque Config.dsaSign : List Byte → List Byte → List Byte

/-- The bytes of the vendor certificate chain in flash (R371). -/
opaque Config.chain : List Byte

/-- By how many of the newest writes the snapshot of an acquire, by its number, is behind memory, where R233 lets it be (log entry 5). -/
opaque Config.snapshotAge : Nat → Nat

/-- The row activates that the beats of one request cause at a channel, and how many find a different row open, by TIME, the events
that the channel has counted in the tick, and the address: R51 leaves the state of the banks open (log entry 30). -/
opaque Config.activates : Nat → Nat → Nat → Nat

/-- The row conflicts of the same beats (R51, log entry 30). -/
opaque Config.conflicts : Nat → Nat → Nat → Nat

/-- The bytes of a saved image with its check code, by the number of the save, as one little-endian text: the layout is the hardware's own
(R291, log entry 13). -/
opaque Config.imageText : Nat → Nat

/-- How many removed tiles a front end takes before a removing instruction has to park (R331, log entry 16). -/
def Config.tileRoom : Nat := 64

end Sys2Proof
end

