-- ==== Sys2Proof/Syntax.lean ====
section
/-! DEFINITION. The instructions and events of the part, one constructor per row of the opcode table.

Encoded instructions keep the raw fields of their words (R12, R13, R24), so that no bit of an encoding is
lost and every check of R39 is made in one place, at issue. Events carry the party they concern and what the
environment supplies (a sensor reading, the outcome of a training, the row activates of a request). -/

namespace Sys2Proof

/-- NOP: only E of the word is free (R34, R38). -/
structure LN where
  e : Bool
  deriving DecidableEq, Repr

/-- Layout LA of R13: destination, two sources; `lit` is the second word of R19, zero when there is none. -/
structure LA where
  e : Bool
  g : BitVec 2
  d : BitVec 7
  a : BitVec 7
  b : BitVec 7
  lit : Word
  deriving DecidableEq, Repr

/-- Layout LS of R13: destination, source, unsigned immediate. -/
structure LS where
  e : Bool
  g : BitVec 2
  d : BitVec 7
  a : BitVec 7
  imm : BitVec 7
  lit : Word
  deriving DecidableEq, Repr

/-- Layout LP of R13: predicate destination, condition (or truth table), two sources. -/
structure LP where
  e : Bool
  g : BitVec 2
  pd : BitVec 3
  cond : BitVec 4
  a : BitVec 7
  b : BitVec 7
  lit : Word
  deriving DecidableEq, Repr

/-- Layout LM of R13: data code, address source, scaled offset. -/
structure LM where
  e : Bool
  g : BitVec 2
  d : BitVec 7
  a : BitVec 7
  imm : BitVec 7
  lit : Word
  deriving DecidableEq, Repr

/-- GNOP: only E of the word is free (R36, R38). -/
structure GN where
  e : Bool
  deriving DecidableEq, Repr

/-- Layout GA of R24. -/
structure GA where
  e : Bool
  d : BitVec 6
  a : BitVec 6
  b : BitVec 6
  x : BitVec 6
  deriving DecidableEq, Repr

/-- Layout GA with the second word of BRX and CALLX, a signed table offset (R29). -/
structure GX where
  e : Bool
  d : BitVec 6
  a : BitVec 6
  b : BitVec 6
  x : BitVec 6
  off : Word
  deriving DecidableEq, Repr

/-- Layout GI of R24. -/
structure GI where
  e : Bool
  d : BitVec 6
  h : BitVec 2
  imm : BitVec 16
  deriving DecidableEq, Repr

/-- Layout GB of R24. -/
structure GB where
  e : Bool
  sel : BitVec 4
  off : BitVec 20
  deriving DecidableEq, Repr

/-- Layout GB with the second word of BRD, the signed reconvergence offset (R29). -/
structure GD where
  e : Bool
  sel : BitVec 4
  off : BitVec 20
  join : Word
  deriving DecidableEq, Repr

/-- The register that a write of the A-die's cores names by its physical address, or one of the external host through BAR0 of PF0 (R44). -/
structure RegAddr where
  pf0 : Bool
  pa : BitVec 52
  deriving DecidableEq, Repr

/-- The instructions and events of the part. -/
inductive Instr where
  /-- NOP (R38): Lane no-operation; occupies a void latch position and port cycles. -/
  | nop (f : LN)
  /-- MOV (R132): Copies the 32-bit source into d in each guard-true lane. -/
  | mov (f : LA)
  /-- IADD (R140): 32-bit wrapping addition per lane. -/
  | iadd (f : LA)
  /-- ISUB (R140): 32-bit wrapping subtraction per lane. -/
  | isub (f : LA)
  /-- IMUL (R140): Low 32 bits of the product per lane. -/
  | imul (f : LA)
  /-- IMULHS (R140): High 32 bits of the signed product. -/
  | imulhs (f : LA)
  /-- IMULHU (R140): High 32 bits of the unsigned product. -/
  | imulhu (f : LA)
  /-- IMAD (R140): Multiply and add to the old d, modulo 2^32. -/
  | imad (f : LA)
  /-- IMINS (R140): Signed minimum per lane. -/
  | imins (f : LA)
  /-- IMINU (R140): Unsigned minimum per lane. -/
  | iminu (f : LA)
  /-- IMAXS (R140): Signed maximum per lane. -/
  | imaxs (f : LA)
  /-- IMAXU (R140): Unsigned maximum per lane. -/
  | imaxu (f : LA)
  /-- AND (R140): Bitwise AND per lane. -/
  | and (f : LA)
  /-- OR (R140): Bitwise OR per lane. -/
  | or (f : LA)
  /-- XOR (R140): Bitwise XOR per lane. -/
  | xor (f : LA)
  /-- ANDN (R140): a AND NOT b per lane. -/
  | andn (f : LA)
  /-- SHL (R141): Left shift by a lane count, zero at 32 or more. -/
  | shl (f : LA)
  /-- SHRL (R141): Logical right shift by a lane count. -/
  | shrl (f : LA)
  /-- SHRA (R141): Arithmetic right shift by a lane count. -/
  | shra (f : LA)
  /-- ROTL (R141): Rotate left by b[4:0]. -/
  | rotl (f : LA)
  /-- SHLI (R141): Left shift by an immediate 0-31. -/
  | shli (f : LS)
  /-- SHRLI (R141): Logical right shift by an immediate. -/
  | shrli (f : LS)
  /-- SHRAI (R141): Arithmetic right shift by an immediate. -/
  | shrai (f : LS)
  /-- POPC (R142): Population count per lane. -/
  | popc (f : LA)
  /-- CLZ (R142): Count of leading zeros per lane. -/
  | clz (f : LA)
  /-- BREV (R142): Bit reversal per lane. -/
  | brev (f : LA)
  /-- BFX (R143): Extracts a bit field, optionally sign-extended. -/
  | bfx (f : LA)
  /-- BFI (R143): Inserts a bit field into d. -/
  | bfi (f : LA)
  /-- IADDX (R144): Add with carry in and out through p7. -/
  | iaddx (f : LA)
  /-- ISUBX (R144): Subtract with borrow in and out through p7. -/
  | isubx (f : LA)
  /-- ICMP (R146): 32-bit integer compare into a predicate. -/
  | icmp (f : LP)
  /-- SEL (R132): Selects a or b by predicate p1-p3 named in the guard field. -/
  | sel (f : LA)
  /-- WADD (R147): 64-bit addition on pairs. -/
  | wadd (f : LA)
  /-- WSUB (R147): 64-bit subtraction on pairs. -/
  | wsub (f : LA)
  /-- WMULU (R147): Exact unsigned 64-bit product of narrow sources. -/
  | wmulu (f : LA)
  /-- WMULS (R147): Exact signed 64-bit product of narrow sources. -/
  | wmuls (f : LA)
  /-- WSHL (R147): 64-bit left shift. -/
  | wshl (f : LA)
  /-- WSHRL (R147): 64-bit logical right shift. -/
  | wshrl (f : LA)
  /-- WADDS (R147): Adds a sign-extended 32-bit offset to a 64-bit value. -/
  | wadds (f : LA)
  /-- WCMP (R146): 64-bit integer compare into a predicate. -/
  | wcmp (f : LP)
  /-- FADD (R171): FP32 addition, or interval addition in bounds mode. -/
  | fadd (f : LA)
  /-- FSUB (R171): FP32 subtraction. -/
  | fsub (f : LA)
  /-- FMUL (R171): FP32 multiplication. -/
  | fmul (f : LA)
  /-- FFMA (R171): FP32 fused multiply-add into d. -/
  | ffma (f : LA)
  /-- FMIN (R172): FP32 minimum without rounding. -/
  | fmin (f : LA)
  /-- FMAX (R172): FP32 maximum without rounding. -/
  | fmax (f : LA)
  /-- FABS (R173): Clears the FP32 sign bit. -/
  | fabs (f : LA)
  /-- FNEG (R173): Inverts the FP32 sign bit. -/
  | fneg (f : LA)
  /-- FCMP (R175): FP32 compare into a predicate, three-valued in bounds mode. -/
  | fcmp (f : LP)
  /-- FRCP (R176): Correctly rounded FP32 reciprocal. -/
  | frcp (f : LA)
  /-- FSQRT (R176): Correctly rounded FP32 square root. -/
  | fsqrt (f : LA)
  /-- FRSQ (R177): FP32 reciprocal square root rounded to nearest. -/
  | frsq (f : LA)
  /-- FEXP2 (R177): FP32 base-2 exponential. -/
  | fexp2 (f : LA)
  /-- FLOG2 (R177): FP32 base-2 logarithm. -/
  | flog2 (f : LA)
  /-- FSINR (R177): Sine of an argument in revolutions. -/
  | fsinr (f : LA)
  /-- FCOSR (R177): Cosine of an argument in revolutions. -/
  | fcosr (f : LA)
  /-- FRINT (R173): Rounds to an integral FP32 value under FMT.RM. -/
  | frint (f : LA)
  /-- FFLOOR (R173): Greatest integral FP32 value not above a. -/
  | ffloor (f : LA)
  /-- FDIV (R171): Correctly rounded FP32 division. -/
  | fdiv (f : LA)
  /-- FCLASS (R174): Writes a 10-bit class mask of an FP32 pattern. -/
  | fclass (f : LA)
  /-- FSCALE (R171): Multiplies by 2 to a signed integer power. -/
  | fscale (f : LA)
  /-- FCPSGN (R171): Copies the sign of b onto a. -/
  | fcpsgn (f : LA)
  /-- FSAT (R173): Clamps to [+0, 1.0]. -/
  | fsat (f : LA)
  /-- DADD (R178): FP64 addition. -/
  | dadd (f : LA)
  /-- DSUB (R178): FP64 subtraction. -/
  | dsub (f : LA)
  /-- DMUL (R178): FP64 multiplication. -/
  | dmul (f : LA)
  /-- DFMA (R178): FP64 fused multiply-add into d. -/
  | dfma (f : LA)
  /-- DMIN (R172): FP64 minimum. -/
  | dmin (f : LA)
  /-- DMAX (R172): FP64 maximum. -/
  | dmax (f : LA)
  /-- DDIV (R176): Correctly rounded FP64 division. -/
  | ddiv (f : LA)
  /-- DSQRT (R176): Correctly rounded FP64 square root. -/
  | dsqrt (f : LA)
  /-- DCMP (R175): FP64 compare into a predicate. -/
  | dcmp (f : LP)
  /-- DRINT (R178): Rounds to an integral FP64 value. -/
  | drint (f : LA)
  /-- DABS (R178): Clears the FP64 sign bit. -/
  | dabs (f : LA)
  /-- DNEG (R178): Inverts the FP64 sign bit. -/
  | dneg (f : LA)
  /-- HADD2 (R179): Packed 16-bit addition. -/
  | hadd2 (f : LA)
  /-- HMUL2 (R179): Packed 16-bit multiplication. -/
  | hmul2 (f : LA)
  /-- HFMA2 (R179): Packed 16-bit fused multiply-add into d. -/
  | hfma2 (f : LA)
  /-- HMIN2 (R179): Packed 16-bit minimum. -/
  | hmin2 (f : LA)
  /-- HMAX2 (R179): Packed 16-bit maximum. -/
  | hmax2 (f : LA)
  /-- DOT4S (R181): Exact signed 4-byte dot product. -/
  | dot4s (f : LA)
  /-- DOT4U (R181): Exact unsigned 4-byte dot product. -/
  | dot4u (f : LA)
  /-- HDOT2 (R180): Two-term half dot product rounded once to FP32. -/
  | hdot2 (f : LA)
  /-- CVT (R183): Converts between formats by the code in b. -/
  | cvt (f : LS)
  /-- QDX4 (R163): Quantizes each 32-lane block to DXB4 codes and scale. -/
  | qdx4 (f : LA)
  /-- QDX8 (R163): Quantizes each block to DXB8 codes and scale. -/
  | qdx8 (f : LA)
  /-- QAQ8 (R164): Quantizes each block to AQ8 or AQ4 with scale and zero point. -/
  | qaq8 (f : LA)
  /-- SHFLI (R134): Reads a from the lane indexed by b. -/
  | shfli (f : LA)
  /-- SHFLX (R134): Reads a from lane l XOR c. -/
  | shflx (f : LS)
  /-- SHFLU (R134): Reads a from lane l minus c. -/
  | shflu (f : LS)
  /-- SHFLD (R134): Reads a from lane l plus c. -/
  | shfld (f : LS)
  /-- RADD (R135): Integer sum over the strand's mask. -/
  | radd (f : LA)
  /-- RFADD (R135): FP32 tree sum over the strand's mask. -/
  | rfadd (f : LA)
  /-- RMINS (R135): Signed minimum over the mask. -/
  | rmins (f : LA)
  /-- RMAXS (R135): Signed maximum over the mask. -/
  | rmaxs (f : LA)
  /-- PLOG (R133): Combines two predicates by a 4-bit truth table. -/
  | plog (f : LP)
  /-- PTOV (R132): Writes a predicate as 0 or 1 into a register. -/
  | ptov (f : LA)
  /-- VTOP (R133): Sets a predicate from a non-zero value. -/
  | vtop (f : LP)
  /-- LDO (R104): 4-byte column load. -/
  | ldo (f : LM)
  /-- LDO_D (R104): 8-byte column load. -/
  | ldoD (f : LM)
  /-- LDO_Q (R104): 16-byte column load. -/
  | ldoQ (f : LM)
  /-- STO (R104): 4-byte column store. -/
  | sto (f : LM)
  /-- STO_D (R104): 8-byte column store. -/
  | stoD (f : LM)
  /-- STO_Q (R104): 16-byte column store. -/
  | stoQ (f : LM)
  /-- OADD (R106): Indivisible column word addition. -/
  | oadd (f : LM)
  /-- OMAXU (R106): Indivisible column word unsigned maximum. -/
  | omaxu (f : LM)
  /-- LDG (R71): 4-byte global load. -/
  | ldg (f : LM)
  /-- LDG_D (R71): 8-byte global load. -/
  | ldgD (f : LM)
  /-- LDG_Q (R71): 16-byte global load. -/
  | ldgQ (f : LM)
  /-- STG (R71): 4-byte global store into the store log. -/
  | stg (f : LM)
  /-- STG_D (R71): 8-byte global store. -/
  | stgD (f : LM)
  /-- STG_Q (R71): 16-byte global store. -/
  | stgQ (f : LM)
  /-- CREDF (R213): Adds a term to an FP32 compensated pair at the Carillon. -/
  | credf (f : LM)
  /-- CREDD (R213): Adds a term to an FP64 compensated pair. -/
  | credd (f : LM)
  /-- AADD (R71): Atomic add returning the old word. -/
  | aadd (f : LM)
  /-- AMINS (R71): Atomic signed minimum. -/
  | amins (f : LM)
  /-- AMAXS (R71): Atomic signed maximum. -/
  | amaxs (f : LM)
  /-- AAND (R71): Atomic AND. -/
  | aand (f : LM)
  /-- AOR (R71): Atomic OR. -/
  | aor (f : LM)
  /-- AXOR (R71): Atomic XOR. -/
  | axor (f : LM)
  /-- AXCHG (R71): Atomic exchange. -/
  | axchg (f : LM)
  /-- ACAS (R71): Atomic compare and swap. -/
  | acas (f : LM)
  /-- GNOP (R38): Group no-operation. -/
  | gnop (f : GN)
  /-- KMOV (R149): Copies a uniform register. -/
  | kmov (f : GA)
  /-- JMOV (R149): Copies a uniform pair. -/
  | jmov (f : GA)
  /-- KLIT (R150): Loads a zero-extended 16-bit immediate. -/
  | klit (f : GI)
  /-- KLITH (R150): Replaces the upper half with an immediate. -/
  | klith (f : GI)
  /-- KADD (R149): Uniform 32-bit addition. -/
  | kadd (f : GA)
  /-- JADD (R149): Uniform 64-bit addition. -/
  | jadd (f : GA)
  /-- KSUB (R149): Uniform 32-bit subtraction. -/
  | ksub (f : GA)
  /-- JSUB (R149): Uniform 64-bit subtraction. -/
  | jsub (f : GA)
  /-- KMUL (R149): Uniform 32-bit product. -/
  | kmul (f : GA)
  /-- KAND (R149): Uniform AND. -/
  | kand (f : GA)
  /-- KOR (R149): Uniform OR. -/
  | kor (f : GA)
  /-- KXOR (R149): Uniform XOR. -/
  | kxor (f : GA)
  /-- KSHL (R149): Uniform 32-bit left shift. -/
  | kshl (f : GA)
  /-- JSHL (R149): Uniform 64-bit left shift. -/
  | jshl (f : GA)
  /-- KSHRL (R149): Uniform 32-bit logical right shift. -/
  | kshrl (f : GA)
  /-- JSHRL (R149): Uniform 64-bit logical right shift. -/
  | jshrl (f : GA)
  /-- KSHRA (R149): Uniform arithmetic right shift. -/
  | kshra (f : GA)
  /-- KCMP (R149): Uniform 32-bit compare into a q predicate. -/
  | kcmp (f : GA)
  /-- JCMP (R149): Uniform 64-bit compare into a q predicate. -/
  | jcmp (f : GA)
  /-- KSEL (R149): Selects a or b by a q predicate. -/
  | ksel (f : GA)
  /-- KADDI (R149): Adds a signed 12-bit immediate. -/
  | kaddi (f : GA)
  /-- VOTE_ANY (R136): q set when some lane of the mask has the predicate true. -/
  | voteAny (f : GA)
  /-- VOTE_ALL (R136): q set when every lane of the mask has the predicate true. -/
  | voteAll (f : GA)
  /-- VOTE_NONE (R136): q set when no lane of the mask has the predicate true. -/
  | voteNone (f : GA)
  /-- BALLOT (R136): Writes the predicate over the mask as a 64-bit pair. -/
  | ballot (f : GA)
  /-- KREAD (R137): Reads one lane's register into a uniform register. -/
  | kread (f : GA)
  /-- RDSV (R138): Reads a system value, including read-and-clear codes. -/
  | rdsv (f : GA)
  /-- BRA (R244): Branch, uniform or splitting on a lane predicate. -/
  | bra (f : GB)
  /-- BRD (R245): Divergent branch that pushes a join-stack entry. -/
  | brd (f : GD)
  /-- BRX (R247): Indexed branch through a permitted-target table. -/
  | brx (f : GX)
  /-- CALL (R249): Call setting lk. -/
  | call (f : GB)
  /-- CALLX (R248): Indexed call through a permitted-target table. -/
  | callx (f : GX)
  /-- RET (R249): Returns to lk. -/
  | ret (f : GA)
  /-- REGANG (R250): Reconvergence point: parks and merges strands of a join entry. -/
  | regang (f : GA)
  /-- PART (R246): Splits the strand by 4-lane slices. -/
  | part (f : GB)
  /-- EXIT (R251): Ends the strand after its log drains. -/
  | exit (f : GA)
  /-- YIELD (R269): Renews the budget and may yield the team to an earlier unit. -/
  | yield (f : GA)
  /-- SETFMT (R254): Writes the strand's FMT. -/
  | setfmt (f : GA)
  /-- SETFMT_LK (R254): Writes the link register. -/
  | setfmtLk (f : GA)
  /-- GETFMT (R254): Reads FMT. -/
  | getfmt (f : GA)
  /-- GETFMT_LK (R254): Reads the link register. -/
  | getfmtLk (f : GA)
  /-- MMA (R195): Queues a matrix product onto the accumulator. -/
  | mma (f : GA)
  /-- MMAP (R199): Queues a product shared by the two engines of a core pair. -/
  | mmap (f : GA)
  /-- MMAX (R200): Queues a product shared by all 16 engines of a cluster. -/
  | mmax (f : GA)
  /-- MCLR (R201): Queues a clear of accumulator rows. -/
  | mclr (f : GA)
  /-- MSTA (R202): Queues a store of accumulator rows to a column tile. -/
  | msta (f : GA)
  /-- MLDA (R202): Queues a load of accumulator rows from a column tile. -/
  | mlda (f : GA)
  /-- MFENCE (R203): Parks until the strand's matrix operations complete. -/
  | mfence (f : GA)
  /-- MGATH (R190): Writes entries of the group's gather set. -/
  | mgath (f : GA)
  /-- COPY (R84): Submits a COPY block from the column to a walker. -/
  | copy (f : GA)
  /-- TILE (R84): Submits a TILE block to a walker. -/
  | tile (f : GA)
  /-- PUTS (R84): Submits a put-with-signal block to a walker. -/
  | puts (f : GA)
  /-- CHAIN (R84): Submits a chain of blocks in global memory to a walker. -/
  | chain (f : GA)
  /-- TOKEN (R91): Appends a control token to a chain's queue. -/
  | token (f : GA)
  /-- ESTAT (R93): Reads the status of a ticket. -/
  | estat (f : GA)
  /-- CADD (R217): Adds to a monotonic counter, optionally after a release. -/
  | cadd (f : GA)
  /-- CWAIT (R218): Parks until a counter reaches a target or a timeout passes. -/
  | cwait (f : GA)
  /-- CREAD (R219): Reads a counter, finalized pair or atomic word. -/
  | cread (f : GA)
  /-- BAR (R225): Barrier: release, arrive, wait, acquire. -/
  | bar (f : GA)
  /-- BARA (R225): Barrier arrival with release, without waiting. -/
  | bara (f : GA)
  /-- BARW (R225): Waits for a pending arrival's generation, then acquires. -/
  | barw (f : GA)
  /-- PHASE (R221): Release then acquire at a scope. -/
  | phase (f : GA)
  /-- REL (R221): Release at a scope. -/
  | rel (f : GA)
  /-- ACQ (R221): Acquire at a scope. -/
  | acq (f : GA)
  /-- OALLOC (R111): Allocates zeroed, stamped column granules. -/
  | oalloc (f : GA)
  /-- OFREE (R112): Frees a dynamic allocation after drains. -/
  | ofree (f : GA)
  /-- ORENEW (R113): Rewrites sectors to renew their stamps. -/
  | orenew (f : GA)
  /-- LAUNCH (R259): Submits a launch record to the partition's front end. -/
  | launch (f : GA)
  /-- TSPAWN (R270): Spawns task records into a stream. -/
  | tspawn (f : GA)
  /-- TSPAWN_EOS (R270): Spawns records and counts an end of stream. -/
  | tspawnEos (f : GA)
  /-- TDESC (R347): Descends a search tree under virtual loss per lane. -/
  | tdesc (f : GA)
  /-- TEXPAND (R350): Allocates and writes a node's children. -/
  | texpand (f : GA)
  /-- TBACK (R351): Backs a value up a path. -/
  | tback (f : GA)
  /-- TROOT (R352): Re-roots the tree and frees the rest in the background. -/
  | troot (f : GA)
  /-- TFREE (R352): Frees a node's subtree in the background. -/
  | tfree (f : GA)
  /-- TNEW (R346): Initializes a pool from a header image. -/
  | tnew (f : GA)
  /-- BSPLIT (R332): Removes flagged lanes for quartering or pointing. -/
  | bsplit (f : GA)
  /-- BPOINT (R332): Removes flagged lanes, pointing small tiles. -/
  | bpoint (f : GA)
  /-- BOPEN (R333): Reports open bits and the open-lane count. -/
  | bopen (f : GA)
  /-- TRAP (R277): Delivers user trap cause 13. -/
  | trap (f : GA)
  /-- RTE (R278): Returns from a handler to EPC. -/
  | rte (f : GA)
  /-- RTE_TO (R278): Returns from a handler to an address in a pair. -/
  | rteTo (f : GA)
  /-- BKPT (R277): Delivers breakpoint cause 12. -/
  | bkpt (f : GA)
  /-- RDCTL (R279): Reads a control register. -/
  | rdctl (f : GA)
  /-- WRCTL (R279): Writes a control register, privileged. -/
  | wrctl (f : GA)
  /-- SLEEP (R372): Parks for a count of ticks. -/
  | sleep (f : GA)
  /-- MHINT (R70): Requests placement of a range from the front end. -/
  | mhint (f : GA)
  /-- OSWAP (R118): Starts an exchange of two 64 KiB column pages. -/
  | oswap (f : GA)
  /-- ERRINJ (R305): Arms an error injection. -/
  | errinj (f : GA)
  /-- EREAD (R304): Reads an error-log word or count. -/
  | eread (f : GA)
  /-- HALT (R372): Ends the strand and marks the core off. -/
  | halt (f : GA)
  /-- MAIN_POWER_ON (R3): Main power applied: TIME set to 0 and a start attempt begins. -/
  | mainPowerOn
  /-- MAIN_POWER_REMOVAL (R3): Main power removed: TIME and all memory contents lost. -/
  | mainPowerRemoval
  /-- START_ATTEMPT (R369): ROM checks the start count, verifies images, trains and scrubs. -/
  | startAttempt (memOk linkOk : Bool)
  /-- BOOT_OK_TIMEOUT (R369): No OK within 60 s: failure 0x07 and module reset. -/
  | bootOkTimeout
  /-- BOOTSTAT_OK (R370): Resident kernel marks the start complete; S cleared, MODE 1. -/
  | bootstatOk
  /-- BOOTSTAT_CLR (R370): Requests clearing the start count at the next reset. -/
  | bootstatClr
  /-- TICK (R3): TIME advances by one tick each nanosecond. -/
  | tick
  /-- THERMAL_TRIP (R367): A sensor at 115 C resets the compute dies and tiers. -/
  | thermalTrip (temp : BitVec 8)
  /-- THERMAL_WARNING (R367): TMAX reaches TWARN and sets WARN. -/
  | thermalWarning (temp : BitVec 8)
  /-- POWER_LIMIT_EXCEEDED (R365): 1 ms average power above PLIM sets OVER. -/
  | powerLimitExceeded (watts : Nat)
  /-- POWER_STATE_CMD (R364): PWRCTL command to P0-P3, or restart from tripped or P4. -/
  | powerStateCmd (cmd : BitVec 3)
  /-- POWER_OFF_CMD (R364): PWRCTL command to P4, refused while work is queued. -/
  | powerOffCmd
  /-- POWER_CMD_RESERVED (R365): CMD 5-7 sets ERR. -/
  | powerCmdReserved (cmd : BitVec 3)
  /-- POWER_TRANSITION_DONE (R364): Units quiesce, the clock changes and issue resumes. -/
  | powerTransitionDone
  /-- HTCFG_WRITE (R366): New heat-token rate and capacity apply from the next tick. -/
  | htcfgWrite (die : Nat) (val : BitVec 32)
  /-- PCIE_LINK_TRAIN (R361): A PCIe port trains to the best common rate and width. -/
  | pcieLinkTrain (port gen width : Nat)
  /-- VF_MAILBOX_WRITE (R363): A VF mailbox write interrupts the A-die cores. -/
  | vfMailboxWrite (vf : Nat) (val : BitVec 32)
  /-- PORT_DMA_REQUEST (R55): A root-port DMA is translated by the network or storage port. -/
  | portDmaRequest (storage : Bool) (asid : BitVec 8) (va : BitVec 64) (write : Bool) (val : BitVec 64)
  /-- FORWARDED_REQUEST (R362): A host-range access is forwarded through a window or faults as a hole. -/
  | forwardedRequest (addr : BitVec 52)
  /-- GET_VERSION (R371): SPDM request answered with versions 1.3 and 1.4. -/
  | getVersion
  /-- GET_CAPABILITIES (R371): SPDM capabilities request. -/
  | getCapabilities (ver : Nat)
  /-- NEGOTIATE_ALGORITHMS (R371): SPDM algorithm negotiation of ML-DSA-44 and SHA3-256. -/
  | negotiateAlgorithms (mlDsa sha3 : Bool)
  /-- GET_DIGESTS (R371): SPDM certificate digest request under 1.4. -/
  | getDigests
  /-- GET_CERTIFICATE (R371): SPDM certificate request for slot 0 under 1.4. -/
  | getCertificate (cslot off len : Nat)
  /-- CHALLENGE (R371): SPDM signed challenge under 1.4. -/
  | challenge (cslot : Nat) (nonce : BitVec 256)
  /-- GET_MEASUREMENTS (R371): SPDM measurement request, signed only under 1.4. -/
  | getMeasurements (idx : Nat) (signed : Bool) (nonce : BitVec 256)
  /-- UNSUPPORTED_REQUEST (R371): Any other SPDM request answered with UnsupportedRequest. -/
  | unsupportedRequest (code : BitVec 8)
  /-- TXINVC_GO (R62): Starts a package-wide translation invalidation. -/
  | txinvcGo (die : Nat) (val : BitVec 32)
  /-- INVALIDATION_COMPLETE (R62): All units dropped entries and drained accesses; DONE returns to 1. -/
  | invalidationComplete (die : Nat)
  /-- FRRESUME_GO (R285): Starts replay of page-fault waiters for a page or context. -/
  | frresumeGo (die : Nat) (val : BitVec 64)
  /-- LOG_ENTRY_REPLAY (R75): An operand-log entry is replayed after resolution. -/
  | logEntryReplay (core idx : Nat)
  /-- TEAM_RESUME (R286): TEAMCMD OP 0 resumes stopped strands by cause. -/
  | teamResume (die cluster core grp : Nat)
  /-- TEAM_RENEW (R286): TEAMCMD OP 1 sets the budget and resumes. -/
  | teamRenew (die cluster core grp : Nat) (units : BitVec 16)
  /-- TEAM_MOVE (R290): TEAMCMD OP 2 restarts, drains, saves and re-queues a team. -/
  | teamMove (die cluster core grp : Nat)
  /-- TEAM_END (R288): TEAMCMD OP 3 ends a team, discarding logs and revoking commands. -/
  | teamEnd (die cluster core grp : Nat)
  /-- TEAM_RESTART (R289): TEAMCMD OP 4 restarts every strand at its region start. -/
  | teamRestart (die cluster core grp : Nat)
  /-- TEAMCMD_RESERVED_OP (R286): A reserved OP or empty slot sets ERR. -/
  | teamcmdReservedOp (die : Nat) (val : BitVec 64)
  /-- CONTEXT_STOP (R280): CTL.STOP holds a context's strands and placements. -/
  | contextStop (ctx : BitVec 8) (stop : Bool)
  /-- CONTEXT_KILL (R288): CTL.KILL ends every team and queued work of a context. -/
  | contextKill (ctx : BitVec 8)
  /-- CCCMD_SET_COUNTER (R208): Sets a counter and clears its overflow flag. -/
  | cccmdSetCounter (die : Nat)
  /-- CCCMD_CLEAR_PAGE (R208): Clears a 4 KiB sync page to free units. -/
  | cccmdClearPage (die : Nat)
  /-- CCCMD_READ (R208): Reads a sync unit with its kind and overflow flag. -/
  | cccmdRead (die : Nat)
  /-- CCCMD_RESERVED (R208): OP 11 performs nothing and sets ERR. -/
  | cccmdReserved (die : Nat)
  /-- CSPLIT_WRITE (R208): Sets the direct part size before the first Carillon operation. -/
  | csplitWrite (die : Nat) (val : BitVec 32)
  /-- CHCTL_CLEAR (R49): Zeroes a channel's counters and SAT flags. -/
  | chctlClear (die : Nat) (tierL : Bool) (ch : Nat)
  /-- CHCTL_FREEZE (R49): Freezes or unfreezes a channel's counters. -/
  | chctlFreeze (die : Nat) (tierL : Bool) (ch : Nat) (on : Bool)
  /-- COUNTER_WRITE (R52): Privileged write of a channel counter's COUNT. -/
  | counterWrite (die : Nat) (tierL : Bool) (ch which : Nat) (val : BitVec 64)
  /-- FEDOOR (R256): Doorbell submitting a launch record, accepted or dropped. -/
  | fedoor (fe : Nat) (val : BitVec 64)
  /-- FECFG_WRITE (R294): A partition range write starts ownership changes of clusters. -/
  | fecfgWrite (fe : Nat) (val : BitVec 64)
  /-- REGISTER_WRITE (R44): A write to any register with no behaviour of its own, by the A-die cores or through BAR0 of PF0. -/
  | registerWrite (addr : RegAddr) (size : Nat) (val : BitVec 64)
  /-- INSTRUCTION_FETCH (R63): A strand's instruction fetch completes or faults. -/
  | instructionFetch (core slot sid : Nat)
  /-- PAGE_TABLE_WALK (R59): A four-level walk resolves a translation or a fault. -/
  | pageTableWalk (unit : Nat) (asid : BitVec 8) (va : BitVec 64)
  /-- PORT_ARBITRATION (R271): A port picks a context and strand and starts a run. -/
  | portArbitration (core port : Nat)
  /-- RESULT_RETURN (R131): A variable-latency result arrives; a parked strand may rejoin. -/
  | resultReturn (core slot id : Nat)
  /-- TRAP_DELIVERY (R275): A user trap is delivered through the trap table or escalated. -/
  | trapDelivery (core slot sid : Nat)
  /-- RELEASE_PERFORMED (R230): A release publishes its writes in its domain. -/
  | releasePerformed (core slot sid : Nat)
  /-- ACQUIRE_PERFORMED (R221): An acquire is performed and the strand rejoins. -/
  | acquirePerformed (core slot sid : Nat)
  /-- CARILLON_OPERATION (R210): The home Carillon performs an atomic, counter or pair update. -/
  | carillonOperation (core slot sid : Nat)
  /-- CWAIT_WAKE (R218): A waited counter reaches its target; the waiter acquires. -/
  | cwaitWake (core slot sid : Nat)
  /-- CWAIT_TIMEOUT (R218): A timed wait's limit passes without the target. -/
  | cwaitTimeout (core slot sid : Nat)
  /-- SLEEP_WAKE (R372): A sleeping strand's tick count elapses. -/
  | sleepWake (core slot sid : Nat)
  /-- BARRIER_RELEASE (R225): Last arrival releases a generation over the gong tree. -/
  | barrierRelease (core slot scope line : Nat)
  /-- MATRIX_OP_START (R197): A queued matrix operation starts in the engine. -/
  | matrixOpStart (core : Nat)
  /-- MATRIX_OP_COMPLETE (R197): A matrix operation completes and the next may start. -/
  | matrixOpComplete (core : Nat)
  /-- MMAP_START (R199): Both engines of a pair hold; checks and start. -/
  | mmapStart (pair : Nat)
  /-- MMAX_START (R200): All 16 engines hold; checks and multicast start. -/
  | mmaxStart (cluster : Nat)
  /-- PAIR_TIMEOUT (R199): An engine held 65,536 cycles without partners traps its strand. -/
  | pairTimeout (core : Nat)
  /-- OSWAP_COMPLETE (R118): A page exchange finishes and held accesses proceed. -/
  | oswapComplete (core : Nat)
  /-- REGISTER_DECK_MOVE (R116): A long-parked strand's registers move to a higher deck. -/
  | registerDeckMove (core slot sid deck : Nat)
  /-- REGISTER_RECALL (R116): Registers return to deck 1 before the strand can win arbitration. -/
  | registerRecall (core slot sid : Nat)
  /-- TIER_REFRESH (R53): Per-bank refresh of a tier bank. -/
  | tierRefresh (die : Nat) (tierL : Bool) (ch : Nat) (waits : List (Option (BitVec 8)))
  /-- MEMORY_CHANNEL_REQUEST (R47): A home controller serves or refuses a request and counts it. -/
  | memoryChannelRequest (pa : BitVec 52) (sel : BitVec 3) (ctx : Option (BitVec 8)) (write : Bool) (activates : Nat) (conflict : Bool)
  /-- WALKER_BEAT_GRANT (R78): A walker grants one 64-byte beat to a ready slot. -/
  | walkerBeatGrant (walker : Nat)
  /-- BEAT_WRITE (R89): A beat's write lands and is stamped, owner-checked and charged. -/
  | beatWrite (walker wslot : Nat)
  /-- BLOCK_FETCH (R87): A slot reads the next chain block from memory. -/
  | blockFetch (walker wslot : Nat)
  /-- PERMIT_SATISFIED (R87): A block's permit counter reaches PTARGET; acquire and move begin. -/
  | permitSatisfied (walker wslot : Nat)
  /-- WAIT_BLOCK_TOKEN (R92): A WAIT block takes a token and chooses its path. -/
  | waitBlockToken (walker wslot : Nat)
  /-- BLOCK_DRAIN_COMPLETE (R87): A block's writes are performed; release, signal and link follow. -/
  | blockDrainComplete (walker wslot : Nat)
  /-- WALKER_FAULT_RESUME (R90): A slot waiting at a faulting beat continues after resolution. -/
  | walkerFaultResume (walker wslot : Nat)
  /-- LAUNCH_PROCESS (R258): Front end reads and checks a launch, processes ranges and enqueues. -/
  | launchProcess (fe : Nat)
  /-- PAGE_MOVE (R68): Front end migrates or replicates a page in six steps. -/
  | pageMove (fe : Nat)
  /-- MHINT_REQUEST (R70): Front end acts on a placement hint. -/
  | mhintRequest (core : Nat)
  /-- CONDITION_TEST (R263): A task record's arrival conditions are tested. -/
  | conditionTest (cluster seq cond : Nat)
  /-- DISPATCH_PASS (R267): A cluster's dispatcher places ready units at a tick boundary. -/
  | dispatchPass (cluster : Nat)
  /-- QUEUE_UNSPILL (R264): Units return from the overflow ring when the bank falls to 4,096. -/
  | queueUnspill (cluster : Nat)
  /-- BUDGET_EXHAUSTED (R269): A team's budget reaches 0 and it takes a budget trap. -/
  | budgetExhausted (team : Nat)
  /-- TEAM_END_RELEASE (R239): Last group ends; stores published and completion add. -/
  | teamEndRelease (team : Nat)
  /-- LAUNCH_COMPLETION (R265): A launch completes; release and completion add, slot freed. -/
  | launchCompletion (fe lslot : Nat)
  /-- TEAM_SAVE (R291): A drained team's image is written to a save slot. -/
  | teamSave (team : Nat)
  /-- REVOCATION_WINDOW_EXPIRY (R294): The 100,000-tick drain window ends and remaining commands are revoked. -/
  | revocationWindowExpiry (cluster : Nat)
  /-- SCRUB_START (R294): A cluster's ownership changes and its scrub begins. -/
  | scrubStart (cluster : Nat)
  /-- SCRUB_COMPLETE (R294): The scrub ends and the new owner may place. -/
  | scrubComplete (cluster : Nat)
  /-- RING_RECORD_WRITE (R283): The reporting port writes a fault record to a ring. -/
  | ringRecordWrite
  /-- RING_HEAD_REREAD (R283): A full ring's HEAD is reread every 1,024 ticks. -/
  | ringHeadReread (kind key : Nat)
  /-- CORRECTED_ERROR (R302): An array corrects an error and logs it. -/
  | correctedError (kind inst : Nat) (addr : BitVec 52) (ctx : BitVec 8) (syndrome : BitVec 16)
  /-- UNCORRECTABLE_ERROR (R303): An uncorrectable error acts on its first consumer. -/
  | uncorrectableError (kind inst : Nat) (addr : BitVec 52) (ctx : BitVec 8) (syndrome : BitVec 16)
  /-- TREE_STEP (R344): One indivisible tree-engine step on a node. -/
  | treeStep (core slot sid : Nat)
  /-- TREE_BACKGROUND_FREE (R352): One block is freed to the pool's free list in an idle cycle. -/
  | treeBackgroundFree (die : Nat)
  /-- BOUNDS_TILE_APPEND (R334): Front end appends a removed tile to the open-tile list. -/
  | boundsTileAppend (fe : Nat)
  /-- BOUNDS_TASK_ISSUE (R335): Front end packs children into a bounds task and enqueues it. -/
  | boundsTaskIssue (fe lslot : Nat)
  /-- BOOT_SCRUB_TIMEOUT (R369): The start's scrub of every cluster does not finish within 50,000 ticks, so the attempt fails with reason 0x06 and the module resets. -/
  | bootScrubTimeout
  /-- RELEASE_RING_ROOM (R261): A front end that waits before step 6 of R68 on a full release ring finds room and goes on, and the launch waits with it until then. -/
  | releaseRingRoom (fe : Nat)
  deriving DecidableEq, Repr

end Sys2Proof
end

