-- ==== Sys2Proof/Machine/State.lean ====
section
/-! DEFINITION. The state of the part as plain data: memory, the columns, groups and strands, the engines, the
Carillons, the front ends, the registers of the dies and of the management block, and the model's own agenda.

Sparse maps (`AMap`) are held in ascending order of their keys. Memory lists no byte that equals what an unlisted
address reads as (R5), so that equal memories are equal data; the other maps may list an entry that equals its
default. Cores are numbered 0–511 (16·cluster + core, the cluster being
8·die + cluster of the die), walkers 4·cluster + walker, channels of a die as R42 numbers them. -/

namespace Sys2Proof.Machine

/-! ## Memory channels and translation (R42–R70) -/

/-- A saturating event counter with its sticky flag (R51, R301). -/
structure Ctr where
  count : BitVec 48 := 0
  sat : Bool := false
  deriving DecidableEq, Repr

/-- The counter block of one channel (R48–R52). `seen` is what a read returns, the value at the end of the
previous tick, with `frozen` for FREEZE. `ev`, `clr`, `wrote` and `filtNext` are the events and register writes of the
current tick; `filtNext` holds CTX, EN and INV. -/
structure Chan where
  freeze : Bool := false
  frozen : Bool := false
  filtCtx : BitVec 8 := 0
  filtEn : Bool := false
  filtInv : Bool := false
  filtNext : Option (BitVec 8 × Bool × Bool) := none
  cnt : AMap Ctr := []
  seen : AMap Ctr := []
  ev : AMap Nat := []
  clr : Bool := false
  wrote : AMap (BitVec 48) := []
  deriving DecidableEq, Repr

/-- One entry of a translation cache (R55): a leaf as it was read, tagged with its ASID. `lg` is the log2 of the
page size. -/
structure Tlb where
  asid : BitVec 8
  page : Nat
  lg : Nat
  leaf : Dword
  deriving DecidableEq, Repr

/-- An invalidation in progress (R62): the accesses translated at or before `epoch` have still to be performed.
`die` is the die whose TXINVC started it, or 4 for one started by a front end (R68). -/
structure Inval where
  die : Nat
  asid : BitVec 8
  scope : BitVec 2
  va : Dword
  epoch : Nat
  deriving DecidableEq, Repr

/-! ## The column (R98–R120) -/

/-- The owner tag of a granule (R99). `team` is the model's own number of the team. -/
inductive Tag where
  | free
  | reg (grp : Nat)
  | alloc (ctx : BitVec 8) (team : Nat) (num : Nat)
  deriving DecidableEq, Repr

/-- A retention class (R107). -/
inductive Cls where
  | ref
  | lap
  | trap
  deriving DecidableEq, Repr

/-- An allocation of the column (R107, R111, R114), or the piece of one that stands at `base` after an OSWAP has moved pages of it:
`root` is the base it was made at, and `off` the piece's offset in it. `born` is the TIME with which it stamped its sectors,
and `born < 0` stands for the stamp TIME − 64·L − 1 of a restored lapsing allocation (R119). -/
structure Alloc where
  base : Nat
  size : Nat
  cls : Cls
  life : Nat
  ctx : BitVec 8
  team : Nat
  num : Nat
  static : Bool
  born : Int
  root : Nat
  off : Nat := 0
  deriving DecidableEq, Repr

/-- One core's column: bytes, owner tags by granule, the stamps of sectors written since they were allocated, and
the allocations. `busy` holds the pair of 64 KiB pages whose exchange by an OSWAP has not completed, `remap` the remap table
(R116, R118). -/
structure Column where
  bytes : AMap Byte := []
  tags : AMap Tag := []
  stamps : AMap Int := []
  allocs : List Alloc := []
  busy : Option (Nat × Nat) := none
  remap : AMap Nat := []
  deriving DecidableEq, Repr

/-! ## Strands and groups (R121–R139, R240–R255) -/

/-- What a restart at the region start restores (R125, R274). -/
structure Region where
  pc : Dword := 0
  mask : Dword := 0
  fmt : Word := 0
  fx : Word := 0
  lapse : Bool := false
  cause : Word := 0
  epc : Dword := 0
  value : Dword := 0
  fpc : Dword := 0
  hnd : Bool := false
  deriving DecidableEq, Repr

/-- A position of the bypass latch (R22): void, or the narrow or wide value of each lane (zero by default). -/
inductive Latch where
  | void
  | narrow (v : AMap Word)
  | wide (v : AMap Dword)
  deriving DecidableEq, Repr

/-- A store held in the store log (R234): `pa` is none while the store is logged for a page fault (R74). `epoch` and
`lg` are those of its translation (R62), `young` says it was made after the current region start (R238), `id`
is shared by the strands that hold it (R242), `sel` is the selector it was routed under (R47), `lane` the lane that made it. -/
structure SStore where
  id : Nat
  va : Nat
  size : Nat
  pa : Option Nat
  val : Nat
  young : Bool
  epoch : Nat
  lg : Nat
  sel : Option Nat := none
  lane : Nat := 0
  deriving DecidableEq, Repr

/-- A pending arrival (R225): scope, line and generation. -/
structure BarRec where
  scope : Nat
  line : Nat
  gen : Nat
  deriving DecidableEq, Repr

/-- What an instruction that has not issued waits for (R74, R112, R131, R191, R204, R331). -/
structure Block where
  vregs : List Nat := []
  kregs : List Nat := []
  q7 : Bool := false
  logEmpty : Bool := false
  logRoom : Bool := false
  mqRoom : Bool := false
  mmDone : Bool := false
  cmdDone : Bool := false
  tileRoom : Nat := 0
  deriving DecidableEq, Repr

/-- What a parked strand waits for. -/
inductive Wait where
  /-- An instruction that will be issued when nothing of `b` stands in its way. -/
  | retry (b : Block)
  /-- CWAIT (R218): counter (physical address when translated), target, limit, scope, and whether the target has been
  reached in time. -/
  | cwait (va : Dword) (pa : Option Nat) (target : Dword) (limit : Option Nat) (scope : Nat) (met : Bool)
  /-- SLEEP until a TIME (R372). -/
  | sleep (until_ : Nat)
  /-- BAR, and the waits of BARA and BARW, on a generation (R225). `kind` 0 BAR, 1 BARA, 2 BARW. -/
  | bar (kind scope line gen : Nat)
  /-- An acquire that has not been performed (R221); `after` says that the strand's releases come first (PHASE). -/
  | acquire (scope : Nat) (after : Bool)
  /-- MMAP or MMAX held by its engine (R199, R200). -/
  | engine
  /-- A page fault on an instruction fetch (R63). -/
  | fetch (va : Dword)
  /-- A trap-table read that met a retryable code (R275). -/
  | delivery (cause sub : Nat) (value epc : Dword) (va : Dword) (go : Bool)
  /-- A trap of R39 that is taken once what the strand has issued before it has completed its effects (R40). -/
  | settle (cause : Nat) (word : Word)
  deriving DecidableEq, Repr

/-- Where a strand stands. -/
inductive Status where
  | ready
  | running (port : Nat)
  | parked (w : Wait)
  /-- Stopped with a cause of 16–20 (R284); `log` names the operand-log entry the stop concerns. -/
  | stopped (cause : Nat) (log : Option Nat)
  deriving DecidableEq, Repr

/-- A strand (R123, R241, R274). `cnt`, `lat` and `occ` are those of its current run (R30, R22, R271), `cyc` the cycle after its last issue,
`due` one before which its next instruction is known not to issue, and `sb` the cycle in which each fixed-latency result is ready (R130). `snap` is the
snapshot of its current phase, numbered by `snapNo`, and `own` the bytes it has written since (R233); `sigma` counts the writes
that `snap` holds, and `vis` lists the last write to each byte that is visible to the strand, with its number (R231, R232).
`kept` is the wait that a stopped strand keeps (R269), `paid` says that the instruction at its PC has been charged (R299). -/
structure Strand where
  sid : Nat
  pc : Dword := 0
  mask : Dword := 0
  fmt : Word := 0
  fx : Word := 0
  lapse : Bool := false
  lk : Dword := 0
  cause : Word := 0
  epc : Dword := 0
  value : Dword := 0
  fpc : Dword := 0
  hnd : Bool := false
  region : Region := {}
  status : Status := .ready
  slot : Bool := false
  cnt : Nat := 0
  lat : List Latch := []
  occ : Nat := 0
  cyc : Nat := 0
  due : Nat := 0
  sb : AMap Nat := []
  rank : Nat := 0
  bars : List BarRec := []
  slog : List SStore := []
  snap : List Host.Cell := []
  snapNo : Nat := 0
  own : AMap Byte := []
  sigma : Nat := 0
  vis : AMap (Nat × Byte) := []
  acqNext : Bool := false
  deck : Nat := 1
  kept : Option Wait := none
  paid : Bool := false
  deriving DecidableEq, Repr

/-- A join-stack entry (R243), with the folded state of the strands parked at it. `rank` is the age tie of the
splitting strand; `acq` says a parked strand has been restarted, so that the merged strand acquires (R253); `bars` holds the
pending arrivals of each parked strand. -/
structure Join where
  pc : Dword
  mask : Dword
  arrived : Dword := 0
  exited : Dword := 0
  fmt : Word
  lk : Dword
  cause : Word
  epc : Dword
  value : Dword
  fpc : Dword
  hnd : Bool
  rank : Nat
  fx : Word := 0
  lapse : Bool := false
  bars : List (List BarRec) := []
  slog : List SStore := []
  snap : List Host.Cell := []
  own : AMap Byte := []
  snapNo : Nat := 0
  sigma : Nat := 0
  vis : AMap (Nat × Byte) := []
  sb : AMap Nat := []
  cyc : Nat := 0
  acq : Bool := false
  deriving DecidableEq, Repr

/-- A variable-latency result in flight (R131): the lanes and registers it is pending for, and the values that
RESULT_RETURN writes once it has them. `tree` marks a result that a restart does not drop (R354), `bad` the
array kind and log entry of an uncorrectable error that its first consumer meets (R303). -/
structure Pend where
  id : Nat
  lanes : Dword
  vregs : List Nat := []
  kregs : List Nat := []
  q7 : Bool := false
  filled : Bool := false
  vw : List (Nat × Nat × Word) := []
  kw : List (Nat × Word) := []
  qw : Option Bool := none
  tree : Bool := false
  car : Bool := false
  bad : Option (Nat × Nat) := none
  deriving DecidableEq, Repr

/-- A global access of a lane instruction as it stands after issue (R72, R74): its lanes with their effective
addresses and data. `instr` is the instruction that made it; `pas` holds the physical addresses once
it is translated, `syncL` lists the lanes whose page is of class sync. -/
structure Access where
  instr : Instr
  pc : Dword
  ea : List (Nat × Dword)
  data : List (Nat × BitVec 128)
  pend : Option Nat
  store : Option Nat := none
  pas : List (Nat × Nat) := []
  syncL : List Nat := []
  deriving DecidableEq, Repr

/-- The state of one lane of a TREE instruction (R344–R353): the pool's virtual and physical base and the log2 of its page
size, the node at work, the column buffer or depth, the data it took at issue (a count, a value, a header image, or the
child records), its path, the steps it has made, and what it will write. `mode` is 0 going down, 1 with
an append to make, 2 rolling back. -/
structure TreeLane where
  lane : Nat
  va : Nat
  pool : Nat := 0
  lg : Nat := 12
  node : Nat
  arg : Nat
  data : Nat := 0
  path : List Nat := []
  steps : Nat := 0
  mode : Nat := 0
  status : Nat := 0
  left : Nat := 0
  res : Nat := 0
  res2 : Nat := 0
  done : Bool := false
  deriving DecidableEq, Repr

/-- Nodes to be freed in the background (R352): runs as head, length and order: 0 the run alone, 1 the blocks below it first, 2 the
blocks below it afterwards. `va` is the pool's address, `tag` the owner tag of the instruction (R295), `held` a page waited for, with its code. -/
structure TreeJob where
  pool : Nat
  va : Nat
  asid : BitVec 8
  core : Nat
  tag : Nat × Nat
  runs : List (Nat × Nat × Nat)
  held : Option (Nat × Nat) := none
  deriving DecidableEq, Repr

/-- An operation that a strand has issued toward memory and that is performed later (R210, R230). `held` is the page that an append waits for, with its code (R349); `back` is what a TEXPAND gives back when
it traps: the region start before it, and the stores made since (R350). -/
inductive MemOp where
  | release (scope : Nat) (pc : Dword)
  | atomic (a : Access)
  | cadd (va : Dword) (pa : Nat) (inc : Word) (pc : Dword)
  | cread (va : Dword) (pa : Nat) (kind : Nat) (d : Nat) (pend : Nat) (pc : Dword)
  | tree (form : Nat) (d : Nat) (pc : Dword) (pend : Option Nat) (lanes : List TreeLane) (held : Option (Nat × Nat))
    (back : Option (Region × List Nat))
  deriving DecidableEq, Repr

/-- An operation that a strand has sent toward memory: the owner tag it was accepted with (R295), and the selector under which each
of its addresses was routed (R47). -/
structure Sent where
  sid : Nat
  tag : Nat × Nat
  sels : List (Nat × Option Nat)
  op : MemOp
  deriving DecidableEq, Repr

/-- A write of a uniform register or of the gather set that has not taken effect (R126, R190): the cycle in which it does, the port and
strand that issued it, and its value. `key` is r for k r, 64 + n for q n, and 128 + i for entry i of G. -/
structure UWrite where
  at_ : Nat
  port : Nat
  sid : Nat
  key : Nat
  val : Word
  deriving DecidableEq, Repr

/-- A tile of a bounds launch held by a lane (R322). -/
structure Tile where
  ix : Nat
  iy : Nat
  el : Nat
  point : Bool
  deriving DecidableEq, Repr

/-- A resident group (R121–R124). Lane registers are keyed 128·lane + register, predicates by lane (bit n is pn, bit 0
unused) and open bits likewise; k, q and G, with the writes `uq` that have not taken effect, are shared by the strands. `uv` is
what the instruction at work sees instead of the file, `uw` what it has written; both are empty between instructions. `left` holds unreleased stores of strands that
have exited (R239), `seen` what those strands have seen (R232), `mbad` the lanes, address and array kind of matrix operations lost to an error (R303). -/
structure Group where
  core : Nat
  slot : Nat
  ctx : BitVec 8
  team : Nat
  idx : Nat
  width : Nat
  nregs : Nat
  bounds : Bool := false
  age : Nat := 0
  v : AMap Word := []
  p : AMap Byte := []
  op : AMap Byte := []
  k : AMap Word := []
  q : Byte := 0
  gset : AMap (BitVec 16) := []
  uq : List UWrite := []
  uv : AMap Word := []
  uw : List (Nat × Word) := []
  strands : List Strand := []
  nextSid : Nat := 0
  nextId : Nat := 0
  join : List Join := []
  pend : List Pend := []
  ops : List Sent := []
  tiles : AMap Tile := []
  bars : AMap Nat := []
  regBase : Nat := 0
  left : List SStore := []
  seen : AMap (Nat × Byte) := []
  mbad : List (Dword × Dword × Nat) := []
  ended : Bool := false
  deriving DecidableEq, Repr

/-- A resident team (R257, R262, R268, R269). `rcd` is its task record, `left` the remaining budget in cycles
(none: unlimited); `cores` the cores it stands on, with the base of its statics on each, `accBases` the first entry of its accumulator
reservation by core, `accSize` its entries. -/
structure Team where
  uid : Nat
  ctx : BitVec 8
  fe : Nat
  lslot : Nat
  rcd : BitVec 512
  seq : Nat
  cluster : Nat
  cores : List Nat
  statBase : Nat
  accBases : AMap Nat
  accSize : Nat
  groups : Nat
  left : Option Nat
  nextAlloc : Nat := 1
  bars : AMap Nat := []
  stopping : Bool := false
  moving : Bool := false
  ending : Bool := false
  budgetStop : Bool := false
  yieldTo : Option Nat := none
  byCmd : Bool := false
  part : Nat := 0
  gen : Nat := 0
  deriving DecidableEq, Repr

/-! ## The operand log, the matrix engine and the tickets of a core -/

/-- What an operand-log entry holds (R74, R385). -/
inductive LogOp where
  | access (a : Access)
  | cadd (va : Dword) (inc : Word) (pc : Dword)
  | cwait (pc : Dword)
  | cread (va : Dword) (kind : Nat) (d : Nat) (pend : Nat) (pc : Dword)
  | tree (form : Nat) (d : Nat) (pend : Option Nat) (lanes : List TreeLane) (pc : Dword)
  /-- A release whose line met an uncorrectable error (R303). -/
  | release (scope : Nat) (pc : Dword)
  /-- The sources of a column read that met an uncorrectable error (R303). -/
  | column (pc : Dword)
  deriving DecidableEq, Repr

/-- An operand-log entry (R74): group slot, strand, code, the page it names; `go` once a replay has been started; `rg` the region start to record at
replay, with the number that separates stores made before it (R75). -/
structure LogEntry where
  idx : Nat
  grp : Nat
  sid : Nat
  code : Nat
  page : Nat
  op : LogOp
  go : Bool := false
  rg : Option (Region × Nat) := none
  deriving DecidableEq, Repr

/-- A matrix operation in the queue of an engine (R191): the issuing strand, its lanes, FMT and records, the gather
set and the lapsed sectors as they stood at issue (R190, R193). -/
structure MOp where
  instr : Instr
  grp : Nat
  sid : Nat
  pc : Dword
  mask : Dword
  fmt : Word
  word : Word
  acc : Word
  a : List Word
  as_ : List Word
  b : List Word
  bs : List Word
  gset : AMap (BitVec 16)
  lapsed : List Nat
  started : Bool := false
  ksteps : Nat := 0
  bad : Bool := false
  deriving DecidableEq, Repr

/-- The status of a ticket (R84, R93). -/
structure Ticket where
  ctx : BitVec 8
  team : Nat
  state : Nat := 0
  lapse : Bool := false
  err : BitVec 8 := 0
  fcode : BitVec 8 := 0
  blocks : Nat := 0
  deriving DecidableEq, Repr

/-- A placement hint in progress (R70). -/
structure Hint where
  id : Nat
  code : Nat
  asid : BitVec 8
  va : Nat
  len : Nat
  pos : Nat := 0
  deriving DecidableEq, Repr

/-- The arbitration state of a port (R271), the cycle from which it may arbitrate, and the cycles in which its FP64 unit and its
special-function unit are free (R168). -/
structure Port where
  dc : AMap Int := []
  ptr : Nat := 255
  at_ : Nat := 0
  fp64 : Nat := 0
  sfu : Nat := 0
  deriving DecidableEq, Repr

/-- A core: column, accumulator memory, matrix queue, heat-token buckets (in units of 1/256), operand log, tickets,
ports, hints, and the energy counters by context (R301). `hold` is the cycle in which the engine came to hold, `front` the last in which
the core issued or arbitrated. -/
structure Core where
  col : Column := {}
  acc : AMap Word := []
  mq : List MOp := []
  heat : AMap Nat := []
  hold : Option Nat := none
  olog : List LogEntry := []
  tickets : AMap Ticket := []
  seq : Nat := 0
  ports : AMap Port := []
  front : Nat := 0
  hints : List Hint := []
  nextHint : Nat := 0
  energy : AMap Ctr := []
  deriving DecidableEq, Repr

/-! ## Walkers (R76–R97) -/

/-- An accepted engine command (R84) with its queued tokens (R91). `mm` marks the panel multicast of an MMAX (R200). -/
structure Cmd where
  ticket : BitVec 32
  chain : Bool
  ctx : BitVec 8
  core : Nat
  team : Nat
  part : Nat
  gen : Nat
  addr : Nat
  blk : BitVec 1024
  tokens : List Byte := []
  mm : Bool := false
  deriving DecidableEq, Repr

/-- The step of R87 that a slot has reached. -/
inductive Phase where
  | fetch
  | permit
  | move
  | drain
  | token
  | ended
  deriving DecidableEq, Repr

/-- A beat that has been read and not yet written (R88, R89). -/
structure Beat where
  idx : Nat
  data : BitVec 512
  deriving DecidableEq, Repr

/-- A walker slot (R76–R92). `wait` holds the page and code of the retryable fault it waits on; `go` once FRRESUME has
named the page; `vis` what its releases publish: the writes of its blocks and those it has acquired (R87). -/
structure WSlot where
  cmd : Cmd
  blk : BitVec 1024
  phase : Phase
  next : Nat := 0
  beats : List Beat := []
  credit : Nat := 0
  tok : Option Nat := none
  wait : Option (Nat × Nat) := none
  go : Bool := false
  released : Bool := false
  vis : AMap (Nat × Byte) := []
  deriving DecidableEq, Repr

/-- A tile walker (R76, R78). -/
structure Walker where
  slots : AMap WSlot := []
  pendq : List Cmd := []
  last : Nat := 7
  deriving DecidableEq, Repr

/-! ## Front ends, launches and queue banks (R256–R272) -/

/-- A saved team (R291): the image's contents as data, with the save slot it occupies, the size of the image in bytes and the number of
its text, by which the restore checks that nothing has changed it (R292). -/
structure Image where
  team : Team
  grps : List Group
  allocs : List (Nat × Alloc)
  bytes : List (Nat × AMap Byte)
  stamps : List (Nat × AMap Int)
  acc : List (Nat × AMap Word)
  base : Nat
  slot : Nat
  at_ : Nat
  size : Nat
  text : Nat
  deriving DecidableEq, Repr

/-- A task record with its key (R262): the 64-byte record, SEQ, queue, unit, the conditions that have been found to
hold, and the image of a moved team (R290). `id` is the model's own number of it; `staged` says that it stands in staging (R270), and
`err` that its place in the bank holds an error, true for two bits (R305). -/
structure Task where
  id : Nat
  rcd : BitVec 512
  seq : Option Nat := none
  q : Nat
  unit : Nat
  held : BitVec 4 := 0
  wait : List Nat := []
  faulted : Bool := false
  img : Option Image := none
  staged : Bool := false
  err : Option Bool := none
  deriving DecidableEq, Repr

/-- A queue bank with its registers (R264) and the steps of a change of owner (R294). -/
structure Bank where
  tasks : List Task := []
  nextSeq : Nat := 0
  qovf : Dword := 0
  qage : Word := 0x00040000
  ringHead : Nat := 0
  ringLen : Nat := 0
  ringMeta : List Task := []
  pass : Bool := false
  deriving DecidableEq, Repr

/-- A page being moved (R68, R70): 1 migrate to Tier H, 2 replicate, 3 to Tier L. `step` is the last step of R68 taken,
`ent` the entry as read and `entPa` where it stands, `frame` the new frame, `inv` a wait for an
invalidation, `full` one for room in the release ring. -/
structure Job where
  asid : BitVec 8
  va : Nat
  lg : Nat
  disp : Nat
  step : Nat := 1
  ent : Nat
  entPa : Nat
  frame : Nat
  inv : Bool := false
  full : Bool := false
  deriving DecidableEq, Repr

/-- How far a launch has come (R258). -/
inductive LPhase where
  | queued
  /-- Waiting at step 1 or 3 for a page of a context that FRRESUME must name. -/
  | waiting (ctx page step : Nat)
  /-- At step 3 again, once it has named the page. -/
  | resumed
  | ranges
  | enqueue
  | active
  | faulted
  deriving DecidableEq, Repr

/-- A launch slot (R259) with the record as read (R257). `next` is the first team not yet enqueued, `ntasks` counts the
tasks enqueued or staged and not yet ended, `moved` the pages migrated (R66), `lines` the physical gong lines bound (R222).
`list` holds the open-tile list as the front end has written it, `child` and `childIx` the next child to issue
(R335). `addWait` is the page a completion add waits for, `noAdd` says the launch never makes one (R288). `by_` names the core, team and
group that launched, `seen` what its strand had seen (R265). -/
structure Launch where
  asid : BitVec 8
  va : Dword
  rcd : BitVec 2048 := 0
  phase : LPhase := .queued
  next : Nat := 0
  ntasks : Nat := 0
  resident : Nat := 0
  eos : Nat := 0
  moved : Nat := 0
  lines : List Nat := []
  bars : AMap Nat := []
  list : List Nat := []
  child : Nat := 0
  childIx : Nat := 0
  addWait : Option Nat := none
  noAdd : Bool := false
  by_ : Option (Nat × Nat × Nat) := none
  seen : AMap (Nat × Byte) := []
  deriving DecidableEq, Repr

/-- A tile on its way to an open-tile list (R331, R334). -/
structure TileMsg where
  lslot : Nat
  ix : Nat
  iy : Nat
  el : Nat
  point : Bool
  deriving DecidableEq, Repr

/-- A front end (R256): registers (`door` is what has been written to FEDOOR), the queue of accepted launches, launch slots, spawned records in staging, records
held while it has no cluster, the page it is moving, the ranges of the launch at the head of its queue (first byte, end,
disposition) with the page that comes next, tiles to append. -/
structure FrontEnd where
  fecfg : Dword := 0
  fertab : Dword := 0
  door : Dword := 0
  drop : Bool := false
  lastId : BitVec 15 := 0
  lines0 : Dword := 0
  lines1 : Dword := 0
  queue : List Nat := []
  slots : AMap Launch := []
  staging : List (BitVec 512) := []
  held : List Task := []
  job : Option Job := none
  rlist : List (Nat × Nat × Nat) := []
  rpos : Nat := 0
  rva : Nat := 0
  tiles : List TileMsg := []
  tileWait : Option Nat := none
  deriving DecidableEq, Repr

/-! ## Registers of the dies -/

/-- The block of one context in a die's window (R280). -/
structure CtxBlock where
  ttbase : Dword := 0
  savebase : Dword := 0
  savecfg : Dword := 0
  rring : Dword := 0
  tring : Dword := 0
  entab : Dword := 0
  stop : Bool := false
  done : Bool := true
  deriving DecidableEq, Repr

/-- The owner register of a cluster as one die holds it (R293). -/
structure Cown where
  part : BitVec 5 := 0
  none_ : Bool := true
  gen : BitVec 11 := 0
  moving : Bool := false
  scrub : Bool := false
  deriving DecidableEq, Repr

/-- The registers of one die's window (R44): translation (R56, R62), FRRESUME (R285), TEAMCMD (R286), the Carillon's
(R208; `ccGo` is the OP of the operation in progress), issue weights (R271), energy weights (R298), COREOFF (R373), owner registers (R293), context blocks
(R280), selector entries (R47) and channel counter blocks (R48). -/
structure Die where
  ctxbase : Dword := 0
  txinva : Dword := 0
  txAsid : BitVec 8 := 0
  txScope : BitVec 2 := 0
  txDone : Bool := true
  frresume : Dword := 0
  frDone : Bool := true
  teamcmd : Dword := 0
  tcDone : Bool := true
  tcErr : Bool := false
  csplit : BitVec 6 := 16
  carUsed : Bool := false
  csyncbase : Dword := 0
  csynclen : Dword := 0
  covfbase : Dword := 0
  ccaddr : Dword := 0
  ccdata : Dword := 0
  ccOp : BitVec 2 := 0
  ccGo : BitVec 2 := 0
  ccDone : Bool := true
  ccErr : Bool := false
  ccKind : BitVec 3 := 0
  ccOvf : Bool := false
  weights : AMap Byte := []
  ewt : Dword := 0x00020402_20040201
  ews : BitVec 16 := 64
  ewtNext : Option Dword := none
  ewsNext : Option (BitVec 16) := none
  coreoff : BitVec 128 := 0
  cown : AMap Cown := []
  ctxs : AMap CtxBlock := []
  selH : AMap (BitVec 3) := []
  selL : AMap (BitVec 3) := []
  chans : AMap Chan := []
  treeFree : List TreeJob := []
  deriving DecidableEq, Repr

/-! ## Carillon units, errors, the reporting port -/

/-- The kinds of a unit of sync space (R209). -/
inductive Kind where
  | free
  | counter
  | words
  | pair32
  | pair64
  | tree
  deriving DecidableEq, Repr

/-- The tag of a unit (R209): its kind and overflow flag; `bad` once its array has failed (R303). -/
structure Unit_ where
  kind : Kind := .free
  ovf : Bool := false
  bad : Bool := false
  deriving DecidableEq, Repr

/-- An error log of one array instance (R302, R305): eight places filled in turn, `next` counting the entries made. `bad` lists the 64-bit words whose check bits are inverted, with
true for two bits. -/
structure ErrLog where
  log : AMap (BitVec 128) := []
  next : Nat := 0
  corr : Word := 0
  uncorr : Word := 0
  armed : Option (Nat × Bool) := none
  bad : AMap Bool := []
  deriving DecidableEq, Repr

/-- Who posts a record (R283): a strand; a walker slot; a front end; a port (0 network, 1 storage); the record of a task, by the task's
number; a team; a result in flight of a group; or a unit that never waits. -/
inductive Party where
  | device
  | strand (core slot sid : Nat)
  | slot (walker i : Nat)
  | fe (f : Nat)
  | port (i : Nat)
  | task (id : Nat)
  | team (uid : Nat)
  | pend (core slot id : Nat)
  deriving DecidableEq, Repr

/-- A record of a fault ring (R281) on its way to the reporting port. `key` is the context, or the VF. -/
structure FRec where
  key : Nat
  data : BitVec 256
  who : Party
  deriving DecidableEq, Repr

/-- The reporting port of die 0 (R283): three queues (0 retryable, 1 terminal, 2 VF), the records of parties that wait
for room in them, the weighted choice, and the rings it has found full. -/
structure RepPort where
  q : AMap (List FRec) := []
  waitq : AMap (List FRec) := []
  credit : AMap Nat := []
  last : Nat := 2
  full : List (Nat × Nat) := []
  vfrtab : Dword := 0
  frarb : Dword := 0x144
  deriving DecidableEq, Repr

/-! ## The management block (R361–R371) -/

/-- A forwarding window (R362). -/
structure Window where
  base : Dword := 0
  len : Dword := 0
  port : Dword := 0
  off : Dword := 0
  deriving DecidableEq, Repr

/-- A request of a root-port DMA that waits for a page (R55, R285). -/
structure Dma where
  storage : Bool
  asid : BitVec 8
  va : Dword
  write : Bool
  val : Dword
  deriving DecidableEq, Repr

/-- The last answer of the SPDM responder (R371): request code, version, and the measured values or signature. -/
structure SpdmMsg where
  req : Nat
  ver : Nat
  error : Bool := false
  digests : List (BitVec 256) := []
  sig : Option Nat := none
  payload : List Nat := []
  deriving DecidableEq, Repr

/-- The application die (R361–R371): power, heat, thermal and boot registers, the start count S of the non-volatile
store, windows, links, DMA requests that wait, the port and PCIe address of the last forwarded request, VF mailboxes, MSI-X signals by VF and vector, measurements and SPDM state. -/
structure Mgmt where
  state : Nat := 0
  busy : Bool := false
  target : Nat := 0
  err : Bool := false
  ovr : Bool := false
  plim : BitVec 12 := 2600
  htcfg : AMap (BitVec 32) := []
  htNext : AMap (BitVec 32) := []
  tmax : Byte := 0
  twarn : Byte := 95
  warn : Bool := false
  mode : Nat := 0
  bootCount : Nat := 0
  reason : Byte := 0
  starts : Nat := 0
  clrNext : Bool := false
  startTime : Nat := 0
  bootStep : Nat := 0
  fw : AMap Window := []
  links : AMap (Nat × Nat) := []
  dma : List Dma := []
  fwdOut : Option (Nat × Dword) := none
  mailbox : AMap Word := []
  mailIrq : List (Nat × Word) := []
  msix : List (Nat × Nat) := []
  meas : List (BitVec 256) := []
  spdmVer : Option Nat := none
  spdmAlg : Option Bool := none
  spdmOut : Option SpdmMsg := none
  deriving DecidableEq, Repr

/-- The progress of a cluster's change of owner (R294): the new owner, the step, and when the step began. -/
structure Reown where
  old : Option Nat
  next : Option Nat
  step : Nat
  since : Nat
  deriving DecidableEq, Repr

/-! ## The whole machine -/

/-- An entry of the model's own agenda: the next instruction of a strand, an event, or the resident kernel's signal of an MSI-X vector of
a VF (R363). -/
inductive Turn where
  | issue (core slot sid : Nat)
  | event (i : Instr)
  | signal (vf vector : Nat)
  deriving DecidableEq, Repr

/-- The state of the module. `clk` counts arithmetic cycles, in tenths, up to the start of the current tick (R4). `hist` lists the bytes
written to memory, newest first, each with the value it replaced, and with its places in frames to which its page has been copied since (R235); `pub` holds for each domain the last published write
to each byte, with its number (R231). `agenda`, `cur`, `nextUid`, `ageCtr` and `epoch` are the model's own. -/
structure State where
  time : Dword
  clk : Nat
  powered : Bool
  mem : List Host.Cell
  hist : List (List Host.Cell)
  pub : AMap (AMap (Nat × Byte))
  units : AMap Unit_
  dies : AMap Die
  cores : AMap Core
  groups : AMap Group
  teams : AMap Team
  walkers : AMap Walker
  banks : AMap Bank
  reown : AMap Reown
  fes : AMap FrontEnd
  tlbs : AMap (List Tlb)
  invs : List Inval
  errs : AMap ErrLog
  rep : RepPort
  mg : Mgmt
  agenda : List Turn
  cur : Option (Nat × Nat × Nat)
  nextUid : Nat
  ageCtr : Nat
  epoch : Nat
  deriving DecidableEq, Repr

/-- The state right after main power is first applied: TIME 0 (R3), every register at the reset of its map (R6, R44),
the columns, tiers and Carillon SRAM empty, MODE 0 (R370). -/
def State.reset : State where
  time := 0
  clk := 0
  powered := true
  mem := []
  hist := []
  pub := []
  units := []
  dies := []
  cores := []
  groups := []
  teams := []
  walkers := []
  banks := []
  reown := []
  fes := []
  tlbs := []
  invs := []
  errs := []
  rep := {}
  mg := {}
  agenda := []
  cur := none
  nextUid := 0
  ageCtr := 0
  epoch := 0

/-- What stops a run of the model. -/
inductive Fault where
  /-- An encoded instruction was executed with no strand to execute it: raised by every encoded instruction's meaning
  in a state whose `cur` names no live strand. The hardware has no such situation, so the stop is safe. -/
  | noStrand
  deriving DecidableEq, Repr

/-- What the model declines. -/
inductive Refusal where
  /-- The instruction has no meaning yet; raised by its arm in Dispatch only. Safe: nothing is claimed of it. -/
  | notModelled (mnemonic : String)
  deriving DecidableEq, Repr

end Sys2Proof.Machine
end

