-- ==== Sys2Proof/Machine/Maps.lean ====
section
/-! DEFINITION. Sparse maps and little-endian byte access (R5): the operations by which every store of the state is
read and written. A map lists no entry equal to its default, in ascending order of the keys. -/

namespace Sys2Proof.Machine

/-- The value at `k`, or the default of the map. -/
def mget {α : Type} (d : α) : AMap α → Nat → α
  | [], _ => d
  | (j, v) :: t, k => if k = j then v else mget d t k

/-- The value at `k` where there is one. -/
def mfind {α : Type} : AMap α → Nat → Option α
  | [], _ => none
  | (j, v) :: t, k => if k = j then some v else mfind t k

/-- Removes the entry at `k`. -/
def mdel {α : Type} : AMap α → Nat → AMap α
  | [], _ => []
  | (j, v) :: t, k => if k = j then mdel t k else (j, v) :: mdel t k

/-- Puts an entry before the first greater key. -/
def mins {α : Type} (k : Nat) (v : α) : AMap α → AMap α
  | [] => [(k, v)]
  | (j, w) :: t => if k < j then (k, v) :: (j, w) :: t else (j, w) :: mins k v t

/-- Writes `v` at `k`, whatever the default. -/
def mput {α : Type} (m : AMap α) (k : Nat) (v : α) : AMap α := mins k v (mdel m k)

/-- Writes `v` at `k`; writing the default removes the entry. -/
def mset {α : Type} [DecidableEq α] (d : α) (m : AMap α) (k : Nat) (v : α) : AMap α :=
  if v = d then mdel m k else mput m k v

/-- The canonical form: keys strictly ascending, no entry equal to the default. -/
def mwf {α : Type} [DecidableEq α] (d : α) : AMap α → Bool
  | [] => true
  | [(_, v)] => decide (v ≠ d)
  | (j, v) :: (k, w) :: t => decide (v ≠ d) && decide (j < k) && mwf d ((k, w) :: t)

/-- Keeps the entries whose key satisfies `f`. -/
def mkeep {α : Type} (f : Nat → Bool) (m : AMap α) : AMap α := m.filter fun e => f e.1

/-- Applies `f` to each value, keeping keys. -/
def mmap {α : Type} (f : Nat → α → α) (m : AMap α) : AMap α := m.map fun e => (e.1, f e.1 e.2)

/-- What a byte of memory that nothing has written reads as (log entry 1, DESIGN CHOICE, unsafe). -/
def memDefault : Byte := 0

/-- The canonical form of a memory. -/
def Memory.wf (m : List Host.Cell) : Bool := mwf memDefault m

/-- One byte of memory. -/
def memByte (m : List Host.Cell) (a : Nat) : Byte := mget memDefault m a

/-- Writes one byte of memory. -/
def memPut (m : List Host.Cell) (a : Nat) (v : Byte) : List Host.Cell := mset memDefault m a v

/-- `n` bytes from `a`, little-endian (R5). -/
def readLE (f : Nat → Byte) (a : Nat) : Nat → Nat
  | 0 => 0
  | n + 1 => (f a).toNat + 256 * readLE f (a + 1) n

/-- Reads `n` bytes of memory as a number. -/
def memRead (m : List Host.Cell) (a n : Nat) : Nat := readLE (memByte m) a n

/-- Writes the low `n` bytes of `v` at `a`, little-endian (R5). -/
def memWrite (m : List Host.Cell) (a : Nat) : Nat → Nat → List Host.Cell
  | 0, _ => m
  | n + 1, v => memWrite (memPut m a (BitVec.ofNat 8 v)) (a + 1) n (v / 256)

/-- Writes bytes of a sparse byte map in the same way. -/
def bytesWrite (m : AMap Byte) (a : Nat) : Nat → Nat → AMap Byte
  | 0, _ => m
  | n + 1, v => bytesWrite (mset 0 m a (BitVec.ofNat 8 v)) (a + 1) n (v / 256)

/-- Reads bytes of a sparse byte map. -/
def bytesRead (m : AMap Byte) (a n : Nat) : Nat := readLE (mget 0 m) a n

/-- The slice [hi:lo] of a number (R5). -/
def bits (x hi lo : Nat) : Nat := x / 2 ^ lo % 2 ^ (hi + 1 - lo)

/-- The lanes of a mask, ascending (R8). -/
def lanesOf (mask : Dword) : List Nat := (List.range 64).filter fun l => mask.getLsbD l

/-- The mask of a list of lanes. -/
def maskOf (ls : List Nat) : Dword := ls.foldl (fun m l => m ||| (1#64 <<< l)) 0

/-- All `w` lanes. -/
def fullMask (w : Nat) : Dword := BitVec.ofNat 64 (2 ^ w - 1)

/-- The lowest lane of a mask, 64 when it is empty. -/
def lowest (mask : Dword) : Nat := ((lanesOf mask).head?).getD 64

end Sys2Proof.Machine
end

