-- ==== Sys2Proof/Machine/Flags.lean ====
section
/-! DEFINITION. Conditions of integer compares (R145), the flags of FX (R128) and the carries of R144. -/

namespace Sys2Proof.Machine

/-- FX.NV: invalid operation (R128). -/
def fxNV : Word := 0x01
/-- FX.DZ: division by zero (R128). -/
def fxDZ : Word := 0x02
/-- FX.OF: overflow (R128). -/
def fxOF : Word := 0x04
/-- FX.UF: underflow (R128). -/
def fxUF : Word := 0x08
/-- FX.NX: inexact (R128). -/
def fxNX : Word := 0x10
/-- FX.BN: a one-element tile was open through NaN (R128, R330). -/
def fxBN : Word := 0x20

/-- A flag when a condition holds. -/
def flagIf (c : Bool) (f : Word) : Word := if c then f else 0

/-- The condition codes 0–11 of R145 on values of one width; codes 12–15 are refused before this is asked. -/
def intCond {w : Nat} (c : Nat) (a b : BitVec w) : Bool :=
  match c with
  | 0 => a == b
  | 1 => a != b
  | 2 => a.slt b
  | 3 => a.sle b
  | 4 => b.slt a
  | 5 => b.sle a
  | 6 => a.ult b
  | 7 => a.ule b
  | 8 => b.ult a
  | 9 => b.ule a
  | 10 => (a &&& b) != 0
  | _ => (a &&& b) == 0

/-- IADDX (R144): the sum and the carry. -/
def addCarry (a b : Word) (c : Bool) : Word × Bool :=
  let t := a.toNat + b.toNat + c.toNat
  (BitVec.ofNat 32 t, decide (2 ^ 32 ≤ t))

/-- ISUBX (R144): the difference and the borrow. -/
def subBorrow (a b : Word) (c : Bool) : Word × Bool :=
  let t : Int := (a.toNat : Int) - b.toNat - c.toNat
  (BitVec.ofInt 32 t, decide (t < 0))

/-- A left shift by an unsigned count (R141, R147, R149). -/
def shlN {w : Nat} (a : BitVec w) (n : Nat) : BitVec w := if w ≤ n then 0 else a <<< n

/-- A right shift by an unsigned count (R141, R147, R149). -/
def shrN {w : Nat} (a : BitVec w) (n : Nat) : BitVec w := if w ≤ n then 0 else a >>> n

/-- An arithmetic right shift by an unsigned count (R141). -/
def sarN (a : Word) (n : Nat) : Word :=
  if 32 ≤ n then (if a.msb then BitVec.allOnes 32 else 0) else a.sshiftRight n

/-- A left rotation by b[4:0] (R141). -/
def rotlN (a : Word) (n : Nat) : Word := if n % 32 = 0 then a else a.rotateLeft (n % 32)

/-- The number of one bits (R142). -/
def popcount (a : Word) : Word := BitVec.ofNat 32 ((List.range 32).countP fun i => a.getLsbD i)

/-- The number of zero bits above the highest one bit (R142). -/
def clz32 (a : Word) : Word := BitVec.ofNat 32 (if a = 0 then 32 else 31 - Nat.log2 a.toNat)

/-- Bit reversal (R142). -/
def brev32 (a : Word) : Word :=
  BitVec.ofNat 32 ((List.range 32).foldl (fun r i => 2 * r + (a.getLsbD i).toNat) 0)

/-- The clipped field length of R143. -/
def bfLen (b : Word) : Nat := min (min (bits b.toNat 13 8) 32) (32 - bits b.toNat 4 0)

/-- BFX (R143). -/
def bfx (a b : Word) : Word :=
  let n := bfLen b
  let x := a.toNat / 2 ^ bits b.toNat 4 0 % 2 ^ n
  if b.getLsbD 16 && decide (0 < n) && decide (2 ^ (n - 1) ≤ x) then BitVec.ofNat 32 (x + 2 ^ 32 - 2 ^ n)
  else BitVec.ofNat 32 x

/-- BFI (R143). -/
def bfi (d a b : Word) : Word :=
  let pos := bits b.toNat 4 0
  let m : Word := BitVec.ofNat 32 ((2 ^ bfLen b - 1) * 2 ^ pos)
  (d &&& ~~~m) ||| ((a <<< pos) &&& m)

/-- The four-byte dot products of R181. -/
def dot4 (signed : Bool) (a b : Word) : Word :=
  (List.range 4).foldl (fun s j =>
    let x := a.extractLsb' (8 * j) 8
    let y := b.extractLsb' (8 * j) 8
    if signed then s + (x.signExtend 32) * (y.signExtend 32)
    else s + (x.setWidth 32) * (y.setWidth 32)) 0

end Sys2Proof.Machine
end

