-- ==== Sys2Proof/Machine/Float.lean ====
section
/-! DEFINITION. Number formats and rounding (file 08), and the scalar floating operations of file 09 as functions of
codes, a rounding mode and the flush control. A real number is held exactly as sign, integer significand and
exponent; a flag `sticky` stands for a positive remainder below the last bit of the significand. -/

namespace Sys2Proof.Machine

/-- A floating format (R152): precision, fraction width, exponent width, bias; `kind` 0 with infinities, 1 E4, 2 S8. -/
structure Fmt where
  p : Nat
  fw : Nat
  ew : Nat
  bias : Int
  kind : Nat
  deriving DecidableEq, Repr

def fp64 : Fmt := ⟨53, 52, 11, 1023, 0⟩
def fp32 : Fmt := ⟨24, 23, 8, 127, 0⟩
def fp16 : Fmt := ⟨11, 10, 5, 15, 0⟩
def bf16 : Fmt := ⟨8, 7, 8, 127, 0⟩
def fmtE4 : Fmt := ⟨4, 3, 4, 7, 1⟩
def fmtE5 : Fmt := ⟨3, 2, 5, 15, 0⟩
def fmtS8 : Fmt := ⟨4, 3, 5, 15, 2⟩

/-- A decoded value (R153): NaN (signalling or quiet), infinity, or (−1)^neg · m · 2^e. -/
inductive FVal where
  | nan (sig : Bool)
  | inf (neg : Bool)
  | fin (neg : Bool) (m : Nat) (e : Int)
  deriving DecidableEq, Repr

/-- Rounding modes of FMT.RM (R127). -/
def rmNear : Nat := 0
def rmZero : Nat := 1
def rmDown : Nat := 2
def rmUp : Nat := 3

/-- The least exponent of a grid member (R154). -/
def Fmt.qmin (F : Fmt) : Int := 1 - F.bias - (F.p - 1 : Nat)

/-- Decoding of a code (R153, R157). -/
def fdec (F : Fmt) (c : Nat) : FVal :=
  let f := c % 2 ^ F.fw
  let e := c / 2 ^ F.fw % 2 ^ F.ew
  let s := if F.kind = 2 then false else c / 2 ^ (F.fw + F.ew) % 2 == 1
  if F.kind = 0 ∧ e = 2 ^ F.ew - 1 then
    if f = 0 then .inf s else .nan (f < 2 ^ (F.fw - 1))
  else if F.kind = 1 ∧ e = 15 ∧ f = 7 then .nan false
  else if e = 0 then .fin s f F.qmin
  else .fin s (2 ^ F.fw + f) ((e : Int) - F.bias - F.fw)

/-- The sign bit of a code as a number. -/
def fsign (F : Fmt) (neg : Bool) : Nat := if neg ∧ F.kind ≠ 2 then 2 ^ (F.fw + F.ew) else 0

/-- The canonical NaN (R153). -/
def fnan (F : Fmt) : Nat :=
  if F.kind = 1 then 0x7F else (2 ^ F.ew - 1) * 2 ^ F.fw + 2 ^ (F.fw - 1)

/-- The code of an infinity, for formats that have one. -/
def finf (F : Fmt) (neg : Bool) : Nat := fsign F neg + (2 ^ F.ew - 1) * 2 ^ F.fw

/-- The code of ±Max (R152, R157). -/
def fmax (F : Fmt) (neg : Bool) : Nat :=
  fsign F neg + (if F.kind = 0 then (2 ^ F.ew - 1) * 2 ^ F.fw - 1 else if F.kind = 1 then 0x7E else 0xFF)

/-- Whether rounding moves away from zero, given the integer part, the comparison of the remainder with one half
(0 below, 1 equal, 2 above) and whether anything was lost (R154). -/
def rndUp (rm : Nat) (neg : Bool) (n half : Nat) (inexact : Bool) : Bool :=
  match rm with
  | 0 => half == 2 || (half == 1 && n % 2 == 1)
  | 1 => false
  | 2 => neg && inexact
  | _ => !neg && inexact

/-- Rounds m·2^e (plus a remainder when `sticky`) to an integer multiple of 2^q: the multiple and inexactness. -/
def rndAt (rm : Nat) (neg : Bool) (m : Nat) (e q : Int) (sticky : Bool) : Nat × Bool :=
  if q ≤ e then (m * 2 ^ (e - q).toNat, sticky)
  else
    let s := (q - e).toNat
    if s > Nat.log2 m + 2 then
      let inex := m ≠ 0 || sticky
      ((rndUp rm neg 0 0 inex).toNat, inex)
    else
      let n := m / 2 ^ s
      let r := m % 2 ^ s
      let h := 2 ^ (s - 1)
      let half := if r < h then 0 else if r = h ∧ !sticky then 1 else 2
      let inex := r ≠ 0 || sticky
      (n + (rndUp rm neg n half inex).toNat, inex)

/-- Overflow of R155. -/
def fovf (F : Fmt) (rm : Nat) (sat : Bool) (neg : Bool) : Nat :=
  if F.kind = 2 ∨ sat then fmax F neg
  else if F.kind = 1 then fsign F neg + 0x7F
  else if rm = 0 ∨ (rm = 2 ∧ neg) ∨ (rm = 3 ∧ !neg) then finf F neg
  else fmax F neg

/-- Encodes n·2^q, a member of the grid with n ≤ 2^P (R153). -/
def fenc (F : Fmt) (neg : Bool) (n : Nat) (q : Int) : Nat :=
  let (n, q) := if n = 2 ^ F.p then (2 ^ (F.p - 1), q + 1) else (n, q)
  if n < 2 ^ (F.p - 1) then fsign F neg + n
  else fsign F neg + (q + (F.p - 1 : Nat) + F.bias).toNat * 2 ^ F.fw + (n - 2 ^ (F.p - 1))

/-- RoundFormat (R154, R155): the code and the flags OF, NX and UF. -/
def roundFormat (F : Fmt) (rm : Nat) (sat : Bool) (x : FVal) (sticky : Bool := false) : Nat × Word :=
  match x with
  | .nan _ => (fnan F, 0)
  | .inf neg =>
    if F.kind = 2 then (0xFF, fxOF ||| fxNX)
    else if F.kind = 0 then (finf F neg, 0)
    else if sat then (fmax F neg, 0) else (fsign F neg + 0x7F, 0)
  | .fin neg m e =>
    if m = 0 ∧ !sticky then (fsign F neg, 0)
    else
      let top : Int := e + Nat.log2 m
      let q0 : Int := top - (F.p - 1 : Nat)
      let q := max q0 F.qmin
      let (n, inex) := rndAt rm neg m e q sticky
      let (n1, _) := rndAt rm neg m e q0 sticky
      let top1 := if n1 = 2 ^ F.p then q0 + F.p else top
      let tiny := decide (top1 < 1 - F.bias)
      let emax : Int := if F.kind = 0 then F.bias else if F.kind = 1 then 8 else 16
      let topn : Int := q + Nat.log2 n
      let big := n ≠ 0 && (decide (emax < topn) ||
        (F.kind = 1 && topn == emax && decide (emax - 3 ≤ q) && decide (15 ≤ n * 2 ^ (q - (emax - 3)).toNat)))
      if big then (fovf F rm sat neg, fxOF ||| fxNX)
      else (fenc F neg n q, flagIf inex fxNX ||| flagIf (inex && tiny) fxUF)

/-- The result flush of R156: a subnormal code becomes a zero of its sign, with UF and NX. -/
def flushRes (F : Fmt) (fz : Bool) (r : Nat × Word) : Nat × Word :=
  let e := r.1 / 2 ^ F.fw % 2 ^ F.ew
  let f := r.1 % 2 ^ F.fw
  if fz ∧ e = 0 ∧ f ≠ 0 then (r.1 - f, r.2 ||| fxUF ||| fxNX) else r

/-- The source flush of R156 on a code. -/
def flushSrc (F : Fmt) (fz : Bool) (c : Nat) : Nat :=
  let e := c / 2 ^ F.fw % 2 ^ F.ew
  let f := c % 2 ^ F.fw
  if fz ∧ e = 0 then c - f else c

/-- A source read as a value, after the flush. -/
def fsrc (F : Fmt) (fz : Bool) (c : Nat) : FVal := fdec F (flushSrc F fz c)

/-- A signalling NaN. -/
def FVal.isSig : FVal → Bool
  | .nan s => s
  | _ => false

/-- A NaN of either kind. -/
def FVal.isNaN : FVal → Bool
  | .nan _ => true
  | _ => false

/-- A zero. -/
def FVal.isZero : FVal → Bool
  | .fin _ 0 _ => true
  | _ => false

/-- The sign. -/
def FVal.neg : FVal → Bool
  | .nan _ => false
  | .inf n => n
  | .fin n _ _ => n

/-- The value with the other sign. -/
def FVal.flip : FVal → FVal
  | .nan s => .nan s
  | .inf n => .inf (!n)
  | .fin n m e => .fin (!n) m e

/-- The exact sum of finite values as a signed significand at the lesser exponent. -/
def sumInt (n1 : Bool) (m1 : Nat) (e1 : Int) (n2 : Bool) (m2 : Nat) (e2 : Int) : Int × Int :=
  let e := min e1 e2
  let x : Int := (m1 * 2 ^ (e1 - e).toNat : Nat)
  let y : Int := (m2 * 2 ^ (e2 - e).toNat : Nat)
  ((if n1 then -x else x) + (if n2 then -y else y), e)

/-- The exact sum with the sign rule of R171, and whether the addition is invalid. -/
def fvAdd (rm : Nat) (a b : FVal) : FVal × Bool :=
  match a, b with
  | .nan _, _ => (.nan false, false)
  | _, .nan _ => (.nan false, false)
  | .inf x, .inf y => if x = y then (.inf x, false) else (.nan false, true)
  | .inf x, .fin _ _ _ => (.inf x, false)
  | .fin _ _ _, .inf y => (.inf y, false)
  | .fin n1 m1 e1, .fin n2 m2 e2 =>
    if m1 = 0 ∧ m2 = 0 then (.fin (if n1 = n2 then n1 else rm == rmDown) 0 0, false)
    else if m1 = 0 then (.fin n2 m2 e2, false)
    else if m2 = 0 then (.fin n1 m1 e1, false)
    else
      let (s, e) := sumInt n1 m1 e1 n2 m2 e2
      if s = 0 then (.fin (rm == rmDown) 0 0, false) else (.fin (decide (s < 0)) s.natAbs e, false)

/-- The exact product, and whether the multiplication is invalid. -/
def fvMul (a b : FVal) : FVal × Bool :=
  match a, b with
  | .nan _, _ => (.nan false, false)
  | _, .nan _ => (.nan false, false)
  | .inf x, .inf y => (.inf (x != y), false)
  | .inf x, .fin n m _ => if m = 0 then (.nan false, true) else (.inf (x != n), false)
  | .fin n m _, .inf x => if m = 0 then (.nan false, true) else (.inf (x != n), false)
  | .fin n1 m1 e1, .fin n2 m2 e2 => (.fin (n1 != n2) (m1 * m2) (e1 + e2), false)

/-- a × b + d exactly (R171): NV also for 0 × ∞ with a quiet NaN addend (R167). -/
def fvFma (rm : Nat) (a b d : FVal) : FVal × Bool :=
  let (p, i1) := fvMul a b
  let (s, i2) := fvAdd rm p d
  (s, i1 || i2)

/-- Rounds with NV for signalling sources and invalid operations (R167), then flushes. -/
def finish (F : Fmt) (rm : Nat) (fz : Bool) (srcs : List FVal) (r : FVal × Bool) (sticky : Bool := false) :
    Nat × Word :=
  let q := flushRes F fz (roundFormat F rm false r.1 sticky)
  (q.1, q.2 ||| flagIf (r.2 || srcs.any FVal.isSig) fxNV)

/-- FADD, DADD and the halves of HADD2 (R171, R178, R179). -/
def fadd (F : Fmt) (rm : Nat) (fz : Bool) (a b : Nat) : Nat × Word :=
  let x := fsrc F fz a
  let y := fsrc F fz b
  finish F rm fz [x, y] (fvAdd rm x y)

/-- FSUB, DSUB (R171): a NaN keeps its kind, every other b changes sign. -/
def fsub (F : Fmt) (rm : Nat) (fz : Bool) (a b : Nat) : Nat × Word :=
  let x := fsrc F fz a
  let y := fsrc F fz b
  finish F rm fz [x, y] (fvAdd rm x y.flip)

/-- FMUL, DMUL and the halves of HMUL2. -/
def fmul (F : Fmt) (rm : Nat) (fz : Bool) (a b : Nat) : Nat × Word :=
  let x := fsrc F fz a
  let y := fsrc F fz b
  finish F rm fz [x, y] (fvMul x y)

/-- FFMA, DFMA and the halves of HFMA2: one rounding. -/
def ffma (F : Fmt) (rm : Nat) (fz : Bool) (a b d : Nat) : Nat × Word :=
  let x := fsrc F fz a
  let y := fsrc F fz b
  let z := fsrc F fz d
  finish F rm fz [x, y, z] (fvFma rm x y z)

/-- How many bits a quotient or a root is computed to, beyond what any format needs. -/
def guardBits : Nat := 64

/-- The exact quotient as a significand with a remainder, DZ and invalid (R167, R171). -/
def fvDiv (a b : FVal) : FVal × Bool × Bool × Bool :=
  match a, b with
  | .nan _, _ => (.nan false, false, false, false)
  | _, .nan _ => (.nan false, false, false, false)
  | .inf _, .inf _ => (.nan false, false, false, true)
  | .inf x, .fin n _ _ => (.inf (x != n), false, false, false)
  | .fin n _ _, .inf x => (.fin (n != x) 0 0, false, false, false)
  | .fin n1 m1 e1, .fin n2 m2 e2 =>
    if m2 = 0 then
      if m1 = 0 then (.nan false, false, false, true) else (.inf (n1 != n2), false, true, false)
    else if m1 = 0 then (.fin (n1 != n2) 0 0, false, false, false)
    else
      let s := guardBits + Nat.log2 m2
      let q := m1 * 2 ^ s / m2
      let r := m1 * 2 ^ s % m2
      (.fin (n1 != n2) q (e1 - e2 - s), decide (r ≠ 0), false, false)

/-- FDIV, DDIV (R171, R176). -/
def fdiv (F : Fmt) (rm : Nat) (fz : Bool) (a b : Nat) : Nat × Word :=
  let x := fsrc F fz a
  let y := fsrc F fz b
  let (v, st, dz, inv) := fvDiv x y
  let r := finish F rm fz [x, y] (v, inv) st
  (r.1, r.2 ||| flagIf dz fxDZ)

/-- FRCP (R176): FDIV of 1.0 by a. -/
def frcp (F : Fmt) (rm : Nat) (fz : Bool) (a : Nat) : Nat × Word :=
  let y := fsrc F fz a
  let (v, st, dz, inv) := fvDiv (.fin false 1 0) y
  let r := finish F rm fz [y] (v, inv) st
  (r.1, r.2 ||| flagIf dz fxDZ)

/-- The integer square root by bits, from bit `n − 1` down. -/
def isqrtGo (x : Nat) : Nat → Nat → Nat
  | 0, acc => acc
  | n + 1, acc => let t := acc + 2 ^ n; if t * t ≤ x then isqrtGo x n t else isqrtGo x n acc

/-- ⌊√x⌋. -/
def isqrt (x : Nat) : Nat := isqrtGo x (Nat.log2 x / 2 + 1) 0

/-- The square root of a positive finite value as a significand with a remainder. -/
def fvSqrt (m : Nat) (e : Int) : FVal × Bool :=
  let (m, e) := if e % 2 = 0 then (m, e) else (2 * m, e - 1)
  let w := m * 2 ^ (2 * guardBits)
  let t := isqrt w
  (.fin false t (e / 2 - guardBits), decide (t * t ≠ w))

/-- FSQRT, DSQRT (R176). -/
def fsqrt (F : Fmt) (rm : Nat) (fz : Bool) (a : Nat) : Nat × Word :=
  let x := fsrc F fz a
  match x with
  | .nan _ => finish F rm fz [x] (.nan false, false)
  | .inf n => finish F rm fz [x] (if n then (.nan false, true) else (.inf false, false))
  | .fin n m e =>
    if m = 0 then finish F rm fz [x] (.fin n 0 0, false)
    else if n then finish F rm fz [x] (.nan false, true)
    else let (v, st) := fvSqrt m e; finish F rm fz [x] (v, false) st

/-- Compares two values that are not NaN: −1, 0 or 1 (−0 equals +0). -/
def fvCmp (a b : FVal) : Int :=
  match a, b with
  | .inf x, .inf y => if x = y then 0 else if x then -1 else 1
  | .inf x, _ => if x then -1 else 1
  | _, .inf y => if y then 1 else -1
  | .fin n1 m1 e1, .fin n2 m2 e2 => (sumInt n1 m1 e1 (!n2) m2 e2).1.sign
  | _, _ => 0

/-- FMIN and FMAX, and their FP64 and half forms (R172). -/
def fminmax (F : Fmt) (fz isMax : Bool) (a b : Nat) : Nat × Word :=
  let a := flushSrc F fz a
  let b := flushSrc F fz b
  let x := fdec F a
  let y := fdec F b
  let nv := flagIf (x.isSig || y.isSig) fxNV
  if x.isNaN ∧ y.isNaN then (fnan F, nv)
  else if x.isNaN then (b, nv)
  else if y.isNaN then (a, nv)
  else
    let c := fvCmp x y
    let less := if c = 0 then x.neg && !y.neg else decide (c < 0)
    let greater := if c = 0 then y.neg && !x.neg else decide (0 < c)
    if isMax then (if less then b else a, nv) else (if greater then b else a, nv)

/-- Rounds to an integral value of the same format; keeps the sign of a zero, sets no NX (R173). -/
def frint (F : Fmt) (rm : Nat) (fz : Bool) (a : Nat) : Nat × Word :=
  let x := fsrc F fz a
  match x with
  | .nan s => (fnan F, flagIf s fxNV)
  | .inf n => (finf F n, 0)
  | .fin n m e => if 0 ≤ e then (flushSrc F fz a, 0) else ((roundFormat F rm false (.fin n (rndAt rm n m e 0 false).1 0)).1, 0)

/-- FSAT (R173). -/
def fsat (fz : Bool) (a : Nat) : Nat × Word :=
  let x := fsrc fp32 fz a
  match x with
  | .nan s => (0, flagIf s fxNV)
  | _ => if x.neg ∨ x.isZero then (0, 0) else if 0 ≤ fvCmp x (.fin false 1 0) then (0x3F800000, 0) else (a, 0)

/-- FSCALE (R171): the exponent is clamped where every FP32 source overflows or vanishes alike. -/
def fscale (rm : Nat) (fz : Bool) (a : Nat) (b : Word) : Nat × Word :=
  let x := fsrc fp32 fz a
  let s : Int := max (-1024) (min 1024 b.toInt)
  match x with
  | .fin n m e => finish fp32 rm fz [x] (.fin n m (e + s), false)
  | v => finish fp32 rm fz [x] (v, false)

/-- FCLASS (R174). -/
def fclass (a : Nat) : Nat :=
  match fdec fp32 a with
  | .nan s => if s then 0x100 else 0x200
  | .inf n => if n then 0x001 else 0x080
  | .fin n m _ =>
    if m = 0 then (if n then 0x008 else 0x010)
    else if m < 2 ^ 23 then (if n then 0x004 else 0x020)
    else (if n then 0x002 else 0x040)

/-- FCMP and DCMP (R175): the condition and NV. -/
def fcmp (F : Fmt) (fz : Bool) (c a b : Nat) : Bool × Word :=
  let x := fsrc F fz a
  let y := fsrc F fz b
  let un := x.isNaN || y.isNaN
  let nv := flagIf (x.isSig || y.isSig || (un && decide (2 ≤ c ∧ c ≤ 5))) fxNV
  let k := fvCmp x y
  let r := match c with
    | 0 => !un && k == 0
    | 1 => un || k != 0
    | 2 => !un && decide (k < 0)
    | 3 => !un && decide (k ≤ 0)
    | 4 => !un && decide (0 < k)
    | 5 => !un && decide (0 ≤ k)
    | 6 => un
    | _ => !un
  (r, nv)

/-- HDOT2 (R180): both products and their sum are exact, and the whole is rounded once. -/
def hdot2 (H : Fmt) (rm : Nat) (fz : Bool) (a b : Nat) : Nat × Word :=
  let f := fun c => fsrc H fz c
  let a0 := f (a % 65536)
  let a1 := f (a / 65536)
  let b0 := f (b % 65536)
  let b1 := f (b / 65536)
  let (p0, i0) := fvMul a0 b0
  let (p1, i1) := fvMul a1 b1
  let (s, i2) := fvAdd rm p0 p1
  finish fp32 rm fz [a0, a1, b0, b1] (s, i0 || i1 || i2)

/-- Both halves of a packed operation, flags ORed (R179). -/
def packed (f : Nat → Nat → Nat → Nat × Word) (a b d : Nat) : Nat × Word :=
  let l := f (a % 65536) (b % 65536) (d % 65536)
  let h := f (a / 65536) (b / 65536) (d / 65536)
  (l.1 + 65536 * h.1, l.2 ||| h.2)

/-- The value of an integer. -/
def fvInt (x : Int) : FVal := .fin (decide (x < 0)) x.natAbs 0

/-- Conversion to an integer of `w` bits (R184): the bits and the flags. -/
def toInt (rm : Nat) (signed : Bool) (w : Nat) (x : FVal) : Nat × Word :=
  let lo : Int := if signed then -(2 ^ (w - 1) : Nat) else 0
  let hi : Int := if signed then (2 ^ (w - 1) : Nat) - 1 else (2 ^ w : Nat) - 1
  let wrap := fun (i : Int) => (i % (2 ^ w : Nat)).toNat
  match x with
  | .nan _ => (0, fxNV)
  | .inf n => (wrap (if n then lo else hi), fxNV)
  | .fin n m e =>
    if e > 128 ∧ m ≠ 0 then (wrap (if n then lo else hi), fxNV)
    else
      let (k, inex) := rndAt rm n m e 0 false
      let i : Int := if n then -k else k
      if i < lo then (wrap lo, fxNV)
      else if hi < i then (wrap hi, fxNV)
      else (wrap i, flagIf inex fxNX)

/-- A conversion between floating formats (R183): source format, destination format, mode, saturation, flushes of the
source and of the result. -/
def convFF (S D : Fmt) (rm : Nat) (sat fzS fzD : Bool) (c : Nat) : Nat × Word :=
  let x := fsrc S fzS c
  let r := flushRes D fzD (roundFormat D rm sat x)
  let extra := match x with
    | .inf _ => if D.kind = 1 then (if sat then fxOF ||| fxNX else fxNV) else 0
    | v => flagIf v.isSig fxNV
  (r.1, r.2 ||| extra)

/-- CVT code 44 (R183): to the scale byte. -/
def toS8 (rm : Nat) (fz : Bool) (c : Nat) : Nat × Word :=
  let x := fsrc fp32 fz c
  match x with
  | .nan _ => (0, fxNV)
  | .inf n => if n then (0, fxNV) else (0xFF, fxOF ||| fxNX)
  | .fin n m _ => if m = 0 then (0, 0) else if n then (0, fxNV) else roundFormat fmtS8 rm false x

end Sys2Proof.Machine
end

