-- ==== Sys2Proof/Machine/Approx.lean ====
section
/-! DEFINITION. The functions of R177: FRSQ, FEXP2, FLOG2, FSINR, FCOSR, each the exact result rounded to nearest
even. FRSQ is computed exactly; the transcendental ones in fixed point with 256 fraction bits, which is taken to
decide every rounding of a 24-bit result (log entry 10, UNVERIFIED). -/

namespace Sys2Proof.Machine

/-- Fraction bits of the fixed-point computations. -/
def fxBits : Nat := 256

/-- ln 2 in fixed point. -/
def fxLn2 : Nat := 80260960185991308862233904206310070533990667611589946606122867505419956976171

/-- 2π in fixed point. -/
def fxTau : Nat := 727543153783532648560469885555459725306786754656784859917544302235877788932370

/-- Product in fixed point. -/
def fxMul (a b : Nat) : Nat := a * b / 2 ^ fxBits

/-- The exponential series Σ y^k/k!, from term `k` with value `t`. -/
def expGo (y : Nat) : Nat → Nat → Nat → Nat
  | 0, _, _ => 0
  | n + 1, k, t => t + expGo y n (k + 1) (fxMul t y / (k + 1))

/-- 2^f for f in [0, 1) in fixed point. -/
def fxExp2 (f : Nat) : Nat := expGo (fxMul f fxLn2) 80 0 (2 ^ fxBits)

/-- The series Σ z^(2k+1)/(2k+1), from power `t` = z^(2k+1). -/
def atanhGo (z2 : Nat) : Nat → Nat → Nat → Nat
  | 0, _, _ => 0
  | n + 1, k, t => t / (2 * k + 1) + atanhGo z2 n (k + 1) (fxMul t z2)

/-- log2 of m in [1, 2), in fixed point, from ln m = 2·atanh((m − 1)/(m + 1)). -/
def fxLog2 (m : Nat) : Nat :=
  let one := 2 ^ fxBits
  let z := (m - one) * one / (m + one)
  2 * atanhGo (fxMul z z) 90 0 z * one / fxLn2

/-- The alternating series of sine and cosine: terms of ever higher order, `t` the next term of order `k`, added when
`pos`. -/
def trigGo (y2 : Nat) : Nat → Nat → Bool → Nat → Int
  | 0, _, _, _ => 0
  | n + 1, k, pos, t =>
    (if pos then (t : Int) else -(t : Int)) + trigGo y2 n (k + 2) (!pos) (fxMul t y2 / ((k + 1) * (k + 2)))

/-- sin of an angle in fixed point, from 0 to π/2. -/
def fxSin (y : Nat) : Nat := (trigGo (fxMul y y) 45 1 true y).toNat

/-- cos of an angle in fixed point, from 0 to π/2. -/
def fxCos (y : Nat) : Nat := (trigGo (fxMul y y) 45 0 true (2 ^ fxBits)).toNat

/-- Rounds an approximate function's value to FP32, to nearest even, with the flush of R177. -/
def fApx (fz : Bool) (x : FVal) (sticky : Bool) : Nat × Word := flushRes fp32 fz (roundFormat fp32 0 false x sticky)

/-- FRSQ (R177). -/
def frsq (fz : Bool) (a : Nat) : Nat × Word :=
  match fsrc fp32 fz a with
  | .nan s => (fnan fp32, flagIf s fxNV)
  | .inf n => if n then (fnan fp32, fxNV) else (0, 0)
  | .fin n m e =>
    if m = 0 then (finf fp32 n, fxDZ)
    else if n then (fnan fp32, fxNV)
    else
      let (m, e) := if e % 2 = 0 then (m, e) else (2 * m, e - 1)
      let k : Nat := 96
      let t := isqrt (2 ^ (2 * k) / m)
      fApx fz (.fin false t (-(e / 2) - (k : Int))) (decide (t * t * m ≠ 2 ^ (2 * k)))

/-- FEXP2 (R177). -/
def fexp2 (fz : Bool) (a : Nat) : Nat × Word :=
  match fsrc fp32 fz a with
  | .nan s => (fnan fp32, flagIf s fxNV)
  | .inf n => (if n then 0 else finf fp32 false, 0)
  | .fin n m e =>
    if m = 0 then (0x3F800000, 0)
    else if !n ∧ 7 ≤ e + Nat.log2 m then (finf fp32 false, fxOF ||| fxNX)
    else if n ∧ 8 ≤ e + Nat.log2 m then fApx fz (.fin false 1 (-400)) true
    else
      let x : Int := if n then -(m : Int) else m
      let v : Int := if 0 ≤ e then x * 2 ^ (e.toNat + fxBits) else x * 2 ^ (fxBits - (-e).toNat)
      let i : Int := v / 2 ^ fxBits
      let f := (v % 2 ^ fxBits).toNat
      if f = 0 then fApx fz (.fin false 1 i) false
      else fApx fz (.fin false (fxExp2 f) (i - fxBits)) true

/-- FLOG2 (R177). -/
def flog2 (fz : Bool) (a : Nat) : Nat × Word :=
  match fsrc fp32 fz a with
  | .nan s => (fnan fp32, flagIf s fxNV)
  | .inf n => if n then (fnan fp32, fxNV) else (finf fp32 false, 0)
  | .fin n m e =>
    if m = 0 then (finf fp32 true, fxDZ)
    else if n then (fnan fp32, fxNV)
    else
      let t := Nat.log2 m
      let i : Int := e + t
      let frac := if m = 2 ^ t then 0 else fxLog2 (m * 2 ^ (fxBits - t))
      let v : Int := i * 2 ^ fxBits + frac
      if frac = 0 then fApx fz (fvInt i) false
      else fApx fz (.fin (decide (v < 0)) v.natAbs (-(fxBits : Int))) true

/-- A fraction of a revolution r = |a| mod 1 in fixed point. -/
def revolution (m : Nat) (e : Int) : Nat :=
  if 0 ≤ e then 0 else m * 2 ^ (fxBits - (-e).toNat) % 2 ^ fxBits

/-- sin(2π r) for r in [0, 1) in fixed point: sign, magnitude, exactness (R177). -/
def sinRev (r : Nat) : Bool × Nat × Bool :=
  let q := 2 ^ (fxBits - 2)
  let one := 2 ^ fxBits
  if r = 0 ∨ r = 2 * q then (false, 0, true)
  else if r = q then (false, one, true)
  else if r = 3 * q then (true, one, true)
  else
    let neg := decide (2 * q < r)
    let h := r % (2 * q)
    let y := if h ≤ q then h else 2 * q - h
    (neg, fxSin (fxMul y fxTau), false)

/-- cos(2π r) for r in [0, 1) in fixed point: sign, magnitude, exactness (R177). -/
def cosRev (r : Nat) : Bool × Nat × Bool :=
  let q := 2 ^ (fxBits - 2)
  let one := 2 ^ fxBits
  if r = 0 then (false, one, true)
  else if r = q ∨ r = 3 * q then (false, 0, true)
  else if r = 2 * q then (true, one, true)
  else
    let neg := decide (q < r ∧ r < 3 * q)
    let h := if r ≤ 2 * q then r else 4 * q - r
    let y := if h ≤ q then h else 2 * q - h
    (neg, fxCos (fxMul y fxTau), false)

/-- FSINR (R177): odd in a; a zero result takes the sign of a. -/
def fsinr (fz : Bool) (a : Nat) : Nat × Word :=
  match fsrc fp32 fz a with
  | .nan s => (fnan fp32, flagIf s fxNV)
  | .inf _ => (fnan fp32, fxNV)
  | .fin n m e =>
    let (neg, v, ex) := sinRev (revolution m e)
    if v = 0 ∧ ex then (fsign fp32 n, 0)
    else fApx fz (.fin (n != neg) v (-(fxBits : Int))) (!ex)

/-- FCOSR (R177). -/
def fcosr (fz : Bool) (a : Nat) : Nat × Word :=
  match fsrc fp32 fz a with
  | .nan s => (fnan fp32, flagIf s fxNV)
  | .inf _ => (fnan fp32, fxNV)
  | .fin _ m e =>
    let (neg, v, ex) := cosRev (revolution m e)
    if v = 0 ∧ ex then (0, 0) else fApx fz (.fin neg v (-(fxBits : Int))) (!ex)

end Sys2Proof.Machine
end

