-- ==== Sys2Proof/Machine/Quant.lean ====
section
/-! DEFINITION. The quantizing instructions (R162–R165), the block formats (R158, R159), and the CVT codes
(R182–R184) as functions of values. -/

namespace Sys2Proof.Machine

/-- A finite value as an integer multiple of 2^q, for q at most its exponent. -/
def fvAt (q : Int) : FVal → Int
  | .fin n m e => let x : Int := (m * 2 ^ (e - q).toNat : Nat); if n then -x else x
  | _ => 0

/-- The exponent of a finite value. -/
def fvExp : FVal → Int
  | .fin _ _ e => e
  | _ => 0

/-- A value that is NaN or infinite. -/
def FVal.isOdd : FVal → Bool
  | .fin _ _ _ => false
  | _ => true

/-- Round to nearest even of num/den, den positive. -/
def rneDiv (num : Int) (den : Nat) : Int :=
  let n := num / (den : Int)
  let r := (num % (den : Int)).toNat
  if 2 * r < den then n else if den < 2 * r then n + 1 else if n % 2 = 0 then n else n + 1

/-- Clamp to a range. -/
def clampI (lo hi x : Int) : Int := max lo (min hi x)

/-- RNE(|x| · 2^s) for a finite x. -/
def rneScaled (x : FVal) (s : Int) : Nat :=
  match x with
  | .fin _ m e => (rndAt 0 false m (e + s) 0 false).1
  | _ => 0

/-- |x| compared with |y|: the greater magnitude. -/
def fvMaxAbs (x y : FVal) : FVal :=
  match x, y with
  | .fin _ m1 e1, .fin _ m2 e2 => if (sumInt false m1 e1 true m2 e2).1 < 0 then .fin false m2 e2 else .fin false m1 e1
  | a, _ => a

/-- Least exponent byte e in Emin … 254 with RNE(A × 2^(bias − e)) ≤ mmax (R163). -/
def qdxE1 (mmax : Nat) (bias : Int) (emin : Nat) (a : FVal) : Option Nat :=
  ((List.range (255 - emin)).map (· + emin)).find? fun e => decide (rneScaled a (bias - e) ≤ mmax)

/-- One candidate of R163: m, and |x| − v as an integer at exponent `q`, its magnitude. -/
def qdxTry (mmax : Nat) (bias : Int) (ej : Nat) (x : FVal) (q : Int) : Nat × Nat :=
  let m := if ej = 0 then 0 else min (rneScaled x (bias - ej)) mmax
  let v : Int := if ej = 0 then 0 else fvAt q (.fin false m ((ej : Int) - bias))
  (m, (((fvAt q x).natAbs : Int) - v).natAbs)

/-- QDX4 and QDX8 on one block (R163): the words of the lanes and the flags. `w` is the width of m. -/
def qdx (w : Nat) (fz : Bool) (xs : List Nat) : List Word × Word :=
  let mmax := 2 ^ w - 1
  let bias : Int := if w = 2 then 128 else 132
  let g := if w = 2 then 2 else 4
  let vs := xs.map (fsrc fp32 fz)
  if vs.any FVal.isOdd then (xs.map fun _ => 0xFFFF0000, fxNV)
  else
    let a := vs.foldl fvMaxAbs (.fin false 0 0)
    let e1? := qdxE1 mmax bias g a
    let e1 := e1?.getD 254
    let e0 := e1 - g
    let one := fun x =>
      let q : Int := min (fvExp x) (-200)
      let (m0, r0) := qdxTry mmax bias e0 x q
      let (m1, r1) := qdxTry mmax bias e1 x q
      let sel := decide ¬(r0 < r1)
      let code := (if sel then 2 ^ (w + 1) else 0) + (if x.neg then 2 ^ w else 0) + (if sel then m1 else m0)
      (BitVec.ofNat 32 (e1 * 2 ^ 24 + e0 * 2 ^ 16 + code), decide ((if sel then r1 else r0) ≠ 0))
    let rs := vs.map one
    (rs.map Prod.fst, flagIf e1?.isNone fxOF ||| flagIf (rs.any Prod.snd) fxNX)

/-- QAQ8 on one block (R164). -/
def qaq (aq4 fz : Bool) (xs : List Nat) : List Word × Word :=
  let (qmin, qmax) : Int × Int := if aq4 then (0, 15) else (-128, 127)
  let vs := xs.map (fsrc fp32 fz)
  if vs.any FVal.isOdd then (xs.map fun _ => 0, fxNV)
  else
    let q : Int := -200
    let is := vs.map (fvAt q)
    let lo := is.foldl min 0
    let hi := is.foldl max 0
    let span := (hi - lo).toNat
    let s8 := fun c => (fvAt q (fdec fmtS8 c)).toNat
    let sc? := (List.range 256).find? fun c => decide (span ≤ s8 c * (qmax - qmin).toNat)
    let sc := if span = 0 then 0 else sc?.getD 0xFF
    let s := s8 sc
    let z := if s = 0 then 0 else clampI (-128) 127 (rneDiv (qmin * s - lo) s)
    let one := fun (i : Int) =>
      let k := if s = 0 then 0 else clampI qmin qmax (rneDiv i s + z)
      let k8 := if aq4 then (k % 16).toNat else (k % 256).toNat
      (BitVec.ofNat 32 ((z % 256).toNat * 65536 + sc * 256 + k8), decide ((s : Int) * (k - z) ≠ i))
    let rs := is.map one
    (rs.map Prod.fst, flagIf (span ≠ 0 && sc?.isNone) fxOF ||| flagIf (rs.any Prod.snd) fxNX)

/-- DecodeDXB (R158). `w` is the width of m. -/
def decDXB (w code e0 e1 : Nat) : FVal :=
  if e0 = 255 ∨ e1 = 255 ∨ 15 < e1 - e0 ∨ 15 < e0 - e1 then .nan false
  else
    let e := if code / 2 ^ (w + 1) % 2 = 1 then e1 else e0
    let neg := code / 2 ^ w % 2 == 1
    if e = 0 then .fin neg 0 0
    else .fin neg (code % 2 ^ w) ((e : Int) - (if w = 2 then 128 else 132))

/-- An AQ element (R159): S·(q − Z). -/
def decAQ (aq4 : Bool) (code s z : Nat) : FVal :=
  let q : Int := if aq4 then ((code % 16 : Nat) : Int) else (BitVec.ofNat 8 code).toInt
  let k := q - (BitVec.ofNat 8 z).toInt
  match fdec fmtS8 s with
  | .fin _ m e => .fin (decide (k < 0)) (m * k.natAbs) e
  | v => v

/-- The half format of FMT.HF (R127). -/
def halfFmt (fmt : Word) : Fmt := if fmt.getLsbD 3 then bf16 else fp16

/-- The 8-bit format of FMT.F8. -/
def f8Fmt (fmt : Word) : Fmt := if fmt.extractLsb' 4 2 = 1 then fmtE5 else fmtE4

/-- The rounding mode of FMT (R127). -/
def fmtRM (fmt : Word) : Nat := (fmt.extractLsb' 0 2).toNat

/-- FMT.FZ. -/
def fmtFZ (fmt : Word) : Bool := fmt.getLsbD 2

/-- FMT.B. -/
def fmtB (fmt : Word) : Bool := fmt.getLsbD 16

/-- An integer rounded to a format (codes 0, 1, 14, 15, 20). -/
def intTo (F : Fmt) (rm : Nat) (x : Int) : Nat × Word := roundFormat F rm false (fvInt x)

/-- A CVT code of narrow or wide operands (R183) on one lane: the source bits, the result bits, the flags. Quad codes 41
and 42 are the element conversions applied four times. -/
def cvt (code : Nat) (fmt : Word) (a : Nat) : Nat × Word :=
  let rm := fmtRM fmt
  let fz := fmtFZ fmt
  let H := halfFmt fmt
  let E := f8Fmt fmt
  let lo16 := a % 65536
  match code with
  | 0 => intTo fp32 rm (BitVec.ofNat 32 a).toInt
  | 1 => intTo fp32 rm a
  | 2 => toInt rm true 32 (fsrc fp32 fz a)
  | 3 => toInt rm false 32 (fsrc fp32 fz a)
  | 4 => toInt rmZero true 32 (fsrc fp32 fz a)
  | 5 => toInt rmZero false 32 (fsrc fp32 fz a)
  | 8 => intTo fp64 rm (BitVec.ofNat 32 a).toInt
  | 9 => intTo fp64 rm a
  | 10 => toInt rm true 32 (fsrc fp64 fz a)
  | 11 => toInt rm false 32 (fsrc fp64 fz a)
  | 12 => toInt rmZero true 32 (fsrc fp64 fz a)
  | 13 => toInt rmZero false 32 (fsrc fp64 fz a)
  | 14 => intTo fp64 rm (BitVec.ofNat 64 a).toInt
  | 15 => intTo fp64 rm a
  | 16 => convFF fp32 fp64 rm false fz fz a
  | 17 => convFF fp64 fp32 rm false fz fz a
  | 18 => toInt rm true 64 (fsrc fp64 fz a)
  | 19 => toInt rm false 64 (fsrc fp64 fz a)
  | 20 => intTo fp32 rm (BitVec.ofNat 64 a).toInt
  | 21 => toInt rm true 64 (fsrc fp32 fz a)
  | 24 => convFF fp32 H rm false fz fz a
  | 25 => convFF H fp32 rm false fz fz lo16
  | 26 =>
    let l := convFF fp32 H rm false fz fz (a % 2 ^ 32)
    let h := convFF fp32 H rm false fz fz (a / 2 ^ 32)
    (l.1 + 65536 * h.1, l.2 ||| h.2)
  | 27 =>
    let l := convFF H fp32 rm false fz fz lo16
    let h := convFF H fp32 rm false fz fz (a / 65536)
    (l.1 + 2 ^ 32 * h.1, l.2 ||| h.2)
  | 28 => convFF fp32 fp16 rm false fz fz a
  | 29 => convFF fp32 bf16 rm false fz fz a
  | 30 => convFF fp16 fp32 rm false fz fz lo16
  | 31 => convFF bf16 fp32 rm false fz fz lo16
  | 32 => convFF fp32 E rm false fz false a
  | 33 => convFF fp32 E rm true fz false a
  | 34 => convFF E fp32 rm false false fz (a % 256)
  | 35 => convFF fp32 fmtE4 rm false fz false a
  | 36 => convFF fp32 fmtE4 rm true fz false a
  | 37 => convFF fp32 fmtE5 rm false fz false a
  | 38 => convFF fp32 fmtE5 rm true fz false a
  | 39 => convFF fmtE4 fp32 rm false false fz (a % 256)
  | 40 => convFF fmtE5 fp32 rm false false fz (a % 256)
  | 41 =>
    let rs := (List.range 4).map fun j => convFF fp32 E rm true fz false (a / 2 ^ (32 * j) % 2 ^ 32)
    (rs.foldr (fun r s => r.1 + 256 * s) 0, rs.foldl (fun s r => s ||| r.2) 0)
  | 42 =>
    let rs := (List.range 4).map fun j => convFF E fp32 rm false false fz (a / 2 ^ (8 * j) % 256)
    (rs.foldr (fun r s => r.1 + 2 ^ 32 * s) 0, rs.foldl (fun s r => s ||| r.2) 0)
  | 44 => toS8 rm fz a
  | _ => convFF fmtS8 fp32 rm false false fz (a % 256)

/-- The codes that R183 lists. -/
def cvtValid (c : Nat) : Bool :=
  c ≤ 5 || (8 ≤ c && c ≤ 21) || (24 ≤ c && c ≤ 42) || c == 44 || c == 45

/-- Bytes of the source slot of a CVT code (R183): 4, 8 or 16. -/
def cvtSrc (c : Nat) : Nat := if (10 ≤ c ∧ c ≤ 15) ∨ (17 ≤ c ∧ c ≤ 20) ∨ c = 26 then 8 else if c = 41 then 16 else 4

/-- Bytes of the destination slot of a CVT code (R183). -/
def cvtDst (c : Nat) : Nat :=
  if (8 ≤ c ∧ c ≤ 9) ∨ (14 ≤ c ∧ c ≤ 16) ∨ c = 18 ∨ c = 19 ∨ c = 21 ∨ c = 27 then 8 else if c = 42 then 16 else 4

/-- Whether a CVT code reads FP64, so that a literal supplies the upper half (R18). -/
def cvtF64Src (c : Nat) : Bool := (10 ≤ c && c ≤ 13) || (17 ≤ c && c ≤ 19)

/-- Whether a CVT code has an FP64 side (R168, R299). -/
def cvtF64 (c : Nat) : Bool := cvtF64Src c || c == 8 || c == 9 || (14 ≤ c && c ≤ 16)

end Sys2Proof.Machine
end

