-- ==== Sys2Proof/Decode.lean ====
section
/-! DEFINITION. The decoder (R10–R19, R24–R29, R33–R37), total on any bytes, and after it the encoder.

The decoder keeps every operand field as it stands. It rejects, by name, an unassigned opcode or minor and a
non-zero field that the form does not use. The other checks of R39 are made at issue, so that each trap has its
own cause. -/

namespace Sys2Proof

/-- The width of a slot (R21). -/
inductive Wid where
  | none
  | n
  | w
  | q
  deriving DecidableEq, Repr

/-- How an instruction uses its d field. -/
inductive Use where
  | none
  | write
  | read
  | both
  deriving DecidableEq, Repr

/-- The slots of a lane word (R20, R21, R34). -/
structure Shape where
  d : Wid
  use : Use
  a : Wid
  b : Wid
  deriving DecidableEq, Repr

/-- The slots of each lane opcode but CVT, whose code fixes them (R21, R34, R182). -/
def laneShape (op : Nat) : Shape :=
  match op with
  | 0 => ⟨.none, .none, .none, .none⟩  -- NOP
  | 1 => ⟨.n, .write, .n, .none⟩  -- MOV
  | 2 => ⟨.n, .write, .n, .n⟩  -- IADD
  | 3 => ⟨.n, .write, .n, .n⟩  -- ISUB
  | 4 => ⟨.n, .write, .n, .n⟩  -- IMUL
  | 5 => ⟨.n, .write, .n, .n⟩  -- IMULHS
  | 6 => ⟨.n, .write, .n, .n⟩  -- IMULHU
  | 7 => ⟨.n, .both, .n, .n⟩  -- IMAD
  | 8 => ⟨.n, .write, .n, .n⟩  -- IMINS
  | 9 => ⟨.n, .write, .n, .n⟩  -- IMINU
  | 10 => ⟨.n, .write, .n, .n⟩  -- IMAXS
  | 11 => ⟨.n, .write, .n, .n⟩  -- IMAXU
  | 12 => ⟨.n, .write, .n, .n⟩  -- AND
  | 13 => ⟨.n, .write, .n, .n⟩  -- OR
  | 14 => ⟨.n, .write, .n, .n⟩  -- XOR
  | 15 => ⟨.n, .write, .n, .n⟩  -- ANDN
  | 16 => ⟨.n, .write, .n, .n⟩  -- SHL
  | 17 => ⟨.n, .write, .n, .n⟩  -- SHRL
  | 18 => ⟨.n, .write, .n, .n⟩  -- SHRA
  | 19 => ⟨.n, .write, .n, .n⟩  -- ROTL
  | 20 => ⟨.n, .write, .n, .none⟩  -- SHLI
  | 21 => ⟨.n, .write, .n, .none⟩  -- SHRLI
  | 22 => ⟨.n, .write, .n, .none⟩  -- SHRAI
  | 23 => ⟨.n, .write, .n, .none⟩  -- POPC
  | 24 => ⟨.n, .write, .n, .none⟩  -- CLZ
  | 25 => ⟨.n, .write, .n, .none⟩  -- BREV
  | 26 => ⟨.n, .write, .n, .n⟩  -- BFX
  | 27 => ⟨.n, .both, .n, .n⟩  -- BFI
  | 28 => ⟨.n, .write, .n, .n⟩  -- IADDX
  | 29 => ⟨.n, .write, .n, .n⟩  -- ISUBX
  | 30 => ⟨.none, .none, .n, .n⟩  -- ICMP
  | 31 => ⟨.n, .write, .n, .n⟩  -- SEL
  | 32 => ⟨.w, .write, .w, .w⟩  -- WADD
  | 33 => ⟨.w, .write, .w, .w⟩  -- WSUB
  | 34 => ⟨.w, .write, .n, .n⟩  -- WMULU
  | 35 => ⟨.w, .write, .n, .n⟩  -- WMULS
  | 36 => ⟨.w, .write, .w, .n⟩  -- WSHL
  | 37 => ⟨.w, .write, .w, .n⟩  -- WSHRL
  | 38 => ⟨.w, .write, .w, .n⟩  -- WADDS
  | 39 => ⟨.none, .none, .w, .w⟩  -- WCMP
  | 40 => ⟨.n, .write, .n, .n⟩  -- FADD
  | 41 => ⟨.n, .write, .n, .n⟩  -- FSUB
  | 42 => ⟨.n, .write, .n, .n⟩  -- FMUL
  | 43 => ⟨.n, .both, .n, .n⟩  -- FFMA
  | 44 => ⟨.n, .write, .n, .n⟩  -- FMIN
  | 45 => ⟨.n, .write, .n, .n⟩  -- FMAX
  | 46 => ⟨.n, .write, .n, .none⟩  -- FABS
  | 47 => ⟨.n, .write, .n, .none⟩  -- FNEG
  | 48 => ⟨.none, .none, .n, .n⟩  -- FCMP
  | 49 => ⟨.n, .write, .n, .none⟩  -- FRCP
  | 50 => ⟨.n, .write, .n, .none⟩  -- FSQRT
  | 51 => ⟨.n, .write, .n, .none⟩  -- FRSQ
  | 52 => ⟨.n, .write, .n, .none⟩  -- FEXP2
  | 53 => ⟨.n, .write, .n, .none⟩  -- FLOG2
  | 54 => ⟨.n, .write, .n, .none⟩  -- FSINR
  | 55 => ⟨.n, .write, .n, .none⟩  -- FCOSR
  | 56 => ⟨.n, .write, .n, .none⟩  -- FRINT
  | 57 => ⟨.n, .write, .n, .none⟩  -- FFLOOR
  | 58 => ⟨.n, .write, .n, .n⟩  -- FDIV
  | 59 => ⟨.n, .write, .n, .none⟩  -- FCLASS
  | 60 => ⟨.n, .write, .n, .n⟩  -- FSCALE
  | 61 => ⟨.n, .write, .n, .n⟩  -- FCPSGN
  | 62 => ⟨.n, .write, .n, .none⟩  -- FSAT
  | 64 => ⟨.w, .write, .w, .w⟩  -- DADD
  | 65 => ⟨.w, .write, .w, .w⟩  -- DSUB
  | 66 => ⟨.w, .write, .w, .w⟩  -- DMUL
  | 67 => ⟨.w, .both, .w, .w⟩  -- DFMA
  | 68 => ⟨.w, .write, .w, .w⟩  -- DMIN
  | 69 => ⟨.w, .write, .w, .w⟩  -- DMAX
  | 70 => ⟨.w, .write, .w, .w⟩  -- DDIV
  | 71 => ⟨.w, .write, .w, .none⟩  -- DSQRT
  | 72 => ⟨.none, .none, .w, .w⟩  -- DCMP
  | 73 => ⟨.w, .write, .w, .none⟩  -- DRINT
  | 74 => ⟨.w, .write, .w, .none⟩  -- DABS
  | 75 => ⟨.w, .write, .w, .none⟩  -- DNEG
  | 76 => ⟨.n, .write, .n, .n⟩  -- HADD2
  | 77 => ⟨.n, .write, .n, .n⟩  -- HMUL2
  | 78 => ⟨.n, .both, .n, .n⟩  -- HFMA2
  | 79 => ⟨.n, .write, .n, .n⟩  -- HMIN2
  | 80 => ⟨.n, .write, .n, .n⟩  -- HMAX2
  | 81 => ⟨.n, .write, .n, .n⟩  -- DOT4S
  | 82 => ⟨.n, .write, .n, .n⟩  -- DOT4U
  | 83 => ⟨.n, .write, .n, .n⟩  -- HDOT2
  | 85 => ⟨.n, .write, .n, .none⟩  -- QDX4
  | 86 => ⟨.n, .write, .n, .none⟩  -- QDX8
  | 87 => ⟨.n, .write, .n, .n⟩  -- QAQ8
  | 88 => ⟨.n, .write, .n, .n⟩  -- SHFLI
  | 89 => ⟨.n, .write, .n, .none⟩  -- SHFLX
  | 90 => ⟨.n, .write, .n, .none⟩  -- SHFLU
  | 91 => ⟨.n, .write, .n, .none⟩  -- SHFLD
  | 92 => ⟨.n, .write, .n, .none⟩  -- RADD
  | 93 => ⟨.n, .write, .n, .none⟩  -- RFADD
  | 94 => ⟨.n, .write, .n, .none⟩  -- RMINS
  | 95 => ⟨.n, .write, .n, .none⟩  -- RMAXS
  | 96 => ⟨.none, .none, .none, .none⟩  -- PLOG
  | 97 => ⟨.n, .write, .none, .none⟩  -- PTOV
  | 98 => ⟨.none, .none, .n, .none⟩  -- VTOP
  | 104 => ⟨.n, .write, .n, .none⟩  -- LDO
  | 105 => ⟨.w, .write, .n, .none⟩  -- LDO_D
  | 106 => ⟨.q, .write, .n, .none⟩  -- LDO_Q
  | 107 => ⟨.n, .read, .n, .none⟩  -- STO
  | 108 => ⟨.w, .read, .n, .none⟩  -- STO_D
  | 109 => ⟨.q, .read, .n, .none⟩  -- STO_Q
  | 110 => ⟨.n, .read, .n, .none⟩  -- OADD
  | 111 => ⟨.n, .read, .n, .none⟩  -- OMAXU
  | 112 => ⟨.n, .write, .w, .none⟩  -- LDG
  | 113 => ⟨.w, .write, .w, .none⟩  -- LDG_D
  | 114 => ⟨.q, .write, .w, .none⟩  -- LDG_Q
  | 115 => ⟨.n, .read, .w, .none⟩  -- STG
  | 116 => ⟨.w, .read, .w, .none⟩  -- STG_D
  | 117 => ⟨.q, .read, .w, .none⟩  -- STG_Q
  | 118 => ⟨.n, .read, .w, .none⟩  -- CREDF
  | 119 => ⟨.w, .read, .w, .none⟩  -- CREDD
  | 120 => ⟨.n, .both, .w, .none⟩  -- AADD
  | 121 => ⟨.n, .both, .w, .none⟩  -- AMINS
  | 122 => ⟨.n, .both, .w, .none⟩  -- AMAXS
  | 123 => ⟨.n, .both, .w, .none⟩  -- AAND
  | 124 => ⟨.n, .both, .w, .none⟩  -- AOR
  | 125 => ⟨.n, .both, .w, .none⟩  -- AXOR
  | 126 => ⟨.n, .both, .w, .none⟩  -- AXCHG
  | 127 => ⟨.w, .both, .w, .none⟩  -- ACAS
  | _ => ⟨.none, .none, .none, .none⟩

/-- The width of a slot of so many bytes. -/
def widOf (bytes : Nat) : Wid := if bytes = 16 then .q else if bytes = 8 then .w else .n

/-- The slots of a lane word by opcode and low field (R182 for CVT). -/
def shapeOf (op low : Nat) : Shape :=
  if op = 0x54 then ⟨widOf (Machine.cvtDst low), .write, widOf (Machine.cvtSrc low), .none⟩ else laneShape op

/-- Whether the source slots of a lane word name the literal, code 114 (R19). -/
def slotLit (s : Shape) (d a b : BitVec 7) : Bool :=
  (s.use == .read && d == 114) || (s.use == .both && d == 114) || (s.a != .none && a == 114) ||
    (s.b != .none && b == 114)

/-- Whether a word is the first of two (R29). -/
def twoWord (w : Word) : Bool :=
  if w.getLsbD 31 then
    let op := (w.extractLsb' 24 6).toNat
    op == 0x15 || op == 0x16 || op == 0x18
  else
    let s := shapeOf (w.extractLsb' 23 7).toNat (w.extractLsb' 0 7).toNat
    slotLit s (w.extractLsb' 14 7) (w.extractLsb' 7 7) (w.extractLsb' 0 7)

/-! ## Fields -/

/-- Layout LA of a word and its literal. -/
def getLA (w l : Word) : LA :=
  ⟨w.getLsbD 30, w.extractLsb' 21 2, w.extractLsb' 14 7, w.extractLsb' 7 7, w.extractLsb' 0 7, l⟩
/-- Layout LS. -/
def getLS (w l : Word) : LS :=
  ⟨w.getLsbD 30, w.extractLsb' 21 2, w.extractLsb' 14 7, w.extractLsb' 7 7, w.extractLsb' 0 7, l⟩
/-- Layout LP. -/
def getLP (w l : Word) : LP :=
  ⟨w.getLsbD 30, w.extractLsb' 21 2, w.extractLsb' 18 3, w.extractLsb' 14 4, w.extractLsb' 7 7, w.extractLsb' 0 7, l⟩
/-- Layout LM. -/
def getLM (w l : Word) : LM :=
  ⟨w.getLsbD 30, w.extractLsb' 21 2, w.extractLsb' 14 7, w.extractLsb' 7 7, w.extractLsb' 0 7, l⟩
/-- Layout GA. -/
def getGA (w : Word) : GA :=
  ⟨w.getLsbD 30, w.extractLsb' 18 6, w.extractLsb' 12 6, w.extractLsb' 6 6, w.extractLsb' 0 6⟩
/-- Layout GA with a second word. -/
def getGX (w l : Word) : GX :=
  ⟨w.getLsbD 30, w.extractLsb' 18 6, w.extractLsb' 12 6, w.extractLsb' 6 6, w.extractLsb' 0 6, l⟩
/-- Layout GI. -/
def getGI (w : Word) : GI := ⟨w.getLsbD 30, w.extractLsb' 18 6, w.extractLsb' 16 2, w.extractLsb' 0 16⟩
/-- Layout GB. -/
def getGB (w : Word) : GB := ⟨w.getLsbD 30, w.extractLsb' 20 4, w.extractLsb' 0 20⟩
/-- Layout GB with a second word. -/
def getGD (w l : Word) : GD := ⟨w.getLsbD 30, w.extractLsb' 20 4, w.extractLsb' 0 20, l⟩

/-- The instruction of a lane word by its opcode (R33), its fields unchecked. -/
def laneInstr (w l : Word) : Option Instr :=
  match (w.extractLsb' 23 7).toNat with
  | 0 => some (.nop ⟨w.getLsbD 30⟩)
  | 1 => some (.mov (getLA w l))
  | 2 => some (.iadd (getLA w l))
  | 3 => some (.isub (getLA w l))
  | 4 => some (.imul (getLA w l))
  | 5 => some (.imulhs (getLA w l))
  | 6 => some (.imulhu (getLA w l))
  | 7 => some (.imad (getLA w l))
  | 8 => some (.imins (getLA w l))
  | 9 => some (.iminu (getLA w l))
  | 10 => some (.imaxs (getLA w l))
  | 11 => some (.imaxu (getLA w l))
  | 12 => some (.and (getLA w l))
  | 13 => some (.or (getLA w l))
  | 14 => some (.xor (getLA w l))
  | 15 => some (.andn (getLA w l))
  | 16 => some (.shl (getLA w l))
  | 17 => some (.shrl (getLA w l))
  | 18 => some (.shra (getLA w l))
  | 19 => some (.rotl (getLA w l))
  | 20 => some (.shli (getLS w l))
  | 21 => some (.shrli (getLS w l))
  | 22 => some (.shrai (getLS w l))
  | 23 => some (.popc (getLA w l))
  | 24 => some (.clz (getLA w l))
  | 25 => some (.brev (getLA w l))
  | 26 => some (.bfx (getLA w l))
  | 27 => some (.bfi (getLA w l))
  | 28 => some (.iaddx (getLA w l))
  | 29 => some (.isubx (getLA w l))
  | 30 => some (.icmp (getLP w l))
  | 31 => some (.sel (getLA w l))
  | 32 => some (.wadd (getLA w l))
  | 33 => some (.wsub (getLA w l))
  | 34 => some (.wmulu (getLA w l))
  | 35 => some (.wmuls (getLA w l))
  | 36 => some (.wshl (getLA w l))
  | 37 => some (.wshrl (getLA w l))
  | 38 => some (.wadds (getLA w l))
  | 39 => some (.wcmp (getLP w l))
  | 40 => some (.fadd (getLA w l))
  | 41 => some (.fsub (getLA w l))
  | 42 => some (.fmul (getLA w l))
  | 43 => some (.ffma (getLA w l))
  | 44 => some (.fmin (getLA w l))
  | 45 => some (.fmax (getLA w l))
  | 46 => some (.fabs (getLA w l))
  | 47 => some (.fneg (getLA w l))
  | 48 => some (.fcmp (getLP w l))
  | 49 => some (.frcp (getLA w l))
  | 50 => some (.fsqrt (getLA w l))
  | 51 => some (.frsq (getLA w l))
  | 52 => some (.fexp2 (getLA w l))
  | 53 => some (.flog2 (getLA w l))
  | 54 => some (.fsinr (getLA w l))
  | 55 => some (.fcosr (getLA w l))
  | 56 => some (.frint (getLA w l))
  | 57 => some (.ffloor (getLA w l))
  | 58 => some (.fdiv (getLA w l))
  | 59 => some (.fclass (getLA w l))
  | 60 => some (.fscale (getLA w l))
  | 61 => some (.fcpsgn (getLA w l))
  | 62 => some (.fsat (getLA w l))
  | 64 => some (.dadd (getLA w l))
  | 65 => some (.dsub (getLA w l))
  | 66 => some (.dmul (getLA w l))
  | 67 => some (.dfma (getLA w l))
  | 68 => some (.dmin (getLA w l))
  | 69 => some (.dmax (getLA w l))
  | 70 => some (.ddiv (getLA w l))
  | 71 => some (.dsqrt (getLA w l))
  | 72 => some (.dcmp (getLP w l))
  | 73 => some (.drint (getLA w l))
  | 74 => some (.dabs (getLA w l))
  | 75 => some (.dneg (getLA w l))
  | 76 => some (.hadd2 (getLA w l))
  | 77 => some (.hmul2 (getLA w l))
  | 78 => some (.hfma2 (getLA w l))
  | 79 => some (.hmin2 (getLA w l))
  | 80 => some (.hmax2 (getLA w l))
  | 81 => some (.dot4s (getLA w l))
  | 82 => some (.dot4u (getLA w l))
  | 83 => some (.hdot2 (getLA w l))
  | 84 => some (.cvt (getLS w l))
  | 85 => some (.qdx4 (getLA w l))
  | 86 => some (.qdx8 (getLA w l))
  | 87 => some (.qaq8 (getLA w l))
  | 88 => some (.shfli (getLA w l))
  | 89 => some (.shflx (getLS w l))
  | 90 => some (.shflu (getLS w l))
  | 91 => some (.shfld (getLS w l))
  | 92 => some (.radd (getLA w l))
  | 93 => some (.rfadd (getLA w l))
  | 94 => some (.rmins (getLA w l))
  | 95 => some (.rmaxs (getLA w l))
  | 96 => some (.plog (getLP w l))
  | 97 => some (.ptov (getLA w l))
  | 98 => some (.vtop (getLP w l))
  | 104 => some (.ldo (getLM w l))
  | 105 => some (.ldoD (getLM w l))
  | 106 => some (.ldoQ (getLM w l))
  | 107 => some (.sto (getLM w l))
  | 108 => some (.stoD (getLM w l))
  | 109 => some (.stoQ (getLM w l))
  | 110 => some (.oadd (getLM w l))
  | 111 => some (.omaxu (getLM w l))
  | 112 => some (.ldg (getLM w l))
  | 113 => some (.ldgD (getLM w l))
  | 114 => some (.ldgQ (getLM w l))
  | 115 => some (.stg (getLM w l))
  | 116 => some (.stgD (getLM w l))
  | 117 => some (.stgQ (getLM w l))
  | 118 => some (.credf (getLM w l))
  | 119 => some (.credd (getLM w l))
  | 120 => some (.aadd (getLM w l))
  | 121 => some (.amins (getLM w l))
  | 122 => some (.amaxs (getLM w l))
  | 123 => some (.aand (getLM w l))
  | 124 => some (.aor (getLM w l))
  | 125 => some (.axor (getLM w l))
  | 126 => some (.axchg (getLM w l))
  | 127 => some (.acas (getLM w l))
  | _ => none

/-- The instruction of a group word by its opcode and minor (R35–R37). -/
def groupInstr (w l : Word) : Option Instr :=
  let f := getGA w
  match (w.extractLsb' 24 6).toNat with
  | 0 => some (.gnop ⟨w.getLsbD 30⟩)
  | 1 =>
    if f.x = 0 then some (.kmov f)
    else if f.x = 32 then some (.jmov f)
    else none
  | 2 => some (.klit (getGI w))
  | 3 => some (.klith (getGI w))
  | 4 =>
    if f.x = 0 then some (.kadd f)
    else if f.x = 32 then some (.jadd f)
    else none
  | 5 =>
    if f.x = 0 then some (.ksub f)
    else if f.x = 32 then some (.jsub f)
    else none
  | 6 => some (.kmul f)
  | 7 => some (.kand f)
  | 8 => some (.kor f)
  | 9 => some (.kxor f)
  | 10 =>
    if f.x = 0 then some (.kshl f)
    else if f.x = 32 then some (.jshl f)
    else none
  | 11 =>
    if f.x = 0 then some (.kshrl f)
    else if f.x = 32 then some (.jshrl f)
    else none
  | 12 => some (.kshra f)
  | 13 =>
    if f.x &&& 48 = 0 then some (.kcmp f)
    else if f.x &&& 48 = 32 then some (.jcmp f)
    else none
  | 14 => some (.ksel f)
  | 15 => some (.kaddi f)
  | 16 =>
    if f.x = 0 then some (.voteAny f)
    else if f.x = 1 then some (.voteAll f)
    else if f.x = 2 then some (.voteNone f)
    else none
  | 17 => some (.ballot f)
  | 18 => some (.kread f)
  | 19 => some (.rdsv f)
  | 20 => some (.bra (getGB w))
  | 21 => some (.brd (getGD w l))
  | 22 => some (.brx (getGX w l))
  | 23 => some (.call (getGB w))
  | 24 => some (.callx (getGX w l))
  | 25 => some (.ret f)
  | 26 => some (.regang f)
  | 27 => some (.part (getGB w))
  | 28 => some (.exit f)
  | 29 => some (.yield f)
  | 30 =>
    if f.x = 0 then some (.setfmt f)
    else if f.x = 1 then some (.setfmtLk f)
    else none
  | 31 =>
    if f.x = 0 then some (.getfmt f)
    else if f.x = 1 then some (.getfmtLk f)
    else none
  | 32 => some (.mma f)
  | 33 => some (.mmap f)
  | 34 => some (.mmax f)
  | 35 => some (.mclr f)
  | 36 => some (.msta f)
  | 37 => some (.mlda f)
  | 38 => some (.mfence f)
  | 39 => some (.mgath f)
  | 40 => some (.copy f)
  | 41 => some (.tile f)
  | 42 => some (.puts f)
  | 43 => some (.chain f)
  | 44 => some (.token f)
  | 45 => some (.estat f)
  | 46 => some (.cadd f)
  | 47 => some (.cwait f)
  | 48 => some (.cread f)
  | 49 => some (.bar f)
  | 50 => some (.bara f)
  | 51 => some (.barw f)
  | 52 => some (.phase f)
  | 53 => some (.rel f)
  | 54 => some (.acq f)
  | 55 => some (.oalloc f)
  | 56 => some (.ofree f)
  | 57 => some (.orenew f)
  | 58 => some (.launch f)
  | 59 =>
    if f.x = 0 then some (.tspawn f)
    else if f.x = 1 then some (.tspawnEos f)
    else none
  | 60 =>
    if f.x = 0 then some (.tdesc f)
    else if f.x = 1 then some (.texpand f)
    else if f.x = 2 then some (.tback f)
    else if f.x = 3 then some (.troot f)
    else if f.x = 4 then some (.tfree f)
    else if f.x = 5 then some (.tnew f)
    else none
  | 61 =>
    if f.x = 0 then some (.bsplit f)
    else if f.x = 1 then some (.bpoint f)
    else if f.x = 2 then some (.bopen f)
    else none
  | 63 =>
    if f.x = 0 then some (.trap f)
    else if f.x = 1 ∧ f.d = 0 then some (.rte f)
    else if f.x = 1 ∧ f.d = 1 then some (.rteTo f)
    else if f.x = 2 then some (.bkpt f)
    else if f.x = 3 then some (.rdctl f)
    else if f.x = 4 then some (.wrctl f)
    else if f.x = 5 then some (.sleep f)
    else if f.x = 6 then some (.mhint f)
    else if f.x = 7 then some (.oswap f)
    else if f.x = 8 then some (.errinj f)
    else if f.x = 9 then some (.eread f)
    else if f.x = 10 then some (.halt f)
    else none
  | _ => none

/-- The fields that a form does not use are zero, and its minor is its own (R14, R26, R36, R37). -/
def fixedOk : Instr → Bool
  | .nop _ => true
  | .mov f => decide (f.b = 0)
  | .iadd _ => true
  | .isub _ => true
  | .imul _ => true
  | .imulhs _ => true
  | .imulhu _ => true
  | .imad _ => true
  | .imins _ => true
  | .iminu _ => true
  | .imaxs _ => true
  | .imaxu _ => true
  | .and _ => true
  | .or _ => true
  | .xor _ => true
  | .andn _ => true
  | .shl _ => true
  | .shrl _ => true
  | .shra _ => true
  | .rotl _ => true
  | .shli _ => true
  | .shrli _ => true
  | .shrai _ => true
  | .popc f => decide (f.b = 0)
  | .clz f => decide (f.b = 0)
  | .brev f => decide (f.b = 0)
  | .bfx _ => true
  | .bfi _ => true
  | .iaddx _ => true
  | .isubx _ => true
  | .icmp _ => true
  | .sel _ => true
  | .wadd _ => true
  | .wsub _ => true
  | .wmulu _ => true
  | .wmuls _ => true
  | .wshl _ => true
  | .wshrl _ => true
  | .wadds _ => true
  | .wcmp _ => true
  | .fadd _ => true
  | .fsub _ => true
  | .fmul _ => true
  | .ffma _ => true
  | .fmin _ => true
  | .fmax _ => true
  | .fabs f => decide (f.b = 0)
  | .fneg f => decide (f.b = 0)
  | .fcmp _ => true
  | .frcp f => decide (f.b = 0)
  | .fsqrt f => decide (f.b = 0)
  | .frsq f => decide (f.b = 0)
  | .fexp2 f => decide (f.b = 0)
  | .flog2 f => decide (f.b = 0)
  | .fsinr f => decide (f.b = 0)
  | .fcosr f => decide (f.b = 0)
  | .frint f => decide (f.b = 0)
  | .ffloor f => decide (f.b = 0)
  | .fdiv _ => true
  | .fclass f => decide (f.b = 0)
  | .fscale _ => true
  | .fcpsgn _ => true
  | .fsat f => decide (f.b = 0)
  | .dadd _ => true
  | .dsub _ => true
  | .dmul _ => true
  | .dfma _ => true
  | .dmin _ => true
  | .dmax _ => true
  | .ddiv _ => true
  | .dsqrt f => decide (f.b = 0)
  | .dcmp _ => true
  | .drint f => decide (f.b = 0)
  | .dabs f => decide (f.b = 0)
  | .dneg f => decide (f.b = 0)
  | .hadd2 _ => true
  | .hmul2 _ => true
  | .hfma2 _ => true
  | .hmin2 _ => true
  | .hmax2 _ => true
  | .dot4s _ => true
  | .dot4u _ => true
  | .hdot2 _ => true
  | .cvt _ => true
  | .qdx4 f => decide (f.b = 0)
  | .qdx8 f => decide (f.b = 0)
  | .qaq8 _ => true
  | .shfli _ => true
  | .shflx _ => true
  | .shflu _ => true
  | .shfld _ => true
  | .radd f => decide (f.b = 0)
  | .rfadd f => decide (f.b = 0)
  | .rmins f => decide (f.b = 0)
  | .rmaxs f => decide (f.b = 0)
  | .plog _ => true
  | .ptov f => decide (f.b = 0)
  | .vtop f => decide (f.cond = 0 ∧ f.b = 0)
  | .ldo _ => true
  | .ldoD _ => true
  | .ldoQ _ => true
  | .sto _ => true
  | .stoD _ => true
  | .stoQ _ => true
  | .oadd _ => true
  | .omaxu _ => true
  | .ldg _ => true
  | .ldgD _ => true
  | .ldgQ _ => true
  | .stg _ => true
  | .stgD _ => true
  | .stgQ _ => true
  | .credf _ => true
  | .credd _ => true
  | .aadd _ => true
  | .amins _ => true
  | .amaxs _ => true
  | .aand _ => true
  | .aor _ => true
  | .axor _ => true
  | .axchg _ => true
  | .acas _ => true
  | .gnop _ => true
  | .kmov f => decide (f.b = 0 ∧ f.x = 0)
  | .jmov f => decide (f.b = 0 ∧ f.x = 32)
  | .klit f => decide (f.h = 0)
  | .klith f => decide (f.h = 0)
  | .kadd f => decide (f.x = 0)
  | .jadd f => decide (f.x = 32)
  | .ksub f => decide (f.x = 0)
  | .jsub f => decide (f.x = 32)
  | .kmul f => decide (f.x = 0)
  | .kand f => decide (f.x = 0)
  | .kor f => decide (f.x = 0)
  | .kxor f => decide (f.x = 0)
  | .kshl f => decide (f.x = 0)
  | .jshl f => decide (f.x = 32)
  | .kshrl f => decide (f.x = 0)
  | .jshrl f => decide (f.x = 32)
  | .kshra f => decide (f.x = 0)
  | .kcmp f => decide (f.x &&& 48 = 0)
  | .jcmp f => decide (f.x &&& 48 = 32)
  | .ksel f => decide (f.x &&& 56 = 0)
  | .kaddi _ => true
  | .voteAny f => decide (f.b = 0 ∧ f.x = 0)
  | .voteAll f => decide (f.b = 0 ∧ f.x = 1)
  | .voteNone f => decide (f.b = 0 ∧ f.x = 2)
  | .ballot f => decide (f.b = 0 ∧ f.x = 0)
  | .kread f => decide (f.b = 0)
  | .rdsv f => decide (f.a = 0 ∧ f.b = 0)
  | .bra _ => true
  | .brd _ => true
  | .brx f => decide (f.d = 0 ∧ f.b = 0 ∧ f.x = 0)
  | .call _ => true
  | .callx f => decide (f.d = 0 ∧ f.b = 0 ∧ f.x = 0)
  | .ret f => decide (f.d = 0 ∧ f.a = 0 ∧ f.b = 0 ∧ f.x = 0)
  | .regang f => decide (f.d = 0 ∧ f.a = 0 ∧ f.b = 0 ∧ f.x = 0)
  | .part f => decide (f.sel = 0)
  | .exit f => decide (f.d = 0 ∧ f.a = 0 ∧ f.b = 0 ∧ f.x = 0)
  | .yield f => decide (f.d = 0 ∧ f.a = 0 ∧ f.b = 0 ∧ f.x = 0)
  | .setfmt f => decide (f.d = 0 ∧ f.b = 0 ∧ f.x = 0)
  | .setfmtLk f => decide (f.d = 0 ∧ f.b = 0 ∧ f.x = 1)
  | .getfmt f => decide (f.a = 0 ∧ f.b = 0 ∧ f.x = 0)
  | .getfmtLk f => decide (f.a = 0 ∧ f.b = 0 ∧ f.x = 1)
  | .mma f => decide (f.x &&& 56 = 0)
  | .mmap f => decide (f.x &&& 56 = 0)
  | .mmax f => decide (f.x &&& 58 = 0)
  | .mclr f => decide (f.b = 0 ∧ f.x &&& 59 = 0)
  | .msta f => decide (f.b = 0 ∧ f.x &&& 32 = 0)
  | .mlda f => decide (f.b = 0 ∧ f.x &&& 32 = 0)
  | .mfence f => decide (f.d = 0 ∧ f.a = 0 ∧ f.b = 0 ∧ f.x = 0)
  | .mgath f => decide (f.d = 0 ∧ f.b = 0)
  | .copy f => decide (f.b = 0 ∧ f.x &&& 60 = 0)
  | .tile f => decide (f.b = 0 ∧ f.x &&& 60 = 0)
  | .puts f => decide (f.b = 0 ∧ f.x &&& 60 = 0)
  | .chain f => decide (f.b = 0 ∧ f.x &&& 60 = 0)
  | .token f => decide (f.x = 0)
  | .estat f => decide (f.b = 0 ∧ f.x = 0)
  | .cadd f => decide (f.d = 0 ∧ f.x &&& 48 = 0)
  | .cwait f => decide (f.x &&& 48 = 0)
  | .cread f => decide (f.b = 0 ∧ f.x &&& 60 = 0)
  | .bar f => decide (f.a = 0 ∧ f.b = 0 ∧ f.x &&& 56 = 0)
  | .bara f => decide (f.a = 0 ∧ f.b = 0 ∧ f.x &&& 56 = 0)
  | .barw f => decide (f.a = 0 ∧ f.b = 0 ∧ f.x &&& 56 = 0)
  | .phase f => decide (f.d = 0 ∧ f.a = 0 ∧ f.b = 0 ∧ f.x &&& 56 = 0)
  | .rel f => decide (f.d = 0 ∧ f.a = 0 ∧ f.b = 0 ∧ f.x &&& 56 = 0)
  | .acq f => decide (f.d = 0 ∧ f.a = 0 ∧ f.b = 0 ∧ f.x &&& 56 = 0)
  | .oalloc f => decide (f.x &&& 60 = 0)
  | .ofree f => decide (f.d = 0 ∧ f.b = 0 ∧ f.x = 0)
  | .orenew f => decide (f.d = 0 ∧ f.x = 0)
  | .launch f => decide (f.b = 0 ∧ f.x = 0)
  | .tspawn f => decide (f.x = 0)
  | .tspawnEos f => decide (f.x = 1)
  | .tdesc f => decide (f.x = 0)
  | .texpand f => decide (f.x = 1)
  | .tback f => decide (f.x = 2)
  | .troot f => decide (f.x = 3)
  | .tfree f => decide (f.x = 4)
  | .tnew f => decide (f.x = 5)
  | .bsplit f => decide (f.d = 0 ∧ f.b = 0 ∧ f.x = 0)
  | .bpoint f => decide (f.d = 0 ∧ f.b = 0 ∧ f.x = 1)
  | .bopen f => decide (f.a = 0 ∧ f.b = 0 ∧ f.x = 2)
  | .trap f => decide (f.a = 0 ∧ f.b = 0 ∧ f.x = 0)
  | .rte f => decide (f.d = 0 ∧ f.a = 0 ∧ f.b = 0 ∧ f.x = 1)
  | .rteTo f => decide (f.d = 1 ∧ f.b = 0 ∧ f.x = 1)
  | .bkpt f => decide (f.a = 0 ∧ f.b = 0 ∧ f.x = 2)
  | .rdctl f => decide (f.b = 0 ∧ f.x = 3)
  | .wrctl f => decide (f.d = 0 ∧ f.x = 4)
  | .sleep f => decide (f.d = 0 ∧ f.b = 0 ∧ f.x = 5)
  | .mhint f => decide (f.x = 6)
  | .oswap f => decide (f.d = 0 ∧ f.x = 7)
  | .errinj f => decide (f.d = 0 ∧ f.x = 8)
  | .eread f => decide (f.b = 0 ∧ f.x = 9)
  | .halt f => decide (f.d = 0 ∧ f.a = 0 ∧ f.b = 0 ∧ f.x = 10)
  | _ => true

/-- Why a word is rejected. -/
inductive Reject where
  /-- Fewer bytes than the instruction has. -/
  | short
  /-- An unassigned opcode or minor (R33, R35, R37). -/
  | reservedOpcode
  /-- A non-zero field that the form does not use (R14, R36). -/
  | unusedField
  deriving DecidableEq, Repr

/-- What the decoder answers: an instruction and its length in bytes, or a rejection. -/
inductive Decoded where
  | instr (i : Instr) (len : Nat)
  | reject (why : Reject)
  deriving DecidableEq, Repr

/-- NOP and GNOP have no operand field: all of [29:0] but the opcode is zero (R34, R36). -/
def nopOk (w : Word) : Bool := w &&& 0x3FFFFFFF == 0

/-- Decodes a first word and, where there is one, its second word. -/
def decodeWords (w l : Word) : Decoded :=
  let two := twoWord w
  let l' : Word := if two then l else 0
  match (if w.getLsbD 31 then groupInstr w l' else laneInstr w l') with
  | none => .reject .reservedOpcode
  | some i =>
    let ok := match i with
      | .nop _ => nopOk w
      | .gnop _ => nopOk w
      | j => fixedOk j
    if ok then .instr i (if two then 8 else 4) else .reject .unusedField

/-- Decodes bytes as code memory holds them, little-endian words (R10). -/
def decode : List Byte → Decoded
  | b0 :: b1 :: b2 :: b3 :: rest =>
    let w : Word := b3 ++ b2 ++ b1 ++ b0
    if twoWord w then
      match rest with
      | c0 :: c1 :: c2 :: c3 :: _ => decodeWords w (c3 ++ c2 ++ c1 ++ c0)
      | _ => .reject .short
    else decodeWords w 0
  | _ => .reject .short

/-- The bytes of a number, the least significant first. -/
def bytesOf : Nat → Nat → List Byte
  | 0, _ => []
  | n + 1, v => BitVec.ofNat 8 v :: bytesOf n (v / 256)

/-- The decoder on a row of the opcode table: bit 0 is the least significant bit of the first word, and the second word
follows. Bits above `nbits` are zero. -/
def decodeTableWord (nbits w : Nat) : Option Instr :=
  match decode (bytesOf 8 (w % 2 ^ nbits)) with
  | .instr i _ => some i
  | .reject _ => none

/-! ## The encoder -/

/-- A lane word (R12) from E, opcode, guard and the 21 operand bits. -/
def laneWord (e : Bool) (op : BitVec 7) (g : BitVec 2) (rest : BitVec 21) : Word :=
  0#1 ++ BitVec.ofBool e ++ op ++ g ++ rest

/-- A group word (R24) from E, opcode and the 24 operand bits. -/
def groupWord (e : Bool) (op : BitVec 6) (rest : BitVec 24) : Word := 1#1 ++ BitVec.ofBool e ++ op ++ rest

/-- The words of a lane instruction with a possible literal. -/
def withLit (w l : Word) : List Word := if twoWord w then [w, l] else [w]

/-- Encodes layout LA. -/
def encLA (op : BitVec 7) (f : LA) : List Word := withLit (laneWord f.e op f.g (f.d ++ f.a ++ f.b)) f.lit
/-- Encodes layout LS. -/
def encLS (op : BitVec 7) (f : LS) : List Word := withLit (laneWord f.e op f.g (f.d ++ f.a ++ f.imm)) f.lit
/-- Encodes layout LP. -/
def encLP (op : BitVec 7) (f : LP) : List Word :=
  withLit (laneWord f.e op f.g (f.pd ++ f.cond ++ f.a ++ f.b)) f.lit
/-- Encodes layout LM. -/
def encLM (op : BitVec 7) (f : LM) : List Word := withLit (laneWord f.e op f.g (f.d ++ f.a ++ f.imm)) f.lit
/-- Encodes layout GA. -/
def encGA (op : BitVec 6) (f : GA) : List Word := [groupWord f.e op (f.d ++ f.a ++ f.b ++ f.x)]
/-- Encodes layout GA with a second word. -/
def encGX (op : BitVec 6) (f : GX) : List Word := [groupWord f.e op (f.d ++ f.a ++ f.b ++ f.x), f.off]
/-- Encodes layout GI. -/
def encGI (op : BitVec 6) (f : GI) : List Word := [groupWord f.e op (f.d ++ f.h ++ f.imm)]
/-- Encodes layout GB. -/
def encGB (op : BitVec 6) (f : GB) : List Word := [groupWord f.e op (f.sel ++ f.off)]
/-- Encodes layout GB with a second word. -/
def encGD (op : BitVec 6) (f : GD) : List Word := [groupWord f.e op (f.sel ++ f.off), f.join]

/-- The words of an instruction; an event has none. -/
def encode : Instr → List Word
  | .nop f => [laneWord f.e 0 0 0]
  | .mov f => encLA 1 f
  | .iadd f => encLA 2 f
  | .isub f => encLA 3 f
  | .imul f => encLA 4 f
  | .imulhs f => encLA 5 f
  | .imulhu f => encLA 6 f
  | .imad f => encLA 7 f
  | .imins f => encLA 8 f
  | .iminu f => encLA 9 f
  | .imaxs f => encLA 10 f
  | .imaxu f => encLA 11 f
  | .and f => encLA 12 f
  | .or f => encLA 13 f
  | .xor f => encLA 14 f
  | .andn f => encLA 15 f
  | .shl f => encLA 16 f
  | .shrl f => encLA 17 f
  | .shra f => encLA 18 f
  | .rotl f => encLA 19 f
  | .shli f => encLS 20 f
  | .shrli f => encLS 21 f
  | .shrai f => encLS 22 f
  | .popc f => encLA 23 f
  | .clz f => encLA 24 f
  | .brev f => encLA 25 f
  | .bfx f => encLA 26 f
  | .bfi f => encLA 27 f
  | .iaddx f => encLA 28 f
  | .isubx f => encLA 29 f
  | .icmp f => encLP 30 f
  | .sel f => encLA 31 f
  | .wadd f => encLA 32 f
  | .wsub f => encLA 33 f
  | .wmulu f => encLA 34 f
  | .wmuls f => encLA 35 f
  | .wshl f => encLA 36 f
  | .wshrl f => encLA 37 f
  | .wadds f => encLA 38 f
  | .wcmp f => encLP 39 f
  | .fadd f => encLA 40 f
  | .fsub f => encLA 41 f
  | .fmul f => encLA 42 f
  | .ffma f => encLA 43 f
  | .fmin f => encLA 44 f
  | .fmax f => encLA 45 f
  | .fabs f => encLA 46 f
  | .fneg f => encLA 47 f
  | .fcmp f => encLP 48 f
  | .frcp f => encLA 49 f
  | .fsqrt f => encLA 50 f
  | .frsq f => encLA 51 f
  | .fexp2 f => encLA 52 f
  | .flog2 f => encLA 53 f
  | .fsinr f => encLA 54 f
  | .fcosr f => encLA 55 f
  | .frint f => encLA 56 f
  | .ffloor f => encLA 57 f
  | .fdiv f => encLA 58 f
  | .fclass f => encLA 59 f
  | .fscale f => encLA 60 f
  | .fcpsgn f => encLA 61 f
  | .fsat f => encLA 62 f
  | .dadd f => encLA 64 f
  | .dsub f => encLA 65 f
  | .dmul f => encLA 66 f
  | .dfma f => encLA 67 f
  | .dmin f => encLA 68 f
  | .dmax f => encLA 69 f
  | .ddiv f => encLA 70 f
  | .dsqrt f => encLA 71 f
  | .dcmp f => encLP 72 f
  | .drint f => encLA 73 f
  | .dabs f => encLA 74 f
  | .dneg f => encLA 75 f
  | .hadd2 f => encLA 76 f
  | .hmul2 f => encLA 77 f
  | .hfma2 f => encLA 78 f
  | .hmin2 f => encLA 79 f
  | .hmax2 f => encLA 80 f
  | .dot4s f => encLA 81 f
  | .dot4u f => encLA 82 f
  | .hdot2 f => encLA 83 f
  | .cvt f => encLS 84 f
  | .qdx4 f => encLA 85 f
  | .qdx8 f => encLA 86 f
  | .qaq8 f => encLA 87 f
  | .shfli f => encLA 88 f
  | .shflx f => encLS 89 f
  | .shflu f => encLS 90 f
  | .shfld f => encLS 91 f
  | .radd f => encLA 92 f
  | .rfadd f => encLA 93 f
  | .rmins f => encLA 94 f
  | .rmaxs f => encLA 95 f
  | .plog f => encLP 96 f
  | .ptov f => encLA 97 f
  | .vtop f => encLP 98 f
  | .ldo f => encLM 104 f
  | .ldoD f => encLM 105 f
  | .ldoQ f => encLM 106 f
  | .sto f => encLM 107 f
  | .stoD f => encLM 108 f
  | .stoQ f => encLM 109 f
  | .oadd f => encLM 110 f
  | .omaxu f => encLM 111 f
  | .ldg f => encLM 112 f
  | .ldgD f => encLM 113 f
  | .ldgQ f => encLM 114 f
  | .stg f => encLM 115 f
  | .stgD f => encLM 116 f
  | .stgQ f => encLM 117 f
  | .credf f => encLM 118 f
  | .credd f => encLM 119 f
  | .aadd f => encLM 120 f
  | .amins f => encLM 121 f
  | .amaxs f => encLM 122 f
  | .aand f => encLM 123 f
  | .aor f => encLM 124 f
  | .axor f => encLM 125 f
  | .axchg f => encLM 126 f
  | .acas f => encLM 127 f
  | .gnop f => [groupWord f.e 0 0]
  | .kmov f => encGA 1 f
  | .jmov f => encGA 1 f
  | .klit f => encGI 2 f
  | .klith f => encGI 3 f
  | .kadd f => encGA 4 f
  | .jadd f => encGA 4 f
  | .ksub f => encGA 5 f
  | .jsub f => encGA 5 f
  | .kmul f => encGA 6 f
  | .kand f => encGA 7 f
  | .kor f => encGA 8 f
  | .kxor f => encGA 9 f
  | .kshl f => encGA 10 f
  | .jshl f => encGA 10 f
  | .kshrl f => encGA 11 f
  | .jshrl f => encGA 11 f
  | .kshra f => encGA 12 f
  | .kcmp f => encGA 13 f
  | .jcmp f => encGA 13 f
  | .ksel f => encGA 14 f
  | .kaddi f => encGA 15 f
  | .voteAny f => encGA 16 f
  | .voteAll f => encGA 16 f
  | .voteNone f => encGA 16 f
  | .ballot f => encGA 17 f
  | .kread f => encGA 18 f
  | .rdsv f => encGA 19 f
  | .bra f => encGB 20 f
  | .brd f => encGD 21 f
  | .brx f => encGX 22 f
  | .call f => encGB 23 f
  | .callx f => encGX 24 f
  | .ret f => encGA 25 f
  | .regang f => encGA 26 f
  | .part f => encGB 27 f
  | .exit f => encGA 28 f
  | .yield f => encGA 29 f
  | .setfmt f => encGA 30 f
  | .setfmtLk f => encGA 30 f
  | .getfmt f => encGA 31 f
  | .getfmtLk f => encGA 31 f
  | .mma f => encGA 32 f
  | .mmap f => encGA 33 f
  | .mmax f => encGA 34 f
  | .mclr f => encGA 35 f
  | .msta f => encGA 36 f
  | .mlda f => encGA 37 f
  | .mfence f => encGA 38 f
  | .mgath f => encGA 39 f
  | .copy f => encGA 40 f
  | .tile f => encGA 41 f
  | .puts f => encGA 42 f
  | .chain f => encGA 43 f
  | .token f => encGA 44 f
  | .estat f => encGA 45 f
  | .cadd f => encGA 46 f
  | .cwait f => encGA 47 f
  | .cread f => encGA 48 f
  | .bar f => encGA 49 f
  | .bara f => encGA 50 f
  | .barw f => encGA 51 f
  | .phase f => encGA 52 f
  | .rel f => encGA 53 f
  | .acq f => encGA 54 f
  | .oalloc f => encGA 55 f
  | .ofree f => encGA 56 f
  | .orenew f => encGA 57 f
  | .launch f => encGA 58 f
  | .tspawn f => encGA 59 f
  | .tspawnEos f => encGA 59 f
  | .tdesc f => encGA 60 f
  | .texpand f => encGA 60 f
  | .tback f => encGA 60 f
  | .troot f => encGA 60 f
  | .tfree f => encGA 60 f
  | .tnew f => encGA 60 f
  | .bsplit f => encGA 61 f
  | .bpoint f => encGA 61 f
  | .bopen f => encGA 61 f
  | .trap f => encGA 63 f
  | .rte f => encGA 63 f
  | .rteTo f => encGA 63 f
  | .bkpt f => encGA 63 f
  | .rdctl f => encGA 63 f
  | .wrctl f => encGA 63 f
  | .sleep f => encGA 63 f
  | .mhint f => encGA 63 f
  | .oswap f => encGA 63 f
  | .errinj f => encGA 63 f
  | .eread f => encGA 63 f
  | .halt f => encGA 63 f
  | _ => []

/-- The first word, as a trap value names it (R40); zero for an event. -/
def firstWord (i : Instr) : Word := ((encode i).head?).getD 0

/-- The length of an encoded instruction in bytes. -/
def instrLen (i : Instr) : Nat := 4 * (encode i).length

/-- The literal of a lane instruction. -/
def litOf : Instr → Word
  | .mov f => f.lit
  | .iadd f => f.lit
  | .isub f => f.lit
  | .imul f => f.lit
  | .imulhs f => f.lit
  | .imulhu f => f.lit
  | .imad f => f.lit
  | .imins f => f.lit
  | .iminu f => f.lit
  | .imaxs f => f.lit
  | .imaxu f => f.lit
  | .and f => f.lit
  | .or f => f.lit
  | .xor f => f.lit
  | .andn f => f.lit
  | .shl f => f.lit
  | .shrl f => f.lit
  | .shra f => f.lit
  | .rotl f => f.lit
  | .shli f => f.lit
  | .shrli f => f.lit
  | .shrai f => f.lit
  | .popc f => f.lit
  | .clz f => f.lit
  | .brev f => f.lit
  | .bfx f => f.lit
  | .bfi f => f.lit
  | .iaddx f => f.lit
  | .isubx f => f.lit
  | .icmp f => f.lit
  | .sel f => f.lit
  | .wadd f => f.lit
  | .wsub f => f.lit
  | .wmulu f => f.lit
  | .wmuls f => f.lit
  | .wshl f => f.lit
  | .wshrl f => f.lit
  | .wadds f => f.lit
  | .wcmp f => f.lit
  | .fadd f => f.lit
  | .fsub f => f.lit
  | .fmul f => f.lit
  | .ffma f => f.lit
  | .fmin f => f.lit
  | .fmax f => f.lit
  | .fabs f => f.lit
  | .fneg f => f.lit
  | .fcmp f => f.lit
  | .frcp f => f.lit
  | .fsqrt f => f.lit
  | .frsq f => f.lit
  | .fexp2 f => f.lit
  | .flog2 f => f.lit
  | .fsinr f => f.lit
  | .fcosr f => f.lit
  | .frint f => f.lit
  | .ffloor f => f.lit
  | .fdiv f => f.lit
  | .fclass f => f.lit
  | .fscale f => f.lit
  | .fcpsgn f => f.lit
  | .fsat f => f.lit
  | .dadd f => f.lit
  | .dsub f => f.lit
  | .dmul f => f.lit
  | .dfma f => f.lit
  | .dmin f => f.lit
  | .dmax f => f.lit
  | .ddiv f => f.lit
  | .dsqrt f => f.lit
  | .dcmp f => f.lit
  | .drint f => f.lit
  | .dabs f => f.lit
  | .dneg f => f.lit
  | .hadd2 f => f.lit
  | .hmul2 f => f.lit
  | .hfma2 f => f.lit
  | .hmin2 f => f.lit
  | .hmax2 f => f.lit
  | .dot4s f => f.lit
  | .dot4u f => f.lit
  | .hdot2 f => f.lit
  | .cvt f => f.lit
  | .qdx4 f => f.lit
  | .qdx8 f => f.lit
  | .qaq8 f => f.lit
  | .shfli f => f.lit
  | .shflx f => f.lit
  | .shflu f => f.lit
  | .shfld f => f.lit
  | .radd f => f.lit
  | .rfadd f => f.lit
  | .rmins f => f.lit
  | .rmaxs f => f.lit
  | .plog f => f.lit
  | .ptov f => f.lit
  | .vtop f => f.lit
  | .ldo f => f.lit
  | .ldoD f => f.lit
  | .ldoQ f => f.lit
  | .sto f => f.lit
  | .stoD f => f.lit
  | .stoQ f => f.lit
  | .oadd f => f.lit
  | .omaxu f => f.lit
  | .ldg f => f.lit
  | .ldgD f => f.lit
  | .ldgQ f => f.lit
  | .stg f => f.lit
  | .stgD f => f.lit
  | .stgQ f => f.lit
  | .credf f => f.lit
  | .credd f => f.lit
  | .aadd f => f.lit
  | .amins f => f.lit
  | .amaxs f => f.lit
  | .aand f => f.lit
  | .aor f => f.lit
  | .axor f => f.lit
  | .axchg f => f.lit
  | .acas f => f.lit
  | _ => 0

/-- E of an instruction (R12, R24); an event counts as one. -/
def eOf : Instr → Bool
  | .nop f => f.e
  | .mov f => f.e
  | .iadd f => f.e
  | .isub f => f.e
  | .imul f => f.e
  | .imulhs f => f.e
  | .imulhu f => f.e
  | .imad f => f.e
  | .imins f => f.e
  | .iminu f => f.e
  | .imaxs f => f.e
  | .imaxu f => f.e
  | .and f => f.e
  | .or f => f.e
  | .xor f => f.e
  | .andn f => f.e
  | .shl f => f.e
  | .shrl f => f.e
  | .shra f => f.e
  | .rotl f => f.e
  | .shli f => f.e
  | .shrli f => f.e
  | .shrai f => f.e
  | .popc f => f.e
  | .clz f => f.e
  | .brev f => f.e
  | .bfx f => f.e
  | .bfi f => f.e
  | .iaddx f => f.e
  | .isubx f => f.e
  | .icmp f => f.e
  | .sel f => f.e
  | .wadd f => f.e
  | .wsub f => f.e
  | .wmulu f => f.e
  | .wmuls f => f.e
  | .wshl f => f.e
  | .wshrl f => f.e
  | .wadds f => f.e
  | .wcmp f => f.e
  | .fadd f => f.e
  | .fsub f => f.e
  | .fmul f => f.e
  | .ffma f => f.e
  | .fmin f => f.e
  | .fmax f => f.e
  | .fabs f => f.e
  | .fneg f => f.e
  | .fcmp f => f.e
  | .frcp f => f.e
  | .fsqrt f => f.e
  | .frsq f => f.e
  | .fexp2 f => f.e
  | .flog2 f => f.e
  | .fsinr f => f.e
  | .fcosr f => f.e
  | .frint f => f.e
  | .ffloor f => f.e
  | .fdiv f => f.e
  | .fclass f => f.e
  | .fscale f => f.e
  | .fcpsgn f => f.e
  | .fsat f => f.e
  | .dadd f => f.e
  | .dsub f => f.e
  | .dmul f => f.e
  | .dfma f => f.e
  | .dmin f => f.e
  | .dmax f => f.e
  | .ddiv f => f.e
  | .dsqrt f => f.e
  | .dcmp f => f.e
  | .drint f => f.e
  | .dabs f => f.e
  | .dneg f => f.e
  | .hadd2 f => f.e
  | .hmul2 f => f.e
  | .hfma2 f => f.e
  | .hmin2 f => f.e
  | .hmax2 f => f.e
  | .dot4s f => f.e
  | .dot4u f => f.e
  | .hdot2 f => f.e
  | .cvt f => f.e
  | .qdx4 f => f.e
  | .qdx8 f => f.e
  | .qaq8 f => f.e
  | .shfli f => f.e
  | .shflx f => f.e
  | .shflu f => f.e
  | .shfld f => f.e
  | .radd f => f.e
  | .rfadd f => f.e
  | .rmins f => f.e
  | .rmaxs f => f.e
  | .plog f => f.e
  | .ptov f => f.e
  | .vtop f => f.e
  | .ldo f => f.e
  | .ldoD f => f.e
  | .ldoQ f => f.e
  | .sto f => f.e
  | .stoD f => f.e
  | .stoQ f => f.e
  | .oadd f => f.e
  | .omaxu f => f.e
  | .ldg f => f.e
  | .ldgD f => f.e
  | .ldgQ f => f.e
  | .stg f => f.e
  | .stgD f => f.e
  | .stgQ f => f.e
  | .credf f => f.e
  | .credd f => f.e
  | .aadd f => f.e
  | .amins f => f.e
  | .amaxs f => f.e
  | .aand f => f.e
  | .aor f => f.e
  | .axor f => f.e
  | .axchg f => f.e
  | .acas f => f.e
  | .gnop f => f.e
  | .kmov f => f.e
  | .jmov f => f.e
  | .klit f => f.e
  | .klith f => f.e
  | .kadd f => f.e
  | .jadd f => f.e
  | .ksub f => f.e
  | .jsub f => f.e
  | .kmul f => f.e
  | .kand f => f.e
  | .kor f => f.e
  | .kxor f => f.e
  | .kshl f => f.e
  | .jshl f => f.e
  | .kshrl f => f.e
  | .jshrl f => f.e
  | .kshra f => f.e
  | .kcmp f => f.e
  | .jcmp f => f.e
  | .ksel f => f.e
  | .kaddi f => f.e
  | .voteAny f => f.e
  | .voteAll f => f.e
  | .voteNone f => f.e
  | .ballot f => f.e
  | .kread f => f.e
  | .rdsv f => f.e
  | .bra f => f.e
  | .brd f => f.e
  | .brx f => f.e
  | .call f => f.e
  | .callx f => f.e
  | .ret f => f.e
  | .regang f => f.e
  | .part f => f.e
  | .exit f => f.e
  | .yield f => f.e
  | .setfmt f => f.e
  | .setfmtLk f => f.e
  | .getfmt f => f.e
  | .getfmtLk f => f.e
  | .mma f => f.e
  | .mmap f => f.e
  | .mmax f => f.e
  | .mclr f => f.e
  | .msta f => f.e
  | .mlda f => f.e
  | .mfence f => f.e
  | .mgath f => f.e
  | .copy f => f.e
  | .tile f => f.e
  | .puts f => f.e
  | .chain f => f.e
  | .token f => f.e
  | .estat f => f.e
  | .cadd f => f.e
  | .cwait f => f.e
  | .cread f => f.e
  | .bar f => f.e
  | .bara f => f.e
  | .barw f => f.e
  | .phase f => f.e
  | .rel f => f.e
  | .acq f => f.e
  | .oalloc f => f.e
  | .ofree f => f.e
  | .orenew f => f.e
  | .launch f => f.e
  | .tspawn f => f.e
  | .tspawnEos f => f.e
  | .tdesc f => f.e
  | .texpand f => f.e
  | .tback f => f.e
  | .troot f => f.e
  | .tfree f => f.e
  | .tnew f => f.e
  | .bsplit f => f.e
  | .bpoint f => f.e
  | .bopen f => f.e
  | .trap f => f.e
  | .rte f => f.e
  | .rteTo f => f.e
  | .bkpt f => f.e
  | .rdctl f => f.e
  | .wrctl f => f.e
  | .sleep f => f.e
  | .mhint f => f.e
  | .oswap f => f.e
  | .errinj f => f.e
  | .eread f => f.e
  | .halt f => f.e
  | _ => true

/-! ## The ranges of fields that are checked as order 2 of R39 -/

/-- A scope of R28 between two codes. -/
def scopeIn (x : BitVec 6) (lo hi : Nat) : Bool := let s := x.toNat % 8; decide (lo ≤ s ∧ s ≤ hi)

/-- The values of table fields that R26–R28, R34, R36, R37 and the entries reject, whatever the state of the machine. -/
def rangeOk : Instr → Bool
  | .sel f => f.g != 0
  | .shli f => f.imm.toNat ≤ 31
  | .shrli f => f.imm.toNat ≤ 31
  | .shrai f => f.imm.toNat ≤ 31
  | .icmp f => f.cond.toNat ≤ 11
  | .wcmp f => f.cond.toNat ≤ 11
  | .fcmp f => f.cond.toNat ≤ 7
  | .dcmp f => f.cond.toNat ≤ 7
  | .cvt f => Machine.cvtValid f.imm.toNat
  | .kcmp f => f.x.toNat % 16 ≤ 11
  | .jcmp f => f.x.toNat % 16 ≤ 11
  | .rdsv f => f.x.toNat ≤ 25
  | .bra f => f.sel.toNat ≤ 14
  | .brd f => decide (8 ≤ f.sel.toNat ∧ f.sel.toNat ≤ 14)
  | .call f => f.sel.toNat ≤ 7
  | .msta f => f.x.toNat % 16 ≤ 7
  | .mlda f => decide (f.x.toNat % 16 ≤ 2 ∨ f.x.toNat % 16 = 7)
  | .cadd f => if f.x.getLsbD 3 then scopeIn f.x 1 6 else f.x.toNat % 8 == 0
  | .cwait f => scopeIn f.x 1 6 && (f.x.getLsbD 3 || f.d == 0)
  | .bar f => scopeIn f.x 1 5 && decide (f.d.toNat < if f.x.toNat % 8 ≤ 2 then 16 else 8)
  | .bara f => scopeIn f.x 1 5 && decide (f.d.toNat < if f.x.toNat % 8 ≤ 2 then 16 else 8)
  | .barw f => scopeIn f.x 1 5 && decide (f.d.toNat < if f.x.toNat % 8 ≤ 2 then 16 else 8)
  | .phase f => scopeIn f.x 1 6
  | .rel f => scopeIn f.x 1 6
  | .acq f => scopeIn f.x 1 6
  | .oalloc f => f.x.toNat % 4 ≤ 2
  | .mhint f => f.d.toNat ≤ 3
  | .rdctl f => f.a.toNat ≤ 6
  | .wrctl f => decide (f.a.toNat ≤ 3 ∨ f.a.toNat = 6)
  | _ => true

end Sys2Proof
end

