-- ==== Sys2Proof/WellFormed.lean ====
section
/-! DEFINITION. Well-formed instructions: those whose words pass orders 1 and 2 of R39 as far as the words alone decide,
and whose second word is present exactly when R29 gives one. -/

namespace Sys2Proof

/-- The literal is zero unless a source slot of the first word reads it (R19, R29). -/
def litOk (i : Instr) : Bool := litOf i == 0 || twoWord (firstWord i)

/-- A well-formed instruction (R14, R26–R29, R34, R36, R37). -/
def wellFormed (i : Instr) : Bool := fixedOk i && rangeOk i && litOk i

/-- Whether a constructor is an encoded instruction and no event. -/
def isEncoded (i : Instr) : Bool := !(encode i).isEmpty

end Sys2Proof
end

