-- ==== Sys2Proof/Machine/Operands.lean ====
section
/-! DEFINITION. The working context of an instruction, operand forms (R15–R27, R323), the reads and writes of registers,
predicates and latch positions. -/

namespace Sys2Proof.Machine

/-- An instruction at work: its core and group slot, copies of its group and strand, the address of its first word, and
whether the strand has been replaced (a split, a merge, an end). -/
structure Ctx where
  core : Nat
  slot : Nat
  g : Group
  st : Strand
  pc0 : Dword
  gone : Bool := false
  deriving DecidableEq, Repr

/-- The key of a group: 1024·core + slot. -/
def gkey (core slot : Nat) : Nat := 1024 * core + slot

/-- A strand of a group by its number. -/
def findStrand (g : Group) (sid : Nat) : Option Strand := g.strands.find? fun t => t.sid == sid

/-- The strand whose run is in progress. -/
def curCtx (s : State) : Option Ctx :=
  match s.cur with
  | none => none
  | some (core, slot, sid) =>
    match mfind s.groups (gkey core slot) with
    | none => none
    | some g =>
      match findStrand g sid with
      | none => none
      | some t => some ⟨core, slot, g, t, t.pc, false⟩

/-- Replaces a strand of a group. -/
def setStrand (g : Group) (t : Strand) : Group :=
  { g with strands := g.strands.map fun u => if u.sid = t.sid then t else u }

/-- Writes the context back. -/
def putCtx (s : State) (c : Ctx) : State :=
  { s with groups := mput s.groups (gkey c.core c.slot) (if c.gone then c.g else setStrand c.g c.st) }

/-! ## Registers -/

/-- The key of a lane register. -/
def vkey (lane r : Nat) : Nat := 128 * lane + r

/-- v of a lane (R121). -/
def readV (g : Group) (lane r : Nat) : Word := mget 0 g.v (vkey lane r)

/-- Writes v of a lane. -/
def writeV (g : Group) (lane r : Nat) (x : Word) : Group := { g with v := mset 0 g.v (vkey lane r) x }

/-- A write of a uniform register or of an entry of G by the instruction at work: it sees it at once, and the file takes it when it has its
effect (R126, R190). -/
def uPut (g : Group) (key : Nat) (x : Word) : Group := { g with uv := mput g.uv key x, uw := g.uw ++ [(key, x)] }

/-- k (R121), as the instruction at work sees it. -/
def readK (g : Group) (r : Nat) : Word := (mfind g.uv r).getD (mget 0 g.k r)

/-- Writes k. -/
def writeK (g : Group) (r : Nat) (x : Word) : Group := uPut g r x

/-- j = k:k+1, low half in the even register (R121). -/
def readJ (g : Group) (r : Nat) : Dword := readK g (r + 1) ++ readK g r

/-- Writes both halves of a j pair. -/
def writeJ (g : Group) (r : Nat) (x : Dword) : Group :=
  writeK (writeK g r (x.extractLsb' 0 32)) (r + 1) (x.extractLsb' 32 32)

/-- p of a lane; p0 reads true (R121). -/
def readP (g : Group) (lane n : Nat) : Bool := n == 0 || (mget 0 g.p lane).getLsbD n

/-- One bit of a byte. -/
def setBit (b : Byte) (n : Nat) (x : Bool) : Byte := if x then b ||| (1#8 <<< n) else b &&& ~~~(1#8 <<< n)

/-- Writes p of a lane; p0 is never written (R121). -/
def writeP (g : Group) (lane n : Nat) (x : Bool) : Group :=
  if n = 0 then g else { g with p := mset 0 g.p lane (setBit (mget 0 g.p lane) n x) }

/-- The open bit of a predicate (R328). -/
def readOpen (g : Group) (lane n : Nat) : Bool := (mget 0 g.op lane).getLsbD n

/-- Writes an open bit. -/
def writeOpen (g : Group) (lane n : Nat) (x : Bool) : Group :=
  if n = 0 then g else { g with op := mset 0 g.op lane (setBit (mget 0 g.op lane) n x) }

/-- q, as the instruction at work sees it; q0 reads true (R121). -/
def readQ (g : Group) (n : Nat) : Bool :=
  n == 0 || match mfind g.uv (64 + n) with
    | some x => x.getLsbD 0
    | none => g.q.getLsbD n

/-- Writes q; q0 is never written. -/
def writeQ (g : Group) (n : Nat) (x : Bool) : Group := if n = 0 then g else uPut g (64 + n) (BitVec.ofNat 32 x.toNat)

/-! ## Uniform writes on their way (R126, R190) -/

/-- Puts a write among others in the order in which they take effect: by cycle, then by port. -/
def uInsert (e : UWrite) : List UWrite → List UWrite
  | [] => [e]
  | x :: t => if e.at_ < x.at_ ∨ (e.at_ = x.at_ ∧ e.port < x.port) then e :: x :: t else x :: uInsert e t

/-- The file takes a write. -/
def uApply (g : Group) (e : UWrite) : Group :=
  if e.key < 64 then { g with k := mset 0 g.k e.key e.val }
  else if e.key < 72 then { g with q := setBit g.q (e.key - 64) (e.val.getLsbD 0) }
  else { g with gset := mset 0 g.gset (e.key - 128) (e.val.extractLsb' 0 16) }

/-- The file as an instruction that issues in `cyc` finds it: every write that took effect in an earlier cycle has been made. -/
def uSettle (g : Group) (cyc : Nat) : Group :=
  let h := (g.uq.filter fun e => decide (e.at_ < cyc)).foldl uApply g
  { h with uq := g.uq.filter fun e => decide (cyc ≤ e.at_) }

/-- The scoreboard key of a uniform register. -/
def uKey (key : Nat) : Nat := if key < 64 then 128 + key else 152 + key

/-- The strand sees as well the writes that its scoreboard holds and that take effect in `cyc` (R126); G is on no scoreboard. -/
def uView (g : Group) (sb : AMap Nat) (cyc : Nat) : Group :=
  let own := g.uq.filter fun e => e.at_ == cyc && decide (e.key < 72) && mget 0 sb (uKey e.key) == cyc
  { g with uv := own.foldl (fun m e => mput m e.key e.val) [], uw := [] }

/-- What the instruction at work has written joins the writes on their way. -/
def uCommit (port sid cyc : Nat) (g : Group) : Group :=
  { g with uv := [], uw := [], uq := g.uw.foldl (fun q w => uInsert ⟨cyc, port, sid, w.1, w.2⟩ q) g.uq }

/-- Writes that an event makes in cycle `cyc` for a strand: after its own earlier ones to the same registers. -/
def uLand (sid cyc : Nat) (g : Group) : Group :=
  let own := fun (q : List UWrite) (key : Nat) => (q.filter fun e => e.sid == sid && e.key == key).foldl (fun m e => max m e.at_) cyc
  { g with uv := [], uw := [], uq := g.uw.foldl (fun q w => uInsert ⟨own q w.1, 4, sid, w.1, w.2⟩ q) g.uq }

/-! ## Slots -/

/-- What a slot takes: narrow, wide, wide read as FP64, quad, or an interval (R18, R21, R323). -/
inductive SK where
  | none
  | n
  | w
  | f
  | q
  | iv
  deriving DecidableEq, Repr

/-- The slots of a lane word. -/
structure Slots where
  d : SK
  use : Use
  a : SK
  b : SK
  deriving DecidableEq, Repr

/-- Lane opcodes that act on intervals with FMT.B = 1 (R325). -/
def ivOp (op low : Nat) : Bool :=
  (0x28 ≤ op && op ≤ 0x3E) || op == 0x5D || (op == 0x54 && (low == 0 || low == 2))

/-- A width as a slot, FP64 for the opcodes that read FP64 (R18). -/
def skOf (f64 : Bool) : Wid → SK
  | .none => .none
  | .n => .n
  | .w => if f64 then .f else .w
  | .q => .q

/-- Opcodes whose wide source slots are FP64: DADD to DNEG, CREDD, and the CVT codes of R183. -/
def f64Op (op low : Nat) : Bool := (0x40 ≤ op && op ≤ 0x4B) || (op == 0x54 && cvtF64Src low)

/-- The slots of a lane word under an FMT (R21, R323, R325). -/
def slotsOf (fmt : Word) (op low : Nat) : Slots :=
  let s := shapeOf op low
  let f := f64Op op low
  if fmtB fmt ∧ ivOp op low then
    if op = 0x54 then
      if low = 0 then ⟨.iv, .write, .n, .none⟩ else ⟨.w, .write, .iv, .none⟩
    else
      ⟨if s.d = .none then .none else if op = 0x3B then .n else .iv, s.use,
        .iv, if s.b = .none then .none else if op = 0x3C then .n else .iv⟩
  else ⟨if op = 0x77 then .f else skOf f s.d, s.use, skOf f s.a, skOf f s.b⟩

/-- A source code is legal in a slot of a group with `nr` declared registers (R16, R18, R323). -/
def srcOk (k : SK) (nr c : Nat) : Bool :=
  match k with
  | .none => true
  | .n => decide (c < nr ∧ c < 96 ∨ 96 ≤ c ∧ c ≤ 118)
  | .q => decide (c ≤ 92 ∧ c % 4 = 0 ∧ c + 3 < nr)
  | .iv => decide (c < 96 ∧ c % 2 = 0 ∧ c + 1 < nr ∨ 96 ≤ c ∧ c ≤ 112 ∨ 114 ≤ c ∧ c ≤ 118)
  | _ => decide (c < 96 ∧ c % 2 = 0 ∧ c + 1 < nr ∨ 96 ≤ c ∧ c < 112 ∧ c % 2 = 0 ∨ c = 112 ∨ 114 ≤ c ∧ c ≤ 118)

/-- A destination code is legal (R17, R18). -/
def dstOk (k : SK) (nr c : Nat) : Bool :=
  match k with
  | .none => true
  | .n => decide (c < nr ∧ c < 96 ∨ c = 127)
  | .q => decide (c ≤ 92 ∧ c % 4 = 0 ∧ c + 3 < nr)
  | _ => decide (c < 96 ∧ c % 2 = 0 ∧ c + 1 < nr ∨ c = 127)

/-- A latch read that R23 accepts, or no latch read at all. -/
def latchOk (k : SK) (lat : List Latch) (c : Nat) : Bool :=
  if k = .none ∨ c < 115 ∨ 118 < c then true
  else
    let n := c - 114
    if lat.length < n then false
    else
      match lat[lat.length - n]? with
      | some (.narrow _) => k == .n
      | some (.wide _) => k == .w || k == .f || k == .iv
      | _ => false

/-- A latch position's value in a lane. -/
def latchVal (lat : List Latch) (c lane : Nat) : Nat :=
  match lat[lat.length - (c - 114)]? with
  | some (.narrow m) => (mget 0 m lane).toNat
  | some (.wide m) => (mget 0 m lane).toNat
  | _ => 0

/-- A source slot's value in a lane, as a number of the slot's width (R16, R18, R323). An interval is lo + 2^32·hi. -/
def readSlot (c : Ctx) (k : SK) (code : Nat) (lit : Word) (lane : Nat) : Nat :=
  let v := fun r => (readV c.g lane r).toNat
  let kk := fun r => (readK c.g r).toNat
  match k with
  | .none => 0
  | .n =>
    if code < 96 then v code
    else if code < 112 then kk (code - 96)
    else if code = 112 then 0
    else if code = 113 then lane
    else if code = 114 then lit.toNat
    else latchVal c.st.lat code lane % 2 ^ 32
  | .q => v code + 2 ^ 32 * (v (code + 1) + 2 ^ 32 * (v (code + 2) + 2 ^ 32 * v (code + 3)))
  | .iv =>
    if code < 96 then v code + 2 ^ 32 * v (code + 1)
    else if code < 112 then kk (code - 96) + 2 ^ 32 * kk (code - 96)
    else if code = 114 then lit.toNat + 2 ^ 32 * lit.toNat
    else if 115 ≤ code then latchVal c.st.lat code lane
    else 0
  | k =>
    if code < 96 then v code + 2 ^ 32 * v (code + 1)
    else if code < 112 then kk (code - 96) + 2 ^ 32 * kk (code - 95)
    else if code = 114 then (if k = .f then lit.toNat * 2 ^ 32 else (lit.signExtend 64).toNat)
    else if 115 ≤ code then latchVal c.st.lat code lane
    else 0

/-! ## Guards and results -/

/-- Whether a lane is guard-true under guard field `g` (R15). -/
def guardTrue (c : Ctx) (g : BitVec 2) (lane : Nat) : Bool := readP c.g lane g.toNat

/-- The active guard-true lanes, ascending. -/
def guardLanes (c : Ctx) (g : BitVec 2) : List Nat := (lanesOf c.st.mask).filter (guardTrue c g)

/-- Writes a destination code in one lane (R17, R18). -/
def writeDst (g : Group) (k : SK) (d lane x : Nat) : Group :=
  if 96 ≤ d then g
  else
    match k with
    | .none => g
    | .n => writeV g lane d (BitVec.ofNat 32 x)
    | .q =>
      writeV (writeV (writeV (writeV g lane d (BitVec.ofNat 32 x)) lane (d + 1) (BitVec.ofNat 32 (x / 2 ^ 32)))
        lane (d + 2) (BitVec.ofNat 32 (x / 2 ^ 64))) lane (d + 3) (BitVec.ofNat 32 (x / 2 ^ 96))
    | _ => writeV (writeV g lane d (BitVec.ofNat 32 x)) lane (d + 1) (BitVec.ofNat 32 (x / 2 ^ 32))

/-- The latch position that a result fills (R22): the results of guard-true lanes, zero elsewhere. -/
def latchOf (k : SK) (rs : List (Nat × Nat)) : Latch :=
  match k with
  | .none => .void
  | .n => .narrow (rs.foldl (fun m r => mset 0 m r.1 (BitVec.ofNat 32 r.2)) [])
  | .q => .void
  | _ => .wide (rs.foldl (fun m r => mset 0 m r.1 (BitVec.ofNat 64 r.2)) [])

/-- Fills the instruction's latch position. -/
def pushLatch (c : Ctx) (l : Latch) : Ctx := { c with st := { c.st with lat := c.st.lat ++ [l] } }

/-- Writes the results of lanes to a destination and fills the latch position. -/
def writeLanes (c : Ctx) (k : SK) (d : Nat) (rs : List (Nat × Nat)) : Ctx :=
  pushLatch { c with g := rs.foldl (fun g r => writeDst g k d r.1 r.2) c.g } (latchOf k rs)

/-- Writes a predicate in lanes, with its open bit, and leaves the latch position void (R22, R133). -/
def writePreds (c : Ctx) (pd : Nat) (rs : List (Nat × Bool × Bool)) : Ctx :=
  pushLatch { c with g := rs.foldl (fun g r => writeOpen (writeP g r.1 pd r.2.1) r.1 pd r.2.2) c.g } .void

/-- ORs flags into FX (R128). -/
def raise (c : Ctx) (f : Word) : Ctx := { c with st := { c.st with fx := c.st.fx ||| f } }

/-! ## Fields of a first word -/

def wOp (w : Word) : Nat := if w.getLsbD 31 then (w.extractLsb' 24 6).toNat else (w.extractLsb' 23 7).toNat
def wG (w : Word) : Nat := (w.extractLsb' 21 2).toNat
def wLd (w : Word) : Nat := (w.extractLsb' 14 7).toNat
def wLa (w : Word) : Nat := (w.extractLsb' 7 7).toNat
def wLb (w : Word) : Nat := (w.extractLsb' 0 7).toNat
def wPd (w : Word) : Nat := (w.extractLsb' 18 3).toNat
def wGd (w : Word) : Nat := (w.extractLsb' 18 6).toNat
def wGa (w : Word) : Nat := (w.extractLsb' 12 6).toNat
def wGb (w : Word) : Nat := (w.extractLsb' 6 6).toNat
def wGx (w : Word) : Nat := (w.extractLsb' 0 6).toNat
def wSel (w : Word) : Nat := (w.extractLsb' 20 4).toNat

/-- Lane opcodes of layout LP. -/
def isLP (op : Nat) : Bool := op == 0x1E || op == 0x27 || op == 0x30 || op == 0x48 || op == 0x60 || op == 0x62

/-- Lane opcodes of layout LM. -/
def isLM (op : Nat) : Bool := decide (0x68 ≤ op)

/-- The atomics AADD to ACAS. -/
def isAtomic (op : Nat) : Bool := decide (0x78 ≤ op ∧ op ≤ 0x7F)

/-- Order 3 of R39 on a lane word: codes, pairs, quads, predicates (R16–R18, R20, R34, R162). -/
def laneOperandOk (fmt : Word) (nr : Nat) (w : Word) : Bool :=
  let op := wOp w
  let s := slotsOf fmt op (wLb w)
  let d := wLd w
  let predsOk := if op = 0x60 then decide (wLa w ≤ 7 ∧ wLb w ≤ 7) else if op = 0x61 then decide (wLa w ≤ 7) else true
  let pdOk := !isLP op || decide (wPd w ≠ 0)
  let dOk :=
    match s.use with
    | .none => true
    | .read => srcOk s.d nr d
    | .write => dstOk s.d nr d
    | .both => dstOk s.d nr d && decide (d < 96)
  let qaq := op != 0x57 || decide (96 ≤ wLb w ∧ wLb w ≤ 112 ∨ wLb w = 114)
  predsOk && pdOk && dOk && srcOk s.a nr (wLa w) && srcOk s.b nr (wLb w) && qaq

/-- Order 5 of R39 on a lane word (R23). -/
def laneLatchOk (fmt : Word) (lat : List Latch) (w : Word) : Bool :=
  let s := slotsOf fmt (wOp w) (wLb w)
  latchOk s.a lat (wLa w) && latchOk s.b lat (wLb w) &&
    (s.use != .read || latchOk s.d lat (wLd w))

/-- An even field. -/
def even (x : Nat) : Bool := x % 2 == 0

/-- Order 3 of R39 on a group word: j pairs, predicate numbers, lane registers (R25, R26 and the entries). -/
def groupOperandOk (fmt : Word) (nr : Nat) (w : Word) : Bool :=
  let d := wGd w
  let a := wGa w
  let b := wGb w
  let x := wGx w
  let vOk := fun r => decide (r < nr)
  let wOk := fun r => even r && decide (r + 1 < nr)
  let tileOk := fun (r : Nat) (scaled : Bool) => decide (r % 4 = 0 ∧ ¬(scaled ∧ r = 60))
  let acc := (fmt.extractLsb' 14 2).toNat
  let blk := fun (lo : Nat) => acc == 0 && decide (4 ≤ (fmt.extractLsb' lo 3).toNat)
  match wOp w with
  | 0x01 => x = 0 || (even d && even a)
  | 0x04 => x = 0 || (even d && even a && even b)
  | 0x05 => x = 0 || (even d && even a && even b)
  | 0x0A => x = 0 || (even d && even a)
  | 0x0B => x = 0 || (even d && even a)
  | 0x0D => decide (1 ≤ d ∧ d ≤ 7) && (x < 32 || (even a && even b))
  | 0x10 => decide (1 ≤ d ∧ d ≤ 7 ∧ a ≤ 7)
  | 0x11 => even d && decide (a ≤ 7)
  | 0x12 => vOk x
  | 0x13 => !(x == 13 || x == 14 || x == 17 || x == 18 || x == 19) || even d
  | 0x16 => vOk a
  | 0x18 => vOk a
  | 0x1E => x = 0 || even a
  | 0x1F => x = 0 || even d
  | 0x20 => tileOk a (blk 8) && tileOk b (blk 11)
  | 0x21 => tileOk a (blk 8) && tileOk b (blk 11)
  | 0x22 => tileOk a (blk 8) && tileOk b (blk 11)
  | 0x24 => tileOk a false
  | 0x25 => tileOk a false
  | 0x27 => vOk x
  | 0x2B => even a
  | 0x2E => even a
  | 0x2F => even a && even b
  | 0x30 => even a && (x == 1 || x == 3 || even d)
  | 0x3A => even a
  | 0x3C =>
    wOk a && (match x with
      | 0 => wOk d && wOk b
      | 1 => vOk d && wOk b
      | 2 => vOk d && wOk b
      | 3 => wOk d && vOk b
      | _ => vOk d && vOk b)
  | 0x3D => if x = 2 then vOk d else vOk a
  | 0x3F =>
    match x with
    | 1 => d == 0 || even a
    | 3 => a == 0 || a == 4 || a == 5 || even d
    | 4 => a == 0 || even b
    | 6 => even a
    | _ => true
  | _ => true

/-- Instructions that must carry E = 1 (R31). -/
def mustE (w : Word) : Bool :=
  if w.getLsbD 31 then
    let op := wOp w
    let x := wGx w
    decide (0x14 ≤ op ∧ op ≤ 0x1D) || op == 0x2F || op == 0x31 || op == 0x33 ||
      (op == 0x3F && (x == 0 || x == 1 || x == 2 || x == 5 || x == 10))
  else false

end Sys2Proof.Machine
end

