-- ==== Sys2Proof/Machine/Addr.lean ====
section
/-! DEFINITION. Parts of the state by number, the physical map (R43–R47), hashing (R46) and the context table (R57). -/

namespace Sys2Proof.Machine

/-! ## Parts of the state by number -/

def dieOf (core : Nat) : Nat := core / 128
def clusterOf (core : Nat) : Nat := core / 16
def getDie (s : State) (d : Nat) : Die := mget {} s.dies d
def setDie (s : State) (d : Nat) (x : Die) : State := { s with dies := mput s.dies d x }
def getCore (s : State) (n : Nat) : Core := mget {} s.cores n
def setCore (s : State) (n : Nat) (x : Core) : State := { s with cores := mput s.cores n x }
def getWalker (s : State) (n : Nat) : Walker := mget {} s.walkers n
def setWalker (s : State) (n : Nat) (x : Walker) : State := { s with walkers := mput s.walkers n x }
def getBank (s : State) (n : Nat) : Bank := mget {} s.banks n
def setBank (s : State) (n : Nat) (x : Bank) : State := { s with banks := mput s.banks n x }
/-- A cluster's dispatcher owes a pass, which runs at the boundary that ends the tick (R267). -/
def askPass (s : State) (n : Nat) : State := setBank s n { (getBank s n) with pass := true }
def getFe (s : State) (n : Nat) : FrontEnd := mget {} s.fes n
def setFe (s : State) (n : Nat) (x : FrontEnd) : State := { s with fes := mput s.fes n x }
def getGroup (s : State) (core slot : Nat) : Option Group := mfind s.groups (gkey core slot)
def setGroup (s : State) (g : Group) : State := { s with groups := mput s.groups (gkey g.core g.slot) g }
def getTeam (s : State) (u : Nat) : Option Team := mfind s.teams u
def setTeam (s : State) (t : Team) : State := { s with teams := mput s.teams t.uid t }
def getUnit (s : State) (pa : Nat) : Unit_ := mget {} s.units (pa / 8)
def setUnit (s : State) (pa : Nat) (u : Unit_) : State := { s with units := mset {} s.units (pa / 8) u }
def ctxBlock (s : State) (die : Nat) (ctx : Nat) : CtxBlock := mget {} (getDie s die).ctxs ctx
def getErr (s : State) (kind inst : Nat) : ErrLog := mget {} s.errs (1024 * kind + inst)
def setErr (s : State) (kind inst : Nat) (e : ErrLog) : State := { s with errs := mput s.errs (1024 * kind + inst) e }

/-! ## The physical map -/

/-- A place in the physical space (R43): die and offset within the die's window. -/
inductive Place where
  | tierH (d o : Nat)
  | tierL (d o : Nat)
  | car (d o : Nat)
  | ctr (d o : Nat)
  | regs (d o : Nat)
  | mgmt (o : Nat)
  | ext
  | hole
  deriving DecidableEq, Repr

/-- Where a physical address lies (R43, R45). -/
def place (pa : Nat) : Place :=
  if pa < 0x8000000000 then
    if pa % 0x2000000000 < 128000000000 then .tierH (pa / 0x2000000000) (pa % 0x2000000000) else .hole
  else if 0x40000000000 ≤ pa ∧ pa < 0x60000000000 then
    .tierL ((pa - 0x40000000000) / 0x8000000000) ((pa - 0x40000000000) % 0x8000000000)
  else if 0x80000000000 ≤ pa ∧ pa < 0x80008000000 then
    .car ((pa - 0x80000000000) / 0x2000000) ((pa - 0x80000000000) % 0x2000000)
  else if 0xC0000000000 ≤ pa ∧ pa < 0xC0000400000 then
    let o := (pa - 0xC0000000000) % 0x100000
    if o < 0x3000 then .ctr ((pa - 0xC0000000000) / 0x100000) o else .hole
  else if 0xE0000000000 ≤ pa ∧ pa < 0xE0001000000 then
    .regs ((pa - 0xE0000000000) / 0x400000) ((pa - 0xE0000000000) % 0x400000)
  else if 0xF0000000000 ≤ pa ∧ pa < 0xF0000010000 then .mgmt (pa - 0xF0000000000)
  else if 0x100000000000 ≤ pa ∧ pa < 2 ^ 52 then .ext
  else .hole

/-- The firmware range of a die's Tier H (R45). -/
def firmware (o : Nat) : Bool := decide (127999672320 ≤ o)

/-- A forwarding window covers the address (R362). -/
def windowCovers (w : Window) (pa : Nat) : Bool :=
  let base := bits w.base.toNat 51 21 * 2 ^ 21
  let len := bits w.len.toNat 25 0 * 2 ^ 21
  w.base.getLsbD 0 && decide (bits w.port.toNat 3 0 ≤ 8) && decide (0x100000000000 ≤ base) &&
    decide (base + len ≤ 2 ^ 52) && decide (base ≤ pa ∧ pa < base + len)

/-- The lowest-numbered window that covers the address (R362). -/
def findWindow (s : State) (pa : Nat) : Option Window :=
  ((List.range 64).map fun i => mget {} s.mg.fw i).find? fun w => windowCovers w pa

/-- The selector that a request to a tier address must carry: the entry of its domain (R47), and 0 in the firmware range (R45). -/
def selectorAt (s : State) (pa : Nat) : Option Nat :=
  match place pa with
  | .tierH d o => some (if firmware o then 0 else (mget 0 (getDie s d).selH (o / 2 ^ 21)).toNat)
  | .tierL d o => some (mget 0 (getDie s d).selL (o / 2 ^ 21)).toNat
  | _ => none

/-- The home die of a location (R61); a location outside the tiers and the SRAM is served by the die whose window holds it, and else by die
0 (log entry 45, DEDUCED). -/
def homeDie (pa : Nat) : Nat :=
  match place pa with
  | .tierH d _ => d
  | .tierL d _ => d
  | .car d _ => d
  | .ctr d _ => d
  | _ => 0

/-! ## Hashing (R46) -/

/-- Bit reversal of n bits. -/
def bitRev (n x : Nat) : Nat := (List.range n).foldl (fun r i => 2 * r + x / 2 ^ i % 2) 0

/-- F(sel, U) of R46. -/
def hashF (n sel u : Nat) : Nat :=
  let f := fun i => u / 2 ^ (n * i) % 2 ^ n
  match sel with
  | 0 => 0
  | 1 => f 0
  | 2 => f 0 ^^^ f 1
  | 3 => f 0 ^^^ f 1 ^^^ f 2 ^^^ f 3
  | 4 => u % (2 ^ n - 1)
  | 5 => (u / 16 % 2 ^ n) ^^^ (u / 2 ^ (n + 4) % 2 ^ n)
  | 6 => bitRev n (f 0)
  | _ => bitRev n (f 0) ^^^ f 1

/-- The channel and in-channel granule of a granule (R46). -/
def channelOf (n sel g : Nat) : Nat × Nat :=
  let sh := if sel = 5 then 4 else 0
  let l := g / 2 ^ sh % 2 ^ n
  let u := g / 2 ^ (sh + n) * 2 ^ sh + g % 2 ^ sh
  (l ^^^ hashF n sel u, u)

/-! ## The context table (R57) -/

/-- A context-table entry whose fields keep the table; none stands for VALID = 0. -/
structure CtxEnt where
  priv : Bool
  part : Nat
  vf : Nat
  root : Nat
  deriving DecidableEq, Repr

/-- A place that holds bytes which the device reads and writes by physical address: a tier, Carillon SRAM, or host memory behind a window
(R43, R362). -/
def bytesAt (s : State) (pa : Nat) : Bool :=
  match place pa with
  | .tierH _ _ => true
  | .tierL _ _ => true
  | .car _ _ => true
  | .ext => (findWindow s pa).isSome
  | _ => false

/-- The device's own access of `n` bytes at a physical address that a register or a table names meets no hole (R43, log entry 44,
DEDUCED). -/
def physOk (s : State) (pa n : Nat) : Bool := bytesAt s pa && bytesAt s (pa + n - 1)

/-- The context-table entry of an ASID as one die's CTXBASE gives it (R56, R57). A table in a hole gives no entry, and a ROOT past the
physical space breaks the table (log entry 44, DEDUCED). -/
def ctxEntry (s : State) (die asid : Nat) : Option CtxEnt :=
  let a := bits (getDie s die).ctxbase.toNat 51 13 * 2 ^ 13 + 32 * asid
  let w0 := memRead s.mem a 8
  let root := memRead s.mem (a + 8) 8
  let vf := bits w0 16 7
  if physOk s a 32 ∧ w0 % 2 = 1 ∧ bits w0 63 17 = 0 ∧ (vf ≤ 511 ∨ vf = 0x3FF) ∧ root % 4096 = 0 ∧ root < 2 ^ 52 ∧
      memRead s.mem (a + 16) 16 = 0 then
    some ⟨bits w0 1 1 == 1, bits w0 6 2, vf, root⟩
  else none

/-- Whether a context is privileged (R57). -/
def ctxPriv (s : State) (die asid : Nat) : Bool := match ctxEntry s die asid with | some e => e.priv | none => false

/-- The partition, and so the front end, of a context. -/
def ctxPart (s : State) (die asid : Nat) : Nat := match ctxEntry s die asid with | some e => e.part | none => 0

/-- Arithmetic cycles in ten ticks in a power state (R4, R364). -/
def cyclesTen (st : Nat) : Nat := match st with | 0 => 30 | 1 => 24 | 2 => 15 | _ => 0

end Sys2Proof.Machine
end

