-- ==== Sys2Proof/Machine/Memory.lean ====
section
/-! DEFINITION. Physical memory: reads and writes in the order in which they are performed (R235), error words (R302, R305), and what
releases publish and acquires see (R229–R233). -/

namespace Sys2Proof.Machine

/-! ## Writes in their order (R235) -/

/-- Records the `n` bytes that a write at `a` replaces. -/
def histPush (m : List Host.Cell) (a : Nat) : Nat → List (List Host.Cell) → List (List Host.Cell)
  | 0, h => h
  | n + 1, h => histPush m (a + 1) n ([(a, memByte m a)] :: h)

/-- Writes the low `n` bytes of `v`; each byte takes its place in the order. -/
def putMem (s : State) (a n v : Nat) : State :=
  { s with mem := memWrite s.mem a n v, hist := histPush s.mem a n s.hist }

/-! ## The channels' counters (R48–R52) -/

/-- The index of a channel's block in its die: Tier H, then Tier L (R48). -/
def chanIx (tierL : Bool) (ch : Nat) : Nat := if tierL then 128 + ch % 32 else ch % 128

/-- Changes one channel of a die. -/
def onChan (s : State) (d i : Nat) (f : Chan → Chan) : State :=
  let x := getDie s d
  setDie s d { x with chans := mput x.chans i (f (mget {} x.chans i)) }

/-- A filter passes a request of a context (R50); its fields are those of the last tick boundary (R52). -/
def filterPass (c : Chan) (ctx : Nat) : Bool := !c.filtEn || ((c.filtCtx.toNat == ctx) != c.filtInv)

/-- Adds events of the current tick. -/
def chanEvent (which n : Nat) (c : Chan) : Chan := { c with ev := mset 0 c.ev which (mget 0 c.ev which + n) }

/-- The number that traffic carries: the context of the launch that caused it, or 0xFF (R50). -/
def trafficNo (ctx : Option Nat) : Nat := ctx.getD 0xFF

/-- The channel of an address (R42, R46): die and index in it. -/
def chanOf (s : State) (pa : Nat) : Option (Nat × Nat) :=
  match place pa, selectorAt s pa with
  | .tierH d o, some sel => some (d, chanIx false (channelOf 7 sel (o / 256)).1)
  | .tierL d o, some sel => some (d, chanIx true (channelOf 5 sel (o / 256)).1)
  | _, _ => none

/-- Counts `n` beats of one request at a channel, with the activates and conflicts that they cause (R51). -/
def countAt (s : State) (ctx : Nat) (write : Bool) (n activates conflicts d i : Nat) : State :=
  onChan s d i fun c =>
    if filterPass c ctx then chanEvent 3 conflicts (chanEvent (if write then 2 else 1) n (chanEvent 0 activates c)) else c

/-- A request of `n` 64-byte beats at an address is counted (R51): its activates and conflicts are free values (log entry 30). -/
def countBeats (s : State) (ctx : Nat) (write : Bool) (n pa : Nat) : State :=
  match chanOf s pa with
  | none => s
  | some (d, i) =>
    let k := ((mget {} (getDie s d).chans i).ev.map Prod.snd).sum
    countAt s ctx write n (Config.activates s.time.toNat k pa) (Config.conflicts s.time.toNat k pa) d i

/-- The 64-byte lines of a list of addresses are each read or written as one beat. -/
def countLines (s : State) (ctx : Nat) (write : Bool) (pas : List Nat) : State :=
  (pas.map (· / 64)).eraseDups.foldl (fun s l => countBeats s ctx write 1 (64 * l)) s

/-- The beats of a page of `n` bytes: by granule, and from a whole domain on the same for every channel of the tier (R46). -/
def countPage (s : State) (ctx : Nat) (write : Bool) (pa n : Nat) : State :=
  if n < 2 ^ 21 then (List.range (n / 256)).foldl (fun s g => countBeats s ctx write 4 (pa + 256 * g)) s
  else
    let go := fun (d lo k : Nat) => (List.range k).foldl (fun s c =>
      countAt s ctx write (n / 64 / k) (Config.activates s.time.toNat c pa) (Config.conflicts s.time.toNat c pa) d (lo + c)) s
    match place pa with
    | .tierH d _ => go d 0 128
    | .tierL d _ => go d 128 32
    | _ => s

/-! ## Error words (R302, R305) -/

/-- A write to a 64-bit word: an armed injection for it is stored and spent, otherwise the word becomes clean. -/
def errWrite (s : State) (kind inst word : Nat) : State :=
  let e := getErr s kind inst
  if e.armed = none ∧ e.bad = [] then s
  else
    match e.armed with
    | some (w, u) =>
      if w = word then setErr s kind inst { e with armed := none, bad := mput e.bad word u }
      else setErr s kind inst { e with bad := mdel e.bad word }
    | none => setErr s kind inst { e with bad := mdel e.bad word }

/-- Writes words of a core's columns or accumulator memory (R305). -/
def errWrites (s : State) (kind core : Nat) (hit : Nat → Bool) : State :=
  let e := getErr s kind core
  let armed := match e.armed with | some (w, _) => [w] | none => []
  ((armed ++ e.bad.map Prod.fst).filter hit).foldl (fun s w => errWrite s kind core w) s

/-- One log entry of R302. -/
def errEntry (unc : Bool) (ctx synd addr core time : Nat) : BitVec 128 :=
  BitVec.ofNat 128 ((1 + 2 * unc.toNat + 256 * (ctx % 256) + 65536 * (synd % 65536)) + 2 ^ 32 * (addr % 2 ^ 32) +
    2 ^ 64 * (addr / 2 ^ 32 % 2 ^ 20 + 2 ^ 20 * (core % 16) + 2 ^ 24 * (core / 16 % 8) + 2 ^ 27 * (core / 128 % 4)) +
    2 ^ 96 * (time % 2 ^ 32))

/-- Logs an error: the newest of eight entries, and a saturating count (R302). -/
def errLog (s : State) (kind inst : Nat) (unc : Bool) (ctx synd addr core : Nat) : State :=
  let e := getErr s kind inst
  let sat := fun (x : Word) => if x = BitVec.allOnes 32 then x else x + 1
  setErr s kind inst { e with
    log := mput e.log (e.next % 8) (errEntry unc ctx synd addr core s.time.toNat)
    next := e.next + 1
    corr := if unc then e.corr else sat e.corr
    uncorr := if unc then sat e.uncorr else e.uncorr }

/-- A read of a 64-bit word: true when it meets an uncorrectable error; either kind is logged. A write clears the word (R303,
R305). -/
def errRead (s : State) (kind inst word addr core ctx : Nat) : Bool × State :=
  match mfind (getErr s kind inst).bad word with
  | none => (false, s)
  | some u => (u, errLog s kind inst u ctx 0 addr core)

/-- The array that holds a physical address: kind, instance and the word in it (R302). -/
def errOf (pa : Nat) : Option (Nat × Nat × Nat) :=
  match place pa with
  | .tierH d _ => some (4, d, pa / 8)
  | .tierL d _ => some (5, d, pa / 8)
  | .car d o => some (3, d, o / 8)
  | _ => none

/-- The 64-bit words of a range of physical memory are written. -/
def errWriteMem (s : State) (pa n : Nat) : State :=
  (List.range ((pa + n + 7) / 8 - pa / 8)).foldl (fun s i =>
    match errOf (8 * (pa / 8 + i)) with
    | none => s
    | some (k, d, w) => errWrite s k d w) s

/-- The address that the log of an array records for a word of memory (R302): an offset in Carillon SRAM, else the physical address. -/
def errAddr (kind word pa : Nat) : Nat := if kind = 3 then 8 * word else pa

/-- Whether any 64-bit word of a range of physical memory meets an uncorrectable error. -/
def errReadMem (s : State) (pa n core ctx : Nat) : Bool × State :=
  (List.range ((pa + n + 7) / 8 - pa / 8)).foldl (fun r i =>
    match errOf (8 * (pa / 8 + i)) with
    | none => r
    | some (k, d, w) =>
      let (u, s) := errRead r.2 k d w (errAddr k w (8 * (pa / 8 + i))) core ctx
      (r.1 || u, s)) (false, s)

/-- Stores `n` bytes in physical memory. -/
def storeMem (s : State) (pa n v : Nat) : State := errWriteMem (putMem s pa n v) pa n

/-! ## Domains (R229) -/

/-- The domain of a scope as seen from a strand of a group, by a number of its own: .gp and .tm by the team, .cl by the cluster, .die by the
die. The A-die, the host and devices are parties of .sys alone. -/
def domainOf (core team idx scope : Nat) : Nat :=
  match scope with
  | 1 => 8 * (team * 65536 + idx) + 1
  | 2 => 8 * team + 2
  | 3 => 8 * clusterOf core + 3
  | 4 => 8 * dieOf core + 4
  | 5 => 5
  | _ => 6

/-- The domains of a party at a scope and at every narrower one: with the domains of one party each within the next, an acquire at S′ sees a
release at S exactly where the parties share a domain of a scope that is no wider than S and no wider than S′ (R231). -/
def domainsOf (core team idx scope : Nat) : List Nat := (List.range scope).map fun i => domainOf core team idx (i + 1)

/-- What a set of visible writes holds: for each byte the last of them, with its number in the order and its value. -/
abbrev Seen := AMap (Nat × Byte)

/-- The union of two sets, the later write standing for each byte; `fuel` bounds the sum of their lengths. -/
def seenGo : Nat → Seen → Seen → Seen
  | _, [], b => b
  | _, a, [] => a
  | 0, a, _ => a
  | n + 1, (i, x) :: a, (j, y) :: b =>
    if i < j then (i, x) :: seenGo n a ((j, y) :: b)
    else if j < i then (j, y) :: seenGo n ((i, x) :: a) b
    else (i, if x.1 < y.1 then y else x) :: seenGo n a b

/-- The union of two sets of visible writes. -/
def seenJoin (a b : Seen) : Seen := seenGo (a.length + b.length) a b

/-- The writes made since the order held `n` of them, as they stand in memory now. -/
def seenSince (s : State) (n : Nat) : Seen :=
  (s.hist.take (s.hist.length - n)).flatten.foldl (fun m e => mput m e.1 (s.hist.length, memByte s.mem e.1)) []

/-- A release publishes a set of writes in domains (R232). -/
def publishIn (s : State) (ds : List Nat) (w : Seen) : State :=
  { s with pub := ds.foldl (fun p d => mput p d (seenJoin (mget [] p d) w)) s.pub }

/-- What an acquire sees: its party's writes and all that has been published in its domains (R231). -/
def seenIn (s : State) (ds : List Nat) (w : Seen) : Seen := ds.foldl (fun w d => seenJoin w (mget [] s.pub d)) w

/-- Memory as it stood when `n` writes had been made (R235). -/
def memAt (s : State) (n : Nat) : List Host.Cell :=
  (s.hist.take (s.hist.length - n)).flatten.foldl (fun m e => memPut m e.1 e.2) s.mem

/-- A snapshot of `n` writes with every later write that is visible. -/
def overlay (n : Nat) (w : Seen) (m : List Host.Cell) : List Host.Cell :=
  w.foldl (fun m e => if n < e.2.1 then memPut m e.1 e.2.2 else m) m

/-- A snapshot: memory as it stood after `n` writes, with every later write that is visible (R233). -/
def snapshot (s : State) (n : Nat) (w : Seen) : List Host.Cell := overlay n w (memAt s n)

/-! ## A page that moves (R68, R69) -/

/-- The bytes of a map at `src` and on, `n` of them, stand at `dst` as well. -/
def rekey {α : Type} (src dst n : Nat) (m : AMap α) : AMap α :=
  (m.filter fun e => decide (src ≤ e.1 ∧ e.1 < src + n)).foldl (fun r e => mput r (e.1 - src + dst) e.2)
    (mkeep (fun a => !decide (dst ≤ a ∧ a < dst + n)) m)

/-- The history of a frame is that of its copy as well, whose own history has ended. -/
def rekeyHist (src dst n : Nat) (h : List (List Host.Cell)) : List (List Host.Cell) :=
  h.map fun l =>
    (l.filter fun x => !decide (dst ≤ x.1 ∧ x.1 < dst + n)) ++
      (l.filter fun x => decide (src ≤ x.1 ∧ x.1 < src + n)).map fun x => (x.1 - src + dst, x.2)

/-- A page's contents are copied to a new frame: memory, and with it what every strand has seen and written of the page, so that no load
tells the frames apart (R69, R70). -/
def copyFrame (s : State) (src dst n : Nat) : State :=
  let strand := fun (t : Strand) => { t with snap := rekey src dst n t.snap, own := rekey src dst n t.own, vis := rekey src dst n t.vis }
  { s with
    mem := rekey src dst n s.mem
    hist := rekeyHist src dst n s.hist
    pub := mmap (fun _ m => rekey src dst n m) s.pub
    walkers := mmap (fun _ w => { w with slots := mmap (fun _ x => { x with vis := rekey src dst n x.vis }) w.slots }) s.walkers
    groups := mmap (fun _ g => { g with
      strands := g.strands.map strand, seen := rekey src dst n g.seen
      join := g.join.map fun e =>
        { e with snap := rekey src dst n e.snap, own := rekey src dst n e.own, vis := rekey src dst n e.vis } }) s.groups }

end Sys2Proof.Machine
end

