-- ==== Sys2Proof/Machine/Walk.lean ====
section
/-! DEFINITION. The page walk (R58–R61), translation caches (R55) and the outcomes of a translation (R63, R64). -/

namespace Sys2Proof.Machine

/-! ## The walk (R58–R61) -/

/-- Fields of an entry (R59). -/
def peV (e : Nat) : Bool := bits e 0 0 == 1
def peL (e : Nat) : Bool := bits e 1 1 == 1
def peW (e : Nat) : Bool := bits e 2 2 == 1
def peX (e : Nat) : Bool := bits e 3 3 == 1
def peTier (e : Nat) : Nat := bits e 5 4
def peClass (e : Nat) : Nat := bits e 7 6
def peHsel (e : Nat) : Nat := bits e 10 8
def peRepl (e : Nat) : Bool := bits e 11 11 == 1
def peFrame (e : Nat) : Nat := bits e 51 12 * 4096
def peMig (e : Nat) : Bool := bits e 52 52 == 1

/-- The log2 of the span of an entry at a level (R58). -/
def levelLg (lv : Nat) : Nat := match lv with | 1 => 12 | 2 => 21 | 3 => 35 | _ => 48

/-- The index of a level (R58). -/
def levelIx (lv va : Nat) : Nat :=
  match lv with | 1 => bits va 20 12 | 2 => bits va 34 21 | 3 => bits va 47 35 | _ => bits va 56 48

/-- The range of R43 whose window holds an address, the holes of the window with it. -/
def windowOf (pa : Nat) : Place :=
  if pa < 0x8000000000 then .tierH (pa / 0x2000000000) (pa % 0x2000000000)
  else if 0xC0000000000 ≤ pa ∧ pa < 0xC0000400000 then
    .ctr ((pa - 0xC0000000000) / 0x100000) ((pa - 0xC0000000000) % 0x100000)
  else place pa

/-- A leaf that breaks R60, given its level. A frame in no range of R43 disagrees with no TIER: the access meets R43 (log entry 43,
DEDUCED). A 32 GiB frame whose last part is not installed keeps R60 as well, and an access to that part meets R43 (log entry 43). -/
def leafBad (lv e : Nat) : Bool :=
  let f := peFrame e
  let pl := windowOf f
  let tierOk := match peTier e, pl with
    | 0, .tierH _ _ => true
    | 0, .car _ _ => true
    | 0, .ctr _ _ => true
    | 1, .tierL _ _ => true
    | 2, .ext => true
    | _, .hole => true
    | _, _ => false
  let special := match pl with | .car _ _ => true | .ctr _ _ => true | _ => false
  let ctrBlk := match pl with | .ctr _ o => decide (o < 0x3000) && lv == 1 | _ => false
  let die0 := decide (f < 0x2000000000)
  bits e 63 53 != 0 || peTier e == 3 || peClass e == 3 || decide (f % 2 ^ levelLg lv ≠ 0) || !tierOk ||
    (special && peClass e == 0) ||
    (peTier e == 2 && (peHsel e != 0 || peRepl e || peClass e == 1)) ||
    (peClass e == 2 && (peW e || peX e || !ctrBlk)) ||
    (peRepl e && (peW e || peTier e != 0 || !die0))

/-- A pointer to a table that breaks R60, given its level. -/
def tableBad (lv e : Nat) : Bool :=
  bits e 63 52 != 0 || bits e 11 2 != 0 || (lv == 4 && bits e 15 12 != 0) || (lv == 3 && bits e 16 12 != 0)

/-- What a walk ends with: a leaf with its level and where it stands, or a code of R63. -/
inductive Walked where
  | leaf (e lg ent : Nat)
  | code (c : Nat)
  deriving DecidableEq, Repr

/-- Whether a walk may read an address (R60): Tier H or Tier L. -/
def walkable (pa : Nat) : Bool := match place pa with | .tierH _ _ => true | .tierL _ _ => true | _ => false

/-- The walk from a table at level `lv`, by fuel (R58–R60). Its reads are refused by no selector (R47 compares the selector that a
request carries, and a walk's read is given none; log entry 44, DEDUCED). One that meets an uncorrectable error ends with 0x50 (R303). -/
def walkGo (core ctx va : Nat) : Nat → Nat → Nat → State → Walked × State
  | 0, _, _, s => (.code 4, s)
  | n + 1, lv, base, s =>
    let a := base + 8 * levelIx lv va
    if !walkable a then (.code 5, s)
    else
      match errReadMem (countBeats s ctx false 1 a) a 8 core ctx with
      | (true, s) => (.code 0x50, s)
      | (false, s) =>
        let e := memRead s.mem a 8
        if !peV e then (.code 0x10, s)
        else if peL e then
          if lv = 4 ∨ leafBad lv e then (.code 4, s) else (.leaf e (levelLg lv) a, s)
        else if lv = 1 ∨ tableBad lv e then (.code 4, s)
        else walkGo core ctx va n (lv - 1) (peFrame e) s

/-- The walk of an address from a context's root, for a core. -/
def walk (s : State) (core ctx root va : Nat) : Walked × State := walkGo core ctx va 4 4 root s

/-- The core that the log of an error names for a unit. -/
def unitCore (u : Nat) : Nat := if u < 512 then u else if u < 640 then (u - 512) / 4 * 16 else 0

/-! ## Translation caches (R55) -/

/-- Units: a core 0–511, a walker 512 + w, the network port 640, the storage port 641. -/
def unitCap (u : Nat) : Nat := if u < 512 then 2048 else 512

/-- The die whose CTXBASE serves a unit (R56). -/
def unitDie (u : Nat) : Nat := if u < 512 then u / 128 else if u < 640 then (u - 512) / 32 else 0

/-- A cached leaf that covers an address. -/
def tlbFind (l : List Tlb) (asid va : Nat) : Option Tlb :=
  l.find? fun t => t.asid.toNat == asid && decide (va / 2 ^ t.lg = t.page / 2 ^ t.lg)

/-- Loads a leaf into a unit's cache; a full cache drops its oldest entry (log entry 16). -/
def tlbFill (s : State) (u asid va e lg : Nat) : State :=
  let l := mget [] s.tlbs u
  let t : Tlb := ⟨BitVec.ofNat 8 asid, va / 2 ^ lg * 2 ^ lg, lg, BitVec.ofNat 64 e⟩
  { s with tlbs := mput s.tlbs u ((t :: l).take (unitCap u)) }

/-- The leaf of an address for a unit and context: from its cache, or by a walk that fills it (R55, R63). The code is one
of 0x03, 0x04, 0x05, 0x10, 0x50. -/
def leafOf (s : State) (u asid va : Nat) : (Nat ⊕ Nat × Nat) × State :=
  match tlbFind (mget [] s.tlbs u) asid va with
  | some t => (.inr (t.leaf.toNat, t.lg), s)
  | none =>
    match ctxEntry s (unitDie u) asid with
    | none => (.inl 3, s)
    | some ce =>
      match walk s (unitCore u) asid ce.root va with
      | (.code c, s) => (.inl c, s)
      | (.leaf e lg _, s) => (.inr (e, lg), tlbFill s u asid va e lg)

/-- The kinds of access that R64 tells apart. -/
inductive Acc where
  | load (size : Nat)
  | store
  | atomic
  /-- CREDF, CREDD, counters and the tree forms. -/
  | sync
  | fetch
  deriving DecidableEq, Repr

/-- The class permits the access (R64). A fetch is permitted where R64 gives a load of every size (log entry 45, DEDUCED). -/
def classOk (a : Acc) (cls tier : Nat) : Bool :=
  match a with
  | .fetch => cls == 0
  | .load n => cls == 0 || (cls == 2 && (n == 4 || n == 8))
  | .store => cls == 0
  | .atomic => (cls == 0 && tier != 2) || cls == 1
  | .sync => cls == 1

/-- The physical address that a leaf gives on a die (R61). -/
def leafPa (e lg va die : Nat) : Nat :=
  peFrame e + va % 2 ^ lg + (if peRepl e then die * 0x2000000000 else 0)

/-- The sync location lies where R207 allows. -/
def syncPlaceOk (s : State) (pa : Nat) : Bool :=
  let inRegion := fun (d : Nat) =>
    let b := bits (getDie s d).csyncbase.toNat 51 16 * 65536
    let l := min (bits (getDie s d).csynclen.toNat 35 16 * 65536) (2 ^ 36)
    decide (b ≤ pa ∧ pa < b + l)
  match place pa with
  | .car d o => decide (o < min (getDie s d).csplit.toNat 32 * 2 ^ 20)
  | .tierH d _ => inRegion d
  | .tierL d _ => inRegion d
  | _ => false

/-- The target accepts the request: no hole, no firmware range, the selector of the domain (R43, R45, R47, R207). A counter window
accepts what the class of its page permits (log entry 45, DEDUCED). -/
def targetOk (s : State) (cls hsel pa : Nat) : Bool :=
  let sel := match selectorAt s pa with | some x => x == hsel | none => true
  match place pa with
  | .hole => false
  | .regs _ _ => false
  | .mgmt _ => false
  | .ext => (findWindow s pa).isSome
  | .tierH _ o => !firmware o && sel && (cls != 1 || syncPlaceOk s pa)
  | .tierL _ _ => sel && (cls != 1 || syncPlaceOk s pa)
  | .car _ _ => cls != 1 || syncPlaceOk s pa
  | .ctr _ _ => true

/-- A translated access: the physical address, the page size and the class, or a code of R63. -/
inductive Tr where
  | ok (pa lg cls : Nat)
  | code (c : Nat)
  deriving DecidableEq, Repr

/-- The access writes. -/
def Acc.writes : Acc → Bool
  | .store => true
  | .atomic => true
  | .sync => true
  | _ => false

/-- The leaf that an access meets while the page is moving: loads and fetches read the old frame until the second invalidation has
completed (R69). -/
def movingLeaf (s : State) (asid va e : Nat) : Nat :=
  match (s.fes.filterMap fun x => x.2.job).find? fun j =>
      j.asid.toNat == asid && (j.step == 4 || (j.step == 5 && j.inv)) && decide (va / 2 ^ j.lg = j.va / 2 ^ j.lg) && decide (peFrame e = j.frame) with
  | some j => j.ent
  | none => e

/-- Translates one access of `size` bytes (R63, R64); counters and pairs need `align`. -/
def translate (s : State) (u die asid : Nat) (a : Acc) (align va : Nat) (wr : Bool) : Tr × State :=
  if va % align ≠ 0 then (.code 1, s)
  else if 2 ^ 57 ≤ va then (.code 2, s)
  else
    match leafOf s u asid va with
    | (.inl c, s) => (.code c, s)
    | (.inr (e, lg), s) =>
      if !classOk a (peClass e) (peTier e) then (.code 6, s)
      else if a = .fetch ∧ !peX e then (.code 7, s)
      else
        let e := if wr then e else movingLeaf s asid va e
        let pa := leafPa e lg va die
        if !targetOk s (peClass e) (peHsel e) pa then (.code 8, s)
        else if wr ∧ !peW e then (.code 0x11, s)
        else if wr ∧ peMig e then (.code 0x12, s)
        else (.ok pa lg (peClass e), s)

end Sys2Proof.Machine
end

