-- ==== Sys2Proof/Machine/Records.lean ====
section
/-! DEFINITION. Records to the reporting port and the parties that wait with them (R281–R283). -/

namespace Sys2Proof.Machine

/-! ## Records for the resident kernel (R281–R283) -/

/-- A fault record (R281). -/
def mkRec (code src asid flags loc addr ref time : Nat) : BitVec 256 :=
  BitVec.ofNat 256 (code % 256 + 2 ^ 8 * (src % 8) + 2 ^ 16 * (asid % 256) + 2 ^ 24 * (flags % 16) +
    2 ^ 32 * (loc % 2 ^ 32) + 2 ^ 64 * (addr % 2 ^ 64) + 2 ^ 128 * (ref % 2 ^ 64) + 2 ^ 192 * (time % 2 ^ 64))

/-- The codes of the retryable ring (R282). -/
def retryRing (code : Nat) : Bool := code == 0x10 || code == 0x11 || code == 0x13 || code == 0x40 || code == 0x42

/-- Hands a record to a queue of the reporting port; with 64 records queued its party waits with it (R283). -/
def portPut (r : RepPort) (kind : Nat) (x : FRec) : RepPort :=
  let l := mget [] r.q kind
  if l.length < 64 then { r with q := mput r.q kind (l ++ [x]) }
  else { r with waitq := mput r.waitq kind (mget [] r.waitq kind ++ [x]) }

/-- A party posts a record for a context; a terminal one is copied to the context's VF (R283). -/
def post (s : State) (who : Party) (code src asid flags loc addr ref : Nat) : State :=
  let d := mkRec code src asid flags loc addr ref s.time.toNat
  if retryRing code then { s with rep := portPut s.rep 0 ⟨asid, d, who⟩ }
  else
    let r := portPut s.rep 1 ⟨asid, d, who⟩
    match ctxEntry s 0 asid with
    | some e => { s with rep := if e.vf = 0x3FF then r else portPut r 2 ⟨e.vf, d, who⟩ }
    | none => { s with rep := r }

/-- A party waits with a record, and goes on with nothing until the port takes it (R283). -/
def waiting (s : State) (who : Party) : Bool := s.rep.waitq.any fun e => e.2.any fun x => x.who == who

/-- LOC of a strand (R281). -/
def locStrand (core slot entry : Nat) : Nat :=
  core / 128 % 4 + 4 * (core / 16 % 8) + 32 * (core % 16) + 512 * (slot % 1024) + 2 ^ 19 * (entry % 256)

/-- LOC of a walker slot (R281). -/
def locSlot (core walker slot : Nat) : Nat :=
  core / 128 % 4 + 4 * (core / 16 % 8) + 32 * (core % 16) + 2 ^ 19 * (walker % 4) + 2 ^ 21 * (slot % 8)

/-- LOC of a front end (R281). -/
def locFe (fe : Nat) : Nat := 2 ^ 27 * (fe % 32)

/-- The device's own access to a physical address for a context is refused: nothing is read or written (R43, log entry 44, DEDUCED). -/
def refused (s : State) (asid flags loc pa : Nat) : State := post s .device 8 0 asid flags loc pa 0

end Sys2Proof.Machine
end

