-- ==== Sys2Proof/Machine/ColumnOps.lean ====
section
/-! DEFINITION. The column (R98–R114): ownership, stamps, expiry, sector reads and writes, allocation and release, and the
energy counters that follow the tagged granules (R299–R301). -/

namespace Sys2Proof.Machine

/-- Bytes of a column (R98). -/
def colBytes : Nat := 0x1800000

/-- Granules of a column (R99). -/
def colGranules : Nat := 98304

/-- The tag of a granule (R99). -/
def tagAt (c : Column) (gran : Nat) : Tag := mget .free c.tags gran

/-- The allocation that holds an address. -/
def allocAt (c : Column) (a : Nat) : Option Alloc := c.allocs.find? fun x => decide (x.base ≤ a ∧ a < x.base + x.size)

/-- The stamp of a sector (R108). -/
def stampAt (c : Column) (al : Alloc) (sec : Nat) : Int := (mfind c.stamps sec).getD al.born

/-- A sector is expired at TIME t (R108). -/
def expired (c : Column) (sec t : Nat) : Bool :=
  match allocAt c (64 * sec) with
  | none => false
  | some al => al.cls != .ref && decide ((64 * al.life : Nat) < (t : Int) - stampAt c al sec)

/-- The class of a sector; sectors outside allocations are read as refreshed. -/
def clsAt (c : Column) (sec : Nat) : Cls := match allocAt c (64 * sec) with | none => .ref | some al => al.cls

/-- A sector that is trapping and expired. -/
def trapExpired (c : Column) (sec t : Nat) : Bool := clsAt c sec == .trap && expired c sec t

/-- A sector that is lapsing and expired. -/
def lapExpired (c : Column) (sec t : Nat) : Bool := clsAt c sec == .lap && expired c sec t

/-- The granule of an address is an allocation of the context (R99). -/
def ownedBy (c : Column) (ctx : BitVec 8) (a : Nat) : Bool :=
  match tagAt c (a / 256) with
  | .alloc x _ _ => x == ctx
  | _ => false

/-- The subcode of R100 for one column address of `size` bytes: 0 when it fails nothing. `ea` is the 32-bit value. -/
def colFault (c : Column) (ctx : BitVec 8) (ea size : Nat) : Nat :=
  let a := ea % 2 ^ 25
  if bits ea 31 31 ≠ 0 ∨ bits ea 29 25 ≠ 0 ∨ colBytes ≤ a then 1
  else if ea % size ≠ 0 then 2
  else if !ownedBy c ctx a then 3
  else 0

/-- Sectors of a byte range. -/
def sectorsOf (a n : Nat) : List Nat :=
  if n = 0 then [] else (List.range ((a + n - 1) / 64 + 1 - a / 64)).map (· + a / 64)

/-- Reads bytes of one sector at TIME t: zeros when it is lapsing and expired (R109). -/
def colReadAt (c : Column) (t a n : Nat) : Nat :=
  readLE (fun i => if lapExpired c (i / 64) t then 0 else mget 0 c.bytes i) a n

/-- Clears the bytes of a range. -/
def clearBytes (b : AMap Byte) (a n : Nat) : AMap Byte := mkeep (fun k => !decide (a ≤ k ∧ k < a + n)) b

/-- Writes bytes of a sector at TIME t with its stamp (R110): an expired lapsing sector is cleared first unless the write
is whole. -/
def sectorWrite (c : Column) (t : Nat) (whole : Bool) (a n v : Nat) : Column :=
  let sec := a / 64
  let base := if !whole && lapExpired c sec t then clearBytes c.bytes (64 * sec) 64 else c.bytes
  { c with bytes := bytesWrite base a n v, stamps := mput c.stamps sec (t : Int) }

/-- Writes a range that may span sectors, as merged or whole sector writes. -/
def colWriteGo (c : Column) (t a : Nat) : Nat → Nat → Nat → Column
  | 0, _, _ => c
  | fuel + 1, n, v =>
    if n = 0 then c
    else
      let k := min n (64 - a % 64)
      let c' := sectorWrite c t (a % 64 = 0 ∧ k = 64) a k (v % 2 ^ (8 * k))
      colWriteGo c' t (a + k) fuel (n - k) (v / 2 ^ (8 * k))

/-- Writes `n` bytes of `v` at `a` at TIME t. -/
def colWrite (c : Column) (t a n v : Nat) : Column := colWriteGo c t a (n / 64 + 2) n v

/-! ## Energy (R299–R301) -/

/-- Adds to a 48-bit counter with saturation (R51, R301). -/
def ctrAdd (x : Ctr) (n : Nat) : Ctr :=
  if x.count.toNat + n < 2 ^ 48 then { x with count := BitVec.ofNat 48 (x.count.toNat + n) }
  else ⟨BitVec.allOnes 48, true⟩

/-- Column bytes of a core tagged for a context (R300): registers of its groups and its allocations. -/
def tagCtx (grpCtx : Nat → Option (BitVec 8)) (t : Tag) : Option (BitVec 8) :=
  match t with
  | .free => none
  | .reg g => grpCtx g
  | .alloc c _ _ => some c

/-- The context that owns a register tag. -/
def regCtx (s : State) (core : Nat) (slot : Nat) : Option (BitVec 8) := (getGroup s core slot).map (·.ctx)

/-- The number of granules of a context on a core. -/
def granulesOf (s : State) (core : Nat) (ctx : Nat) : Nat :=
  (getCore s core).col.tags.countP fun e => decide ((tagCtx (regCtx s core) e.2).map BitVec.toNat = some ctx)

/-- Charges a context on a core. -/
def charge (s : State) (core ctx n : Nat) : State :=
  let k := getCore s core
  setCore s core { k with energy := mput k.energy ctx (ctrAdd (mget {} k.energy ctx) n) }

/-- A field of EWT (R298): 0 INT, 1 F32, 2 F64, 3 KSTEP, 4 COL, 5 GLB, 6 ENG. -/
def ewt (s : State) (core i : Nat) : Nat := bits (getDie s (dieOf core)).ewt.toNat (8 * i + 7) (8 * i)

/-- The energy-table entry of a core for a context, or none with ENTAB = 0 (R301). -/
def energyEntry (s : State) (core ctx : Nat) : Option Nat :=
  let b := bits (ctxBlock s (dieOf core) ctx).entab.toNat 51 12
  if b = 0 then none else some (b * 4096 + 8 * core)

/-- Loads the counter when a context's first granule on a core is tagged (R301); a table in a hole is refused (R43). -/
def energyLoad (s : State) (core ctx : Nat) : State :=
  let load := fun (s : State) (x : Ctr) =>
    let k := getCore s core
    setCore s core { k with energy := mput k.energy ctx x }
  match energyEntry s core ctx with
  | none => load s {}
  | some a =>
    let w := memRead s.mem a 8
    if physOk s a 8 then load s ⟨BitVec.ofNat 48 w, bits w 48 48 == 1⟩
    else load (refused s ctx 0 (locStrand core 0 0) a) {}

/-- Saves the counter when the last granule is freed (R301). -/
def energySave (s : State) (core ctx : Nat) : State :=
  let k := getCore s core
  let x := mget {} k.energy ctx
  let s := setCore s core { k with energy := mdel k.energy ctx }
  match energyEntry s core ctx with
  | none => s
  | some a =>
    if physOk s a 8 then storeMem s a 8 (x.count.toNat + x.sat.toNat * 2 ^ 48) else refused s ctx 1 (locStrand core 0 0) a

/-! ## Tags, allocation and release (R99, R111–R114) -/

/-- Sets the tags of a run of granules. -/
def setTags (m : AMap Tag) (g : Nat) : Nat → Tag → AMap Tag
  | 0, _ => m
  | n + 1, t => setTags (mset .free m g t) (g + 1) n t

/-- `n` consecutive granules from `g` are free. -/
def runFree (m : AMap Tag) (g n : Nat) : Bool := !m.any fun e => decide (g ≤ e.1 ∧ e.1 < g + n)

/-- Candidate starts of a run: the given floor and the granule after each tagged one. -/
def runStarts (m : AMap Tag) (lo : Nat) : List Nat := lo :: (m.filter fun e => decide (lo ≤ e.1)).map fun e => e.1 + 1

/-- The lowest run of `n` free granules at or above `lo` (R111, R268). -/
def lowestRun (m : AMap Tag) (lo n : Nat) : Option Nat :=
  (runStarts m lo).find? fun g => decide (g + n ≤ colGranules) && runFree m g n

/-- Tags a run for a context on a core, loading its energy counter with the first granule. -/
def tagRun (s : State) (core g n : Nat) (t : Tag) (ctx : Nat) : State :=
  let s := if granulesOf s core ctx = 0 ∧ n ≠ 0 then energyLoad s core ctx else s
  let k := getCore s core
  setCore s core { k with col := { k.col with tags := setTags k.col.tags g n t } }

/-- Frees a run, saving the context's counter with its last granule. -/
def freeRun (s : State) (core g n ctx : Nat) : State :=
  let had := granulesOf s core ctx
  let k := getCore s core
  let s' := setCore s core { k with col := { k.col with tags := setTags k.col.tags g n .free } }
  if had ≠ 0 ∧ granulesOf s' core ctx = 0 then energySave s' core ctx else s'

/-- Makes an allocation, or a piece of one (R108, R111, R114): tags, zeroed and stamped sectors. -/
def allocate (s : State) (core : Nat) (al : Alloc) : State :=
  let n := (al.size + 255) / 256
  let s := tagRun s core (al.base / 256) n (.alloc al.ctx al.team al.num) al.ctx.toNat
  let k := getCore s core
  let inR := fun a => decide (al.base ≤ a ∧ a < al.base + 256 * n)
  setCore s core { k with col := { k.col with
    allocs := { al with size := 256 * n } :: k.col.allocs
    bytes := mkeep (fun a => !inR a) k.col.bytes
    stamps := mkeep (fun x => !inR (64 * x)) k.col.stamps } }

/-- Releases an allocation or a piece of one (R112, R114): its granules become free. -/
def release (s : State) (core : Nat) (al : Alloc) : State :=
  let s := freeRun s core (al.base / 256) (al.size / 256) al.ctx.toNat
  let k := getCore s core
  setCore s core { k with col := { k.col with
    allocs := k.col.allocs.filter fun x => x.base != al.base
    bytes := clearBytes k.col.bytes al.base al.size
    stamps := mkeep (fun x => !decide (al.base ≤ 64 * x ∧ 64 * x < al.base + al.size)) k.col.stamps } }

/-- Two pieces belong to one allocation. -/
def sameAlloc (x y : Alloc) : Bool := x.team == y.team && x.num == y.num && x.root == y.root

/-- Releases an allocation wherever its pieces stand on a core. -/
def releaseAll (s : State) (core : Nat) (al : Alloc) : State :=
  ((getCore s core).col.allocs.filter (sameAlloc al)).foldl (fun s x => release s core x) s

/-! ## OSWAP (R118) -/

/-- Moves keys of two equal ranges of length `n` at `a` and `b` into each other. -/
def swapKeys {α : Type} (a b n : Nat) (m : AMap α) : AMap α :=
  m.foldl (fun r e =>
    let k := if a ≤ e.1 ∧ e.1 < a + n then e.1 - a + b else if b ≤ e.1 ∧ e.1 < b + n then e.1 - b + a else e.1
    mput r k e.2) []

/-- Adds a piece of an allocation, joined to those that it continues in the column and in the allocation. -/
def joinPiece : List Alloc → Alloc → List Alloc
  | [], p => [p]
  | q :: l, p =>
    if sameAlloc p q ∧ q.base + q.size = p.base ∧ q.off + q.size = p.off then
      joinPiece l { q with size := q.size + p.size }
    else if sameAlloc p q ∧ p.base + p.size = q.base ∧ p.off + p.size = q.off then
      joinPiece l { p with size := p.size + q.size }
    else q :: joinPiece l p

/-- The allocations after an exchange of two ranges of `n` bytes at `a` and `b`: an allocation that spans their borders is cut there, each
piece moves with its range, and pieces that meet again are one. -/
def swapAllocs (a b n : Nat) (l : List Alloc) : List Alloc :=
  let pieces := l.flatMap fun al =>
    let cut := fun (lo hi : Nat) (off : Int) =>
      let x := max al.base lo
      let y := min (al.base + al.size) hi
      if x < y then [{ al with base := ((x : Int) + off).toNat, size := y - x, off := al.off + (x - al.base) }] else ([] : List Alloc)
    let lo := min a b
    let hi := max a b
    cut 0 lo 0 ++ cut lo (lo + n) ((hi : Int) - lo) ++ cut (lo + n) hi 0 ++ cut hi (hi + n) ((lo : Int) - hi) ++
      cut (hi + n) colBytes 0
  pieces.foldl joinPiece []

/-- The exchange of two 64 KiB pages: contents, stamps, owner tags, and the remap entries (R116, R118). The exchange stands from its start
on, and what must wait for its end waits (log entry 19, DEDUCED). -/
def swapPages (c : Column) (pa pb : Nat) : Column :=
  let a := 65536 * pa
  let b := 65536 * pb
  { c with
    bytes := swapKeys a b 65536 c.bytes
    tags := swapKeys (a / 256) (b / 256) 256 c.tags
    stamps := swapKeys (a / 64) (b / 64) 1024 c.stamps
    allocs := swapAllocs a b 65536 c.allocs
    remap := mput (mput c.remap pa (mget pb c.remap pb)) pb (mget pa c.remap pa)
    busy := some (pa, pb) }

/-- Ends an exchange in progress: an access to a busy page waits for it, a fixed-latency stall (R118). -/
def settle (s : State) (core : Nat) : State :=
  let k := getCore s core
  match k.col.busy with
  | none => s
  | some _ => setCore s core { k with col := { k.col with busy := none } }

end Sys2Proof.Machine
end

