-- ==== Sys2Proof/Machine/Ops.lean ====
section
/-! DEFINITION. Shared operations: the end of a run (R32, R271), region starts (R125, R274), parking and stopping (R284), taking a trap
and the return from one (R275, R278), releases and acquires (R230–R239), and results in flight (R131). -/

namespace Sys2Proof.Machine

/-! ## Runs, regions, parking (R32, R125, R271, R284) -/

/-- The record of a region start (R125, R274); stores made before it are no longer young (R238). -/
def regionAt (t : Strand) : Strand :=
  { t with
    region := ⟨t.pc, t.mask, t.fmt, t.fx, t.lapse, t.cause, t.epc, t.value, t.fpc, t.hnd⟩
    slog := t.slog.map fun x => { x with young := false } }

/-- A run uses up its occupancy of the team's budget (R269). -/
def useBudget (s : State) (c : Ctx) : State :=
  match getTeam s c.g.team with
  | some t =>
    match t.left with
    | some n =>
      let t := { t with left := some (n - c.st.occ), budgetStop := t.budgetStop || decide (n ≤ c.st.occ) }
      { s with teams := mput s.teams c.g.team t }
    | none => s
  | none => s

/-- The scoreboard of a strand between runs: its units stay with the port (R168), and no latch position is filled (R32). -/
def restedSb (sb : AMap Nat) : AMap Nat := mkeep (fun k => decide (k < 227)) sb

/-- A port after a run of a context (R129, R168, R271): its counter has taken the occupancy, it may arbitrate from the cycle after the
last issue on, and it keeps the times of its units. -/
def portAfter (q : Port) (ctx : Nat) (t : Strand) : Port :=
  { q with
    dc := mput q.dc ctx (max (mget 0 q.dc ctx - (t.occ : Int)) (-32768))
    at_ := max q.at_ t.cyc, fp64 := mget 0 t.sb 227, sfu := mget 0 t.sb 228 }

/-- The end of a strand's run: the port's counter and the team's budget take its occupancy (R269, R271); no latch
position stays filled (R32). -/
def endRun (s : State) (c : Ctx) : State × Ctx :=
  let s := match c.st.status with
    | .running p =>
      let k := getCore s c.core
      useBudget (setCore s c.core { k with ports := mput k.ports p (portAfter (mget {} k.ports p) c.g.ctx.toNat c.st) }) c
    | _ => s
  ({ s with cur := none }, { c with st := { c.st with cnt := 0, lat := [], occ := 0, sb := restedSb c.st.sb, status := .ready } })

/-- Parks a strand (R241, R131): its run ends and it gives up its slot. -/
def parkWith (s : State) (c : Ctx) (w : Wait) : State :=
  let (s, c) := endRun s c
  putCtx s { c with st := { c.st with status := .parked w, slot := false } }

/-- Parks before the instruction issues: it will be issued again from its address (R131). -/
def parkRetry (s : State) (c : Ctx) (b : Block) : State :=
  parkWith s { c with st := { c.st with pc := c.pc0 } } (.retry b)

/-- Stop (R275, R284): the strand stops, gives up its slot, and one record is posted. -/
def stopStrand (s : State) (c : Ctx) (cause sub : Nat) (value epc : Dword) (code flags addr : Nat)
    (log : Option Nat) : State :=
  let (s, c) := endRun s c
  let t := { c.st with
    cause := BitVec.ofNat 32 (cause + 256 * sub), epc := epc, value := value
    status := .stopped cause log, slot := false }
  post (putCtx s { c with st := t }) (.strand c.core c.slot c.st.sid) code 0 c.g.ctx.toNat flags
    (locStrand c.core c.slot (log.getD 0)) addr t.fpc.toNat

/-- A terminal fault of R63: the strand stops at the instruction (cause 16). -/
def terminalFault (s : State) (c : Ctx) (code flags : Nat) (addr : Dword) : State :=
  let c := { c with st := { c.st with pc := c.pc0, fpc := c.pc0 } }
  stopStrand s c 16 code addr c.pc0 code flags addr.toNat none

/-! ## Taking a trap and returning (R275, R278) -/

/-- Delivery once the handler's address is known (R275). -/
def enterHandler (s : State) (c : Ctx) (cause sub : Nat) (value epc e : Dword) : State :=
  let (s, c) := endRun s c
  let t := { c.st with
    cause := BitVec.ofNat 32 (cause + 256 * sub), epc := epc, value := value, hnd := true, pc := e }
  putCtx s { c with st := regionAt t }

/-- Takes a trap of cause 1–13 (R275): FPC is the address of the instruction; a trap in a handler stops the strand; then the trap table
is read, directly: a retryable code delays the delivery, a terminal one stops the strand, and so does an unhandled trap. -/
def takeTrap (s : State) (c : Ctx) (cause sub : Nat) (value epc : Dword) : State :=
  let c := { c with st := { c.st with pc := c.pc0, fpc := c.pc0 } }
  if c.st.hnd then stopStrand s c 19 cause value c.pc0 0x47 0 0 none
  else
    let tt := (ctxBlock s (dieOf c.core) c.g.ctx.toNat).ttbase.toNat
    let va := bits tt 56 8 * 256 + 8 * cause
    match translate s c.core (dieOf c.core) c.g.ctx.toNat (.load 8) 8 va false with
    | (.ok pa _ _, s) =>
      match errReadMem s pa 8 c.core c.g.ctx.toNat with
      | (true, s) => stopStrand s c 16 0x50 (BitVec.ofNat 64 va) c.pc0 0x50 0 va none
      | (false, s) =>
        let e := memRead s.mem pa 8
        if tt % 2 = 0 ∨ e = 0 then stopStrand s c 20 cause value c.pc0 0x46 0 0 none
        else enterHandler s c cause sub value epc (BitVec.ofNat 64 e)
    | (.code code, s) =>
      if code = 0x10 ∨ code = 0x11 ∨ code = 0x12 then
        parkWith (post s (.strand c.core c.slot c.st.sid) 0x10 0 c.g.ctx.toNat 2 (locStrand c.core c.slot 0) va c.pc0.toNat) c
          (.delivery cause sub value epc (BitVec.ofNat 64 va) false)
      else stopStrand s c 16 code (BitVec.ofNat 64 va) c.pc0 code 0 va none

/-- A trap with VALUE the first word and EPC the instruction (R40, R273). -/
def trapWord (s : State) (c : Ctx) (cause sub : Nat) (w : Word) : State :=
  takeTrap s c cause sub (w.setWidth 64) c.pc0

/-- RTE (R278), once HND is known to be 1: the strand goes on at `to` with HND = 0, and a region starts there. -/
def returnTo (c : Ctx) (dst : Dword) : Ctx := { c with st := regionAt { c.st with pc := dst, hnd := false } }

/-! ## Releases and acquires (R230–R239) -/

/-- The owner tag carried for a team agrees with a die's copy of its cluster's owner register (R295). -/
def ownerOk (s : State) (die cluster part gen : Nat) : Bool :=
  let w := mget {} (getDie s die).cown cluster
  w.part.toNat == part && w.gen.toNat == gen

/-- The owner tag of a team. -/
def teamTag (s : State) (team : Nat) : Nat × Nat := match getTeam s team with | some t => (t.part, t.gen) | none => (0, 0)

/-- A store is accepted at its target: its owner tag agrees there (R295), and its domain has the selector under which it was routed (R47). -/
def storeOk (core : Nat) (tag : Nat × Nat) (s : State) (x : SStore) (pa : Nat) : Bool :=
  ownerOk s (homeDie pa) (clusterOf core) tag.1 tag.2 && selectorAt s pa == x.sel

/-- Performs one store of a store log at memory, or drops it under R295; a store that was routed under a selector which its domain no
longer has is refused (R47, log entry 46, DEDUCED). -/
def performStore (core : Nat) (ctx : Nat) (tag : Nat × Nat) (s : State) (x : SStore) : State :=
  match x.pa with
  | none => s
  | some pa =>
    if storeOk core tag s x pa then storeMem s pa x.size x.val
    else if ownerOk s (homeDie pa) (clusterOf core) tag.1 tag.2 then post s .device 8 0 ctx 1 (locStrand core 0 0) x.va 0
    else post s .device 0x44 0 ctx 1 (locStrand core 0 0) pa 0

/-- Takes stores out of every log of a group (R242). -/
def dropStores (g : Group) (ids : List Nat) : Group :=
  let f := fun (l : List SStore) => l.filter fun x => !ids.contains x.id
  { g with
    strands := g.strands.map fun t => { t with slog := f t.slog }
    join := g.join.map fun e => { e with slog := f e.slog }
    left := f g.left }

/-- Performs a list of stores of a group at memory, line by line of the log, and takes them out of its logs; what they wrote joins the
writes that their party sees. -/
def flush (s : State) (g : Group) (l : List SStore) (w : Seen) : State × Group × Seen :=
  let tag := teamTag s g.team
  let l := l.filter fun x => x.pa.isSome
  let s1 := countLines s g.ctx.toNat true (l.filterMap fun x => x.pa.filter fun pa => storeOk g.core tag s x pa)
  let s2 := l.foldl (performStore g.core g.ctx.toNat tag) s1
  (s2, dropStores g (l.map (·.id)), seenJoin w (seenSince s2 s.hist.length))

/-- Records what a strand sees. -/
def setVis (g : Group) (sid : Nat) (w : Seen) : Group :=
  { g with strands := g.strands.map fun t => if t.sid = sid then { t with vis := w } else t }

/-- A release of a strand at a scope (R230–R232): its unreleased stores are performed, and these and every write that it sees are published
in the scope's domain. -/
def doRelease (s : State) (g : Group) (sid scope : Nat) : State × Group :=
  match findStrand g sid with
  | none => (s, g)
  | some t =>
    let (s, g, w) := flush s g t.slog t.vis
    (publishIn s (domainsOf g.core g.team g.idx scope) w, setVis g sid w)

/-- A release by the strand at work. -/
def releaseCtx (s : State) (c : Ctx) (scope : Nat) : State × Ctx :=
  let (s, g) := doRelease s (setStrand c.g c.st) c.st.sid scope
  (s, { c with g := g, st := (findStrand g c.st.sid).getD { c.st with slog := [] } })

/-- An acquire of a strand of a group at a scope (R231, R233): it sees what has been published in the scope's domain, and the new phase reads a
snapshot that is no older than that, nor than the last, and may be as new as memory (log entry 5). -/
def acquireSt (s : State) (g : Group) (scope : Nat) (t : Strand) : State × Strand :=
  let w := seenIn s (domainsOf g.core g.team g.idx scope) t.vis
  let n := max t.sigma (s.hist.length - Config.snapshotAge s.ageCtr)
  ({ s with ageCtr := s.ageCtr + 1 },
    { t with snap := snapshot s n w, snapNo := s.ageCtr + 1, own := [], sigma := n, vis := w })

/-- A strand's view of a byte (R233): its own latest write of the phase, else the snapshot. -/
def viewByte (t : Strand) (a : Nat) : Byte :=
  match mfind t.own a with
  | some v => v
  | none => memByte t.snap a

/-- A strand's view of `n` bytes. -/
def viewRead (t : Strand) (a n : Nat) : Nat := readLE (viewByte t) a n

/-- Records an own write of the phase. -/
def ownWrite (t : Strand) (a : Nat) : Nat → Nat → Strand
  | 0, _ => t
  | n + 1, v => ownWrite { t with own := mput t.own a (BitVec.ofNat 8 v) } (a + 1) n (v / 256)

/-! ## Results in flight (R131) -/

/-- A pending result stands in the way of registers named by a strand of a mask. -/
def pendHits (p : Pend) (mask : Dword) (vregs kregs : List Nat) (q7 : Bool) : Bool :=
  (p.lanes &&& mask != 0) &&
    (p.vregs.any vregs.contains || p.kregs.any kregs.contains || (q7 && p.q7))

/-- Adds a pending result. -/
def addPend (g : Group) (p : Pend) : Group := { g with pend := g.pend ++ [p], nextId := g.nextId + 1 }

/-- Fills a pending result with its values. -/
def fillPend (g : Group) (id : Nat) (vw : List (Nat × Nat × Word)) (kw : List (Nat × Word)) (qw : Option Bool) : Group :=
  { g with pend := g.pend.map fun p => if p.id = id then { p with filled := true, vw := vw, kw := kw, qw := qw } else p }

/-- Marks a pending result as lost to an uncorrectable error: array kind and log entry (R303). -/
def badPend (g : Group) (id kind idx : Nat) : Group :=
  { g with pend := g.pend.map fun p => if p.id = id then { p with bad := some (kind, idx) } else p }

/-- Writes the values of a result to the group. -/
def applyPend (g : Group) (p : Pend) : Group :=
  let g := p.vw.foldl (fun g w => if p.lanes.getLsbD w.1 then writeV g w.1 w.2.1 w.2.2 else g) g
  let g := p.kw.foldl (fun g w => writeK g w.1 w.2) g
  match p.qw with
  | some b => writeQ g 7 b
  | none => g

/-! ## What a blocked instruction waits for -/

/-- The lanes at which a TREE operation is still at work. -/
def MemOp.lanes : MemOp → Dword
  | .tree _ _ _ _ ls _ _ => maskOf ((ls.filter fun l => !l.done).map fun l => l.lane)
  | _ => 0

/-- Operand-log entries of a strand. -/
def logOf (k : Core) (slot sid : Nat) : List LogEntry := k.olog.filter fun e => e.grp == slot && e.sid == sid

/-- Matrix operations of a strand that have not completed: those of its group whose lanes it holds. -/
def mopsOf (k : Core) (slot : Nat) (mask : Dword) : Nat := k.mq.countP fun m => m.grp == slot && m.mask &&& mask != 0

/-- A matrix operation of a strand's lanes that was lost to an uncorrectable error (R303). -/
def lostMop (g : Group) (mask : Dword) : Option (Dword × Dword × Nat) := g.mbad.find? fun x => x.1 &&& mask != 0

/-- Everything that a strand has issued has completed its effects (R40): no operation, result, log entry or matrix operation is left. -/
def settled (s : State) (g : Group) (t : Strand) : Bool :=
  let k := getCore s g.core
  !(g.ops.any fun x => x.sid == t.sid || x.op.lanes &&& t.mask != 0) && !(g.pend.any fun p => p.lanes &&& t.mask != 0) &&
    (logOf k g.slot t.sid).isEmpty && mopsOf k g.slot t.mask == 0

/-- The wait of MFENCE, which has begun (R269): for matrix operations alone. -/
def Block.fence (b : Block) : Bool := b.mmDone && !b.logEmpty && !b.cmdDone

/-- A command of a team that has not ended, on the walkers of a cluster. -/
def teamBusy (s : State) (cluster team : Nat) : Bool :=
  (List.range 4).any fun i =>
    let w := getWalker s (4 * cluster + i)
    w.pendq.any (fun x => x.team == team) || w.slots.any fun e => e.2.cmd.team == team && e.2.phase != .ended

/-- What a blocked instruction waits for has come about. -/
def unblocked (s : State) (g : Group) (t : Strand) (b : Block) : Bool :=
  let k := getCore s g.core
  let mine := logOf k g.slot t.sid
  !(g.pend.any fun p => pendHits p t.mask b.vregs b.kregs b.q7) &&
    (!b.logEmpty || mine.isEmpty) && (!b.logRoom || (mine.length < 4 && k.olog.length < 256)) &&
    (!b.mqRoom || k.mq.length < 16) && (!b.mmDone || (mopsOf k g.slot t.mask == 0 && (lostMop g t.mask).isNone)) &&
    (!b.cmdDone || !teamBusy s (clusterOf g.core) g.team) &&
    (b.tileRoom == 0 || match getTeam s g.team with
      | some tm => decide ((getFe s tm.fe).tiles.length + b.tileRoom ≤ Config.tileRoom)
      | none => true)

end Sys2Proof.Machine
end

