-- ==== Sys2Proof/Machine/Issue.lean ====
section
/-! DEFINITION. The issue of an encoded instruction: the checks of R39, the waits before issue (R74, R131), its cycles (R129,
R130, R168), its charge (R299), and what follows its own execution. -/

namespace Sys2Proof.Machine

/-! ## Registers that an instruction reads and writes (R130, R131) -/

/-- Scoreboard keys read and written, and the latency λ. Key v r is r, k i is 128 + i, p n is 200 + n, q n is 216 + n;
224 is FMT, 225 FX, 226 the column, 227 and 228 the FP64 and special-function units, 256 + n latch position n. -/
structure Keys where
  r : List Nat := []
  w : List Nat := []
  lam : Nat := 2
  deriving DecidableEq, Repr

def kKey (i : Nat) : Nat := 128 + i
def jKeys (i : Nat) : List Nat := [128 + i, 129 + i]
def pKey (n : Nat) : Nat := 200 + n
def qKey (n : Nat) : Nat := 216 + n

/-- Registers of a source code in a slot. -/
def srcKeys (lat : List Latch) (k : SK) (c : Nat) : List Nat :=
  if k = .none then []
  else if c < 96 then
    match k with
    | .n => [c]
    | .q => [c, c + 1, c + 2, c + 3]
    | _ => [c, c + 1]
  else if c < 112 then (if k = .n ∨ k = .iv then [kKey (c - 96)] else jKeys (c - 96))
  else if 115 ≤ c ∧ c ≤ 118 then [256 + (lat.length - (c - 114))]
  else []

/-- Registers of a destination code. -/
def dstKeys (k : SK) (c : Nat) : List Nat := if c < 96 then srcKeys [] k c else []

/-- λ of a lane opcode (R130, R168, R163). -/
def laneLam (op low : Nat) : Nat :=
  if op = 0x5C ∨ op = 0x5E ∨ op = 0x5F then 6
  else if op = 0x5D then 12
  else if 0x31 ≤ op ∧ op ≤ 0x37 ∨ op = 0x3A ∨ op = 0x46 ∨ op = 0x47 then 16
  else if 0x40 ≤ op ∧ op ≤ 0x4B then 6
  else if 0x28 ≤ op ∧ op ≤ 0x3E ∨ 0x4C ≤ op ∧ op ≤ 0x53 then 4
  else if op = 0x54 then (if cvtF64 low then 6 else 4)
  else if 0x55 ≤ op ∧ op ≤ 0x57 then 8
  else if 0x68 ≤ op ∧ op ≤ 0x6F then 8
  else 2

/-- Registers of a lane word. -/
def laneKeys (t : Strand) (w : Word) : Keys :=
  let op := wOp w
  let s := slotsOf t.fmt op (wLb w)
  let d := wLd w
  let guard := if wG w ≠ 0 then [pKey (wG w)] else []
  let dr := match s.use with
    | .read => srcKeys t.lat s.d d
    | .both => srcKeys t.lat s.d d
    | _ => []
  let dw := match s.use with
    | .write => dstKeys s.d d
    | .both => dstKeys s.d d
    | _ => []
  let carry := if op = 0x1C ∨ op = 0x1D then [pKey 7] else []
  let preds := if op = 0x60 then [pKey (wLa w), pKey (wLb w)] else if op = 0x61 then [pKey (wLa w)] else []
  let pd := if isLP op then [pKey (wPd w)] else []
  let col := if 0x68 ≤ op ∧ op ≤ 0x6F then [226] else []
  ⟨224 :: guard ++ dr ++ srcKeys t.lat s.a (wLa w) ++ srcKeys t.lat s.b (wLb w) ++ carry ++ preds ++ col,
    dw ++ carry ++ pd ++ [256 + t.lat.length], laneLam op (wLb w)⟩

/-- The scale record of a matrix operand is read (R189). -/
def needsScale (fmt : Word) (lo : Nat) : Bool :=
  (fmt.extractLsb' 14 2 == 0) && decide (4 ≤ (fmt.extractLsb' lo 3).toNat)

/-- Uniform registers of a tile record and, where it is read, its scale record (R188). -/
def tileKeys (a : Nat) (scale : Bool) : List Nat := (List.range (if scale then 8 else 4)).map fun i => kKey (a + i)

/-- Whether a core reads its A record and its B record in a matrix word (R195, R199, R200). -/
def readsA (op core : Nat) : Bool := op != 0x22 || core % 4 == 0
def readsB (op core : Nat) : Bool := op == 0x20 || (op == 0x21 && core % 2 == 0) || (op == 0x22 && decide (core % 16 < 4))

/-- Registers of a group word. -/
def groupKeys (core : Nat) (t : Strand) (w : Word) : Keys :=
  let d := wGd w
  let a := wGa w
  let b := wGb w
  let x := wGx w
  let kd := kKey d
  let ka := kKey a
  let kb := kKey b
  let three : Keys := ⟨[ka, kb], [kd], 2⟩
  let q7 := qKey 7
  let m : Keys := match wOp w with
    | 0x01 => if x = 0 then ⟨[ka], [kd], 2⟩ else ⟨jKeys a, jKeys d, 2⟩
    | 0x02 => ⟨[], [kd], 2⟩
    | 0x03 => ⟨[kd], [kd], 2⟩
    | 0x04 => if x = 0 then three else ⟨jKeys a ++ jKeys b, jKeys d, 2⟩
    | 0x05 => if x = 0 then three else ⟨jKeys a ++ jKeys b, jKeys d, 2⟩
    | 0x06 => three
    | 0x07 => three
    | 0x08 => three
    | 0x09 => three
    | 0x0A => if x = 0 then three else ⟨kb :: jKeys a, jKeys d, 2⟩
    | 0x0B => if x = 0 then three else ⟨kb :: jKeys a, jKeys d, 2⟩
    | 0x0C => three
    | 0x0D => if x < 32 then ⟨[ka, kb], [qKey d], 2⟩ else ⟨jKeys a ++ jKeys b, [qKey d], 2⟩
    | 0x0E => ⟨[ka, kb, qKey (x % 8)], [kd], 2⟩
    | 0x0F => ⟨[ka], [kd], 2⟩
    | 0x10 => ⟨[pKey a], [qKey d], 2⟩
    | 0x11 => ⟨[pKey a], jKeys d, 2⟩
    | 0x12 => ⟨[ka, x], [kd, q7], 2⟩
    | 0x13 =>
      ⟨if x = 20 ∨ x = 21 then [225] else [], if x = 13 ∨ x = 14 ∨ 17 ≤ x ∧ x ≤ 19 then jKeys d else [kd], 2⟩
    | 0x14 => ⟨if wSel w = 0 then [] else if wSel w < 8 then [qKey (wSel w)] else [pKey (wSel w - 7)], [], 2⟩
    | 0x15 => ⟨[pKey (wSel w - 7)], [], 2⟩
    | 0x16 => ⟨[a], [], 2⟩
    | 0x17 => ⟨if wSel w = 0 then [] else [qKey (wSel w)], [], 2⟩
    | 0x18 => ⟨[a], [], 2⟩
    | 0x1E => if x = 0 then ⟨[ka], [224], 2⟩ else ⟨jKeys a, [], 2⟩
    | 0x1F => if x = 0 then ⟨[], [kd], 2⟩ else ⟨[], jKeys d, 2⟩
    | 0x23 => ⟨[kd, ka], [], 2⟩
    | 0x24 => ⟨kd :: tileKeys a false, [], 2⟩
    | 0x25 => ⟨kd :: tileKeys a false, [], 2⟩
    | 0x27 => ⟨[ka, x], [], 2⟩
    | 0x28 => ⟨[ka, 226], [kd, q7], 8⟩
    | 0x29 => ⟨[ka, 226], [kd, q7], 8⟩
    | 0x2A => ⟨[ka, 226], [kd, q7], 8⟩
    | 0x2B => ⟨jKeys a, [kd, q7], 8⟩
    | 0x2C => ⟨[ka, kb], [kd, q7], 8⟩
    | 0x2D => ⟨[ka], [kd, q7], 8⟩
    | 0x2E => ⟨kb :: jKeys a, [], 2⟩
    | 0x2F => ⟨jKeys a ++ jKeys b ++ (if x % 16 ≥ 8 then [kd] else []), if x % 16 ≥ 8 then [q7] else [], 2⟩
    | 0x30 => ⟨jKeys a, q7 :: (if x = 0 ∨ x = 2 then jKeys d else [kd]), 2⟩
    | 0x37 => ⟨[ka, kb], [kd, q7], 8⟩
    | 0x38 => ⟨[ka], [q7], 8⟩
    | 0x39 => ⟨[ka, kb, 226], [q7], 8⟩
    | 0x3A => ⟨jKeys a, [kd, q7], 8⟩
    | 0x3B => ⟨[ka, kb, 226], [kd, q7], 8⟩
    | 0x3C =>
      match x with
      | 0 => ⟨[a, a + 1, b, b + 1, 226], [d, d + 1], 2⟩
      | 1 => ⟨[a, a + 1, b, b + 1, d, 226], [d], 2⟩
      | 2 => ⟨[a, a + 1, b, b + 1, d, 226], [], 2⟩
      | 3 => ⟨[a, a + 1, b], [d, d + 1], 2⟩
      | 4 => ⟨[a, a + 1, b], [d], 2⟩
      | _ => ⟨[a, a + 1, b, 226], [d], 2⟩
    | 0x3D => if x = 2 then ⟨(List.range 7).map fun n => pKey (n + 1), [d], 2⟩ else ⟨[a], [], 2⟩
    | 0x3F =>
      match x with
      | 1 => ⟨if d = 0 then [] else jKeys a, [], 2⟩
      | 3 => ⟨[], if a = 0 ∨ a = 4 ∨ a = 5 then [kd] else jKeys d, 2⟩
      | 4 => ⟨if a = 0 then [kb] else jKeys b, [], 2⟩
      | 5 => ⟨[ka], [], 2⟩
      | 6 => ⟨kb :: jKeys a, [], 2⟩
      | 7 => ⟨[ka, kb, 226], [q7], 8⟩
      | 8 => ⟨[ka, kb], [q7], 8⟩
      | 9 => ⟨[ka], [kd, q7], 8⟩
      | _ => {}
    | op =>
      if 0x20 ≤ op ∧ op ≤ 0x22 then
        ⟨kd :: (if readsA op core then tileKeys a (needsScale t.fmt 8) else []) ++
          (if readsB op core then tileKeys b (needsScale t.fmt 11) else []), [], 2⟩
      else {}
  { m with r := 224 :: m.r }

/-- Registers of a first word. -/
def keysOf (c : Ctx) (w : Word) : Keys := if w.getLsbD 31 then groupKeys c.core c.st w else laneKeys c.st w

/-! ## The cycles of an instruction -/

/-- Octets of slices that a mask touches (R129). -/
def octets (mask : Dword) : Nat :=
  (if mask.extractLsb' 0 32 = 0 then 0 else 1) + (if mask.extractLsb' 32 32 = 0 then 0 else 1)

/-- The unit of a lane opcode and its occupancy in cycles for each octet (R168). -/
def unitOf (op : Nat) : Option (Nat × Nat) :=
  if 0x40 ≤ op ∧ op ≤ 0x45 ∨ op = 0x48 ∨ op = 0x49 then some (227, 2)
  else if 0x31 ≤ op ∧ op ≤ 0x37 ∨ op = 0x3A then some (228, 4)
  else if op = 0x46 ∨ op = 0x47 then some (228, 8)
  else none

/-- Lane opcodes that can raise a flag (R128, R169): not FABS, FNEG, FCLASS, FCPSGN, DABS, DNEG, DOT4S and DOT4U (R167, R174, R181). -/
def raisesFlag (op : Nat) : Bool :=
  (decide (0x28 ≤ op ∧ op ≤ 0x57) || op == 0x5D) && !([0x2E, 0x2F, 0x3B, 0x3D, 0x4A, 0x4B, 0x51, 0x52] : List Nat).contains op

/-- The unit that a word needs, with its occupancy (R168). -/
def unitFor (w : Word) : Option (Nat × Nat) := if w.getLsbD 31 then none else unitOf (wOp w)

/-- The first issue cycle of a word: not before the strand is free, its sources are ready, its destinations are but one cycle from it,
and its unit is free (R129, R130, R168). -/
def issueCycle (c : Ctx) (w : Word) : Nat :=
  let k := keysOf c w
  let rdy := fun x => mget 0 c.st.sb x
  let t0 := k.r.foldl (fun m x => max m (rdy x)) (max c.st.cyc c.st.due)
  let t0 := k.w.foldl (fun m x => max m (rdy x - 1)) t0
  match unitFor w with | some (x, _) => max t0 (rdy x) | none => t0

/-- The cycles that a word issues in: one for each octet that a lane word touches, and one for a group word (R129). -/
def issueCost (c : Ctx) (w : Word) : Nat := if w.getLsbD 31 then 1 else max 1 (octets c.st.mask)

/-- The last issue cycle of a word. -/
def lastCycle (c : Ctx) (w : Word) : Nat := issueCycle c w + issueCost c w - 1

/-- The strand after the issue of a word: its results are ready λ cycles after the last issue cycle, its unit is occupied (R129, R130,
R168, log entry 7, DESIGN CHOICE). The run's occupancy counts from its first issue cycle (R271). -/
def schedule (c : Ctx) (w : Word) : Strand :=
  let t := c.st
  let k := keysOf c w
  let t0 := issueCycle c w
  let n := issueCost c w
  let sb := k.w.foldl (fun m x => mput m x (t0 + n - 1 + k.lam)) t.sb
  let sb := match unitFor w with | some (x, o) => mput sb x (t0 + o * octets t.mask) | none => sb
  let sb := if !w.getLsbD 31 ∧ raisesFlag (wOp w) then mput sb 225 (max (mget 0 t.sb 225) (t0 + n - 1 + k.lam)) else sb
  { t with cyc := t0 + n, occ := t.occ + (if t.cnt = 0 then n else t0 + n - t.cyc), sb := sb, cnt := t.cnt + 1 }

/-- Delays the strand's next instruction and its named results by `n` cycles within the run (R103). -/
def stall (t : Strand) (n : Nat) (ks : List Nat) : Strand :=
  { t with cyc := t.cyc + n, occ := t.occ + n, sb := ks.foldl (fun m x => mput m x (mget 0 m x + n)) t.sb }

/-- The port of a run. -/
def portOf (t : Strand) : Nat := match t.status with | .running p => p | _ => 0

/-- The cycle in which a word's writes of uniform registers and of the gather set take effect (R126, R190). -/
def landCycle (c : Ctx) (w : Word) : Nat := lastCycle c w + (keysOf c w).lam

/-! ## The checks of R39 -/

/-- The launch of a team. -/
def launchOf (s : State) (team : Nat) : Option Launch :=
  match getTeam s team with
  | some t => mfind (getFe s t.fe).slots t.lslot
  | none => none

/-- A byte field of a launch record (R257). -/
def lrec (l : Launch) (off n : Nat) : Nat := l.rcd.toNat / 2 ^ (8 * off) % 2 ^ (8 * n)

/-- FLAGS of a launch record: 0 COOP, 1 PAIR, 2 BOUNDS, 3 STREAM, 4 CLASS. -/
def lflag (l : Launch) (i : Nat) : Bool := lrec l 11 1 / 2 ^ i % 2 == 1

/-- A barrier of the last three scopes is legal in the launch (R223). -/
def barLegal (s : State) (c : Ctx) (scope line : Nat) : Bool :=
  if scope ≤ 2 then true
  else
    match launchOf s c.g.team with
    | none => false
    | some l => decide (line < lrec l 26 1) && (if scope = 3 then lrec l 24 2 != 0 else lflag l 0)

/-- A context's PRIV bit allows the privileged forms (R37). -/
def privOk (s : State) (c : Ctx) (w : Word) : Bool :=
  if w.getLsbD 31 ∧ wOp w = 0x3F ∧ (wGx w = 4 ∨ wGx w = 7 ∨ wGx w = 8 ∨ wGx w = 10) then
    ctxPriv s (dieOf c.core) c.g.ctx.toNat
  else true

/-- What FMT forbids at order 2 (R162, R170, R182, R195, R202). -/
def fmtOk (fmt : Word) (w : Word) : Bool :=
  let op := wOp w
  let low := wLb w
  if w.getLsbD 31 then
    if 0x20 ≤ op ∧ op ≤ 0x25 then !fmtB fmt && decide ((fmt.extractLsb' 14 2).toNat < 2) else true
  else
    let b := fmtB fmt && (decide (0x40 ≤ op ∧ op ≤ 0x50) || op == 0x53 || decide (0x55 ≤ op ∧ op ≤ 0x57) ||
      (op == 0x54 && low != 0 && low != 2))
    let f8 := op == 0x54 && (decide (32 ≤ low ∧ low ≤ 34) || low == 41 || low == 42) &&
      decide (2 ≤ (fmt.extractLsb' 4 2).toNat)
    !b && !f8

/-- Order 2 of R39 on what depends on the machine: fields that a core does not read (R199, R200), launch kinds (R223,
R332). -/
def placeOk (s : State) (c : Ctx) (w : Word) : Bool :=
  if w.getLsbD 31 then
    match wOp w with
    | 0x21 => c.core % 2 == 0 || wGb w == 0
    | 0x22 => (c.core % 4 == 0 || wGa w == 0) && (decide (c.core % 16 < 4) || wGb w == 0)
    | 0x31 => barLegal s c (wGx w) (wGd w)
    | 0x32 => barLegal s c (wGx w) (wGd w)
    | 0x33 => barLegal s c (wGx w) (wGd w)
    | 0x3D => c.g.bounds || wGx w == 2
    | _ => true
  else true

/-- The cause of the first check of R39 that fails, or none. -/
def issueTrap (s : State) (c : Ctx) (i : Instr) : Option Nat :=
  let w := firstWord i
  let t := c.st
  if !(rangeOk i && privOk s c w && fmtOk t.fmt w && placeOk s c w) then some 1
  else if !(if w.getLsbD 31 then groupOperandOk t.fmt c.g.nregs w else laneOperandOk t.fmt c.g.nregs w) then some 2
  else if !w.getLsbD 30 ∧ (mustE w ∨ 23 ≤ t.cnt) then some 3
  else if !w.getLsbD 31 ∧ !laneLatchOk t.fmt t.lat w then some 4
  else none

/-! ## Waits before issue -/

/-- A BRA with a p select. -/
def braP (w : Word) : Bool := decide (8 ≤ wSel w)

/-- Instructions that park until the strand's operand log is empty (R74, R86, R111, R112, R205, R212, R221, R230, R251,
R253, R259, R269, R270, R278, R332, R345, R372). -/
def waitsLog (w : Word) : Bool :=
  let op := wOp w
  let x := wGx w
  if w.getLsbD 31 then
    (op == 0x14 && braP w) || op == 0x15 || op == 0x16 || op == 0x18 || decide (0x1A ≤ op ∧ op ≤ 0x1D) ||
      (decide (0x20 ≤ op ∧ op ≤ 0x22) && !x.testBit 0) || decide (0x28 ≤ op ∧ op ≤ 0x2C) || op == 0x2E ||
      decide (0x31 ≤ op ∧ op ≤ 0x38) || op == 0x3A || op == 0x3B || op == 0x3C || (op == 0x3D && x != 2) ||
      (op == 0x3F && (x == 1 || x == 10))
  else decide (0x76 ≤ op)

/-- Instructions that make a global access and so need a place in the operand log (R74, R385). -/
def needsLog (w : Word) : Bool :=
  let op := wOp w
  if w.getLsbD 31 then op == 0x2E || op == 0x2F || op == 0x30 || op == 0x3C else decide (0x70 ≤ op)

/-- Instructions that wait for the strand's matrix operations: releases, MFENCE and OFREE (R112, R203, R204). -/
def waitsMatrix (w : Word) : Bool :=
  let op := wOp w
  w.getLsbD 31 && (op == 0x26 || op == 0x38 || decide (0x31 ≤ op ∧ op ≤ 0x32) || decide (0x34 ≤ op ∧ op ≤ 0x36) ||
    (op == 0x2E && decide (8 ≤ wGx w)))

/-- Open lanes in interval form that a branch on p n removes (R330). -/
def openLanes (g : Group) (mask : Dword) (n : Nat) : List Nat := (lanesOf mask).filter fun l => readOpen g l n

/-- A lane in point form: a lane with no tile counts as such, for it is never removed (R322, R331). -/
def pointForm (g : Group) (l : Nat) : Bool := match mfind g.tiles l with | some t => t.point | none => true

/-- How many tiles an instruction would remove (R330–R332). -/
def removes (c : Ctx) (w : Word) : Nat :=
  let iv := fun (l : List Nat) => (l.filter fun x => !pointForm c.g x).length
  if !w.getLsbD 31 then 0
  else
    match wOp w with
    | 0x14 => if braP w then iv (openLanes c.g c.st.mask (wSel w - 7)) else 0
    | 0x15 => iv (openLanes c.g c.st.mask (wSel w - 7))
    | 0x3D => if wGx w = 2 then 0 else iv ((lanesOf c.st.mask).filter fun l => readV c.g l (wGa w) != 0)
    | _ => 0

/-- What an instruction waits for before it issues. The wait of a matrix word for a place in the queue comes after its checks
(R191), in its own execution. -/
def blockOf (c : Ctx) (w : Word) : Block :=
  let k := keysOf c w
  let ks := k.r ++ k.w
  { vregs := ks.filter fun x => decide (x < 128)
    kregs := (ks.filter fun x => decide (128 ≤ x ∧ x < 192)).map (· - 128)
    q7 := ks.contains (qKey 7)
    logEmpty := waitsLog w
    logRoom := needsLog w
    mmDone := waitsMatrix w
    cmdDone := w.getLsbD 31 && wOp w == 0x38
    tileRoom := removes c w }

/-! ## The charge (R299) -/

/-- The class of a first word as its field of EWT, or none for the k-step words. -/
def classOf (w : Word) : Option Nat :=
  let op := wOp w
  if w.getLsbD 31 then
    if 0x20 ≤ op ∧ op ≤ 0x22 then none
    else if op = 0x39 then some 4
    else if op = 0x2E ∨ op = 0x2F ∨ op = 0x30 ∨ op = 0x3C then some 5
    else some 0
  else if 0x28 ≤ op ∧ op ≤ 0x3E ∨ 0x4C ≤ op ∧ op ≤ 0x50 ∨ op = 0x53 ∨ 0x55 ≤ op ∧ op ≤ 0x57 ∨ op = 0x5D then some 1
  else if 0x40 ≤ op ∧ op ≤ 0x4B then some 2
  else if op = 0x54 then some (if cvtF64 (wLb w) then 2 else 1)
  else if 0x68 ≤ op ∧ op ≤ 0x6F then some 4
  else if 0x70 ≤ op then some 5
  else some 0

/-- Charges an issued instruction to its context on its core, unless it has been charged at an earlier issue that did not complete. -/
def chargeInstr (s : State) (c : Ctx) (w : Word) : State :=
  match classOf w, c.st.paid with
  | some i, false => charge s c.core c.g.ctx.toNat (ewt s c.core i)
  | _, _ => s

/-! ## The frame of every encoded instruction -/

/-- How an instruction's own execution ends: it completes; it takes a precise trap having changed nothing (R8); it finds that
it must wait and has not issued; or the strand has been parked, stopped, ended or replaced and the state is complete. -/
inductive Done where
  | ok (s : State) (c : Ctx)
  | trap (cause sub : Nat) (value : Dword)
  | wait (b : Block)
  | gone (s : State)
  deriving DecidableEq, Repr

/-- After completion: E = 1 ends the run (R30). -/
def conclude (e : Bool) (s : State) (c : Ctx) : State :=
  if e then
    let (s, c) := endRun s c
    putCtx s c
  else putCtx s c

/-- The group as an instruction's issue cycle finds it (R126, R190). -/
def groupAt (c : Ctx) (i : Instr) : Group := uSettle c.g (lastCycle c (firstWord i))

/-- The group that an instruction leaves which writes no register: the writes that took effect before its issue cycle have been made, and
nothing else has happened. -/
def issued (c : Ctx) (i : Instr) : Group := { groupAt c i with uv := [], uw := [] }

/-- The strand of an instruction that issues: its cycles counted, PC at the next instruction. -/
def strandAt (c : Ctx) (i : Instr) : Strand :=
  { schedule c (firstWord i) with pc := c.pc0 + BitVec.ofNat 64 (instrLen i), paid := false }

/-- The context in which an instruction starts its own execution: it sees as well the writes that reach its strand in its issue cycle. -/
def begun (c : Ctx) (i : Instr) : Ctx :=
  { c with g := uView (groupAt c i) c.st.sb (lastCycle c (firstWord i)), st := strandAt c i }

/-- What an instruction has written of the uniform registers and the gather set is on its way (R126, R190). -/
def sent (c : Ctx) (i : Instr) (g : Group) : Group := uCommit (portOf c.st) c.st.sid (landCycle c (firstWord i)) g

/-- The same for the group of a strand whose instruction has ended otherwise. -/
def sentOn (c : Ctx) (i : Instr) (s : State) : State :=
  match getGroup s c.core c.slot with
  | some g => { s with groups := mput s.groups (gkey c.core c.slot) (sent c i g) }
  | none => s

/-- What follows an instruction's own execution: `s` and `c` are those before the issue. -/
def concluded (i : Instr) (s : State) (c : Ctx) (d : Done) : State :=
  match d with
  | .ok s k => conclude (eOf i) s { k with g := sent c i k.g }
  | .trap cause sub v =>
    takeTrap (chargeInstr s c (firstWord i)) { c with g := issued c i, st := strandAt c i } cause sub v c.pc0
  | .wait b => parkRetry s c b
  | .gone s => sentOn c i s

/-- An instruction past its checks and waits. -/
def performed (i : Instr) (body : State → Ctx → Done) (s : State) (c : Ctx) : State :=
  concluded i s c (body (chargeInstr s c (firstWord i)) (begun c i))

/-- A result lost to an uncorrectable error that stands in the way: array kind and log entry (R303). -/
def lostHit (c : Ctx) (b : Block) : Option (Nat × Nat) :=
  (c.g.pend.find? fun p => p.bad.isSome && pendHits p c.st.mask b.vregs b.kregs b.q7).bind (·.bad)

/-- An instruction that may not issue yet: its strand parks, or stops with cause 18 where a result or a matrix operation has
been lost (R303). -/
def held (s : State) (c : Ctx) (b : Block) : State :=
  match lostHit c b with
  | some (kind, idx) =>
    stopStrand s { c with st := { c.st with pc := c.pc0, fpc := c.pc0 } } 18 kind (BitVec.ofNat 64 idx) c.pc0 0x50 0 0 (some idx)
  | none =>
    match lostMop c.g c.st.mask with
    | some (m, pc, kind) =>
      if b.mmDone ∧ mopsOf (getCore s c.core) c.slot c.st.mask = 0 then
        let g := { c.g with mbad := c.g.mbad.filter fun x => x != (m, pc, kind) }
        stopStrand s { c with g := g, st := { c.st with pc := c.pc0, fpc := pc } } 18 kind 0 c.pc0 0x50 0 0 none
      else parkRetry s c b
    | none => parkRetry s c b

/-- An instruction that fails a check of R39 traps once everything issued before it has completed its effects (R40, log entry 47, DEDUCED). -/
def failed (s : State) (c : Ctx) (cause : Nat) (w : Word) : State :=
  if settled s c.g c.st then trapWord s c cause 0 w
  else parkWith s { c with st := { c.st with pc := c.pc0 } } (.settle cause w)

/-- The issue of an instruction by the strand at work. -/
def issue (i : Instr) (body : State → Ctx → Done) (s : State) (c : Ctx) : State :=
  match issueTrap s c i with
  | some cause => failed s c cause (firstWord i)
  | none =>
    let b := blockOf c (firstWord i)
    if unblocked s c.g c.st b then performed i body s c else held s c b

/-- The meaning of an encoded instruction from its own execution. -/
def runInstr (i : Instr) (body : State → Ctx → Done) (s : State) : Host.Outcome State Fault Refusal :=
  match curCtx s with
  | none => .fault .noStrand
  | some c => .next (issue i body s c)

/-- The conditions under which an instruction issues and performs its own execution: a strand at work, the checks of R39
passed, nothing to wait for. -/
def Ready (i : Instr) (s : State) (c : Ctx) : Prop :=
  curCtx s = some c ∧ issueTrap s c i = none ∧ unblocked s c.g c.st (blockOf c (firstWord i)) = true

end Sys2Proof.Machine
end

