-- ==== Sys2Proof/Machine/IntOps.lean ====
section
/-! DEFINITION. Integer and address arithmetic on lanes (R132, R139–R147), moves, predicates (R133) and NOP (R38): the shapes
once, and each instruction's meaning. -/

namespace Sys2Proof.Machine

/-! ## Shapes -/

/-- The results of a three-source narrow operation (a, b, old d) in the guard-true lanes. -/
def resN (c : Ctx) (f : LA) (op : Word → Word → Word → Word) : List (Nat × Nat) :=
  (guardLanes c f.g).map fun l =>
    (l, (op (BitVec.ofNat 32 (readSlot c .n f.a.toNat f.lit l)) (BitVec.ofNat 32 (readSlot c .n f.b.toNat f.lit l))
      (BitVec.ofNat 32 (readSlot c .n f.d.toNat f.lit l))).toNat)

/-- A narrow lane operation: each guard-true lane writes op a b (old d) (R140–R143). -/
def laneN (f : LA) (op : Word → Word → Word → Word) (s : State) (c : Ctx) : Done :=
  .ok s (writeLanes c .n f.d.toNat (resN c f op))

/-- The results of an operation with a wide result. -/
def resW (c : Ctx) (f : LA) (ka kb : SK) (op : Nat → Nat → Nat) : List (Nat × Nat) :=
  (guardLanes c f.g).map fun l =>
    (l, op (readSlot c ka f.a.toNat f.lit l) (readSlot c kb f.b.toNat f.lit l) % 2 ^ 64)

/-- A lane operation with a wide result (R147). -/
def laneW (f : LA) (ka kb : SK) (op : Nat → Nat → Nat) (s : State) (c : Ctx) : Done :=
  .ok s (writeLanes c .w f.d.toNat (resW c f ka kb op))

/-- The results of a narrow operation on a source and an immediate. -/
def resI (c : Ctx) (f : LS) (op : Word → Nat → Word) : List (Nat × Nat) :=
  (guardLanes c f.g).map fun l => (l, (op (BitVec.ofNat 32 (readSlot c .n f.a.toNat f.lit l)) f.imm.toNat).toNat)

/-- A lane operation with an immediate (R141). -/
def laneI (f : LS) (op : Word → Nat → Word) (s : State) (c : Ctx) : Done :=
  .ok s (writeLanes c .n f.d.toNat (resI c f op))

/-- A compare of slots of kind `k` into a predicate; its open bit is cleared (R146). -/
def laneCmp (f : LP) (k : SK) (test : Nat → Nat → Bool) (s : State) (c : Ctx) : Done :=
  .ok s (writePreds c f.pd.toNat ((guardLanes c f.g).map fun l =>
    (l, test (readSlot c k f.a.toNat f.lit l) (readSlot c k f.b.toNat f.lit l), false)))

/-- A carry-chain operation: d and p7 of each guard-true lane (R144). -/
def laneCarry (f : LA) (op : Word → Word → Bool → Word × Bool) (s : State) (c : Ctx) : Done :=
  let rs := (guardLanes c f.g).map fun l =>
    (l, op (BitVec.ofNat 32 (readSlot c .n f.a.toNat f.lit l)) (BitVec.ofNat 32 (readSlot c .n f.b.toNat f.lit l))
      (readP c.g l 7))
  let c := writeLanes c .n f.d.toNat (rs.map fun r => (r.1, r.2.1.toNat))
  .ok s { c with g := rs.foldl (fun g r => writeOpen (writeP g r.1 7 r.2.2) r.1 7 false) c.g }

/-! ## NOP, moves and predicates -/

/-- NOP (R38): a void latch position and nothing else. -/
def execNop (f : LN) (s : State) : Host.Outcome State Fault Refusal :=
  runInstr (.nop f) (fun s c => .ok s (pushLatch c .void)) s

/-- SEL (R132): p[N] ? a : b in every lane of the mask; it takes no guard (R15). -/
def bodySel (f : LA) (s : State) (c : Ctx) : Done :=
  .ok s (writeLanes c .n f.d.toNat ((lanesOf c.st.mask).map fun l =>
    (l, readSlot c .n (if readP c.g l f.g.toNat then f.a.toNat else f.b.toNat) f.lit l % 2 ^ 32)))

/-- SEL (R132). -/
def execSel (f : LA) (s : State) : Host.Outcome State Fault Refusal := runInstr (.sel f) (bodySel f) s

/-- PTOV (R132): the value of predicate a as 0 or 1. -/
def bodyPtov (f : LA) (s : State) (c : Ctx) : Done :=
  .ok s (writeLanes c .n f.d.toNat ((guardLanes c f.g).map fun l => (l, (readP c.g l f.a.toNat).toNat)))

/-- PTOV (R132). -/
def execPtov (f : LA) (s : State) : Host.Outcome State Fault Refusal := runInstr (.ptov f) (bodyPtov f) s

/-- The outcomes that an input of PLOG may take: its value, or both when it is open (R329). -/
def plogIn (c : Ctx) (l n : Nat) : List Nat :=
  if fmtB c.st.fmt && readOpen c.g l n then [0, 1] else [(readP c.g l n).toNat]

/-- PLOG in one lane: value and open bit (R133, R329). -/
def plogLane (c : Ctx) (f : LP) (l : Nat) : Bool × Bool :=
  let out := (plogIn c l f.a.toNat).flatMap fun a => (plogIn c l f.b.toNat).map fun b => f.cond.toNat.testBit (2 * a + b)
  if out.all id then (true, false) else if out.any id then (false, true) else (false, false)

/-- PLOG (R133). -/
def bodyPlog (f : LP) (s : State) (c : Ctx) : Done :=
  .ok s (writePreds c f.pd.toNat ((guardLanes c f.g).map fun l => (l, plogLane c f l)))

/-- PLOG (R133, R329). -/
def execPlog (f : LP) (s : State) : Host.Outcome State Fault Refusal := runInstr (.plog f) (bodyPlog f) s

/-- VTOP (R133): a ≠ 0. -/
def execVtop (f : LP) (s : State) : Host.Outcome State Fault Refusal :=
  runInstr (.vtop f) (laneCmp { f with b := 112 } .n fun a _ => a != 0) s

/-- ICMP (R146). -/
def execIcmp (f : LP) (s : State) : Host.Outcome State Fault Refusal :=
  runInstr (.icmp f) (laneCmp f .n fun a b => intCond f.cond.toNat (BitVec.ofNat 32 a) (BitVec.ofNat 32 b)) s

/-- WCMP (R146). -/
def execWcmp (f : LP) (s : State) : Host.Outcome State Fault Refusal :=
  runInstr (.wcmp f) (laneCmp f .w fun a b => intCond f.cond.toNat (BitVec.ofNat 64 a) (BitVec.ofNat 64 b)) s

/-- IADDX (R144, log entry 37, DEDUCED). -/
def execIaddx (f : LA) (s : State) : Host.Outcome State Fault Refusal := runInstr (.iaddx f) (laneCarry f addCarry) s

/-- ISUBX (R144, log entry 37, DEDUCED). -/
def execIsubx (f : LA) (s : State) : Host.Outcome State Fault Refusal := runInstr (.isubx f) (laneCarry f subBorrow) s

/-! ## Narrow operations -/

/-- MOV (R132). -/
def execMov (f : LA) (s : State) : Host.Outcome State Fault Refusal :=
  runInstr (.mov f) (laneN f fun a _ _ => a) s

/-- IADD (R140). -/
def execIadd (f : LA) (s : State) : Host.Outcome State Fault Refusal :=
  runInstr (.iadd f) (laneN f fun a b _ => a + b) s

/-- ISUB (R140). -/
def execIsub (f : LA) (s : State) : Host.Outcome State Fault Refusal :=
  runInstr (.isub f) (laneN f fun a b _ => a - b) s

/-- IMUL (R140). -/
def execImul (f : LA) (s : State) : Host.Outcome State Fault Refusal :=
  runInstr (.imul f) (laneN f fun a b _ => a * b) s

/-- IMULHS (R140). -/
def execImulhs (f : LA) (s : State) : Host.Outcome State Fault Refusal :=
  runInstr (.imulhs f) (laneN f fun a b _ => BitVec.ofInt 32 (a.toInt * b.toInt / 2 ^ 32)) s

/-- IMULHU (R140). -/
def execImulhu (f : LA) (s : State) : Host.Outcome State Fault Refusal :=
  runInstr (.imulhu f) (laneN f fun a b _ => BitVec.ofNat 32 (a.toNat * b.toNat / 2 ^ 32)) s

/-- IMAD (R140). -/
def execImad (f : LA) (s : State) : Host.Outcome State Fault Refusal :=
  runInstr (.imad f) (laneN f fun a b d => a * b + d) s

/-- IMINS (R140). -/
def execImins (f : LA) (s : State) : Host.Outcome State Fault Refusal :=
  runInstr (.imins f) (laneN f fun a b _ => if a.sle b then a else b) s

/-- IMINU (R140). -/
def execIminu (f : LA) (s : State) : Host.Outcome State Fault Refusal :=
  runInstr (.iminu f) (laneN f fun a b _ => if a.ule b then a else b) s

/-- IMAXS (R140). -/
def execImaxs (f : LA) (s : State) : Host.Outcome State Fault Refusal :=
  runInstr (.imaxs f) (laneN f fun a b _ => if b.sle a then a else b) s

/-- IMAXU (R140). -/
def execImaxu (f : LA) (s : State) : Host.Outcome State Fault Refusal :=
  runInstr (.imaxu f) (laneN f fun a b _ => if b.ule a then a else b) s

/-- AND (R140). -/
def execAnd (f : LA) (s : State) : Host.Outcome State Fault Refusal :=
  runInstr (.and f) (laneN f fun a b _ => a &&& b) s

/-- OR (R140). -/
def execOr (f : LA) (s : State) : Host.Outcome State Fault Refusal :=
  runInstr (.or f) (laneN f fun a b _ => a ||| b) s

/-- XOR (R140). -/
def execXor (f : LA) (s : State) : Host.Outcome State Fault Refusal :=
  runInstr (.xor f) (laneN f fun a b _ => a ^^^ b) s

/-- ANDN (R140). -/
def execAndn (f : LA) (s : State) : Host.Outcome State Fault Refusal :=
  runInstr (.andn f) (laneN f fun a b _ => a &&& ~~~b) s

/-- SHL (R141). -/
def execShl (f : LA) (s : State) : Host.Outcome State Fault Refusal :=
  runInstr (.shl f) (laneN f fun a b _ => shlN a b.toNat) s

/-- SHRL (R141). -/
def execShrl (f : LA) (s : State) : Host.Outcome State Fault Refusal :=
  runInstr (.shrl f) (laneN f fun a b _ => shrN a b.toNat) s

/-- SHRA (R141). -/
def execShra (f : LA) (s : State) : Host.Outcome State Fault Refusal :=
  runInstr (.shra f) (laneN f fun a b _ => sarN a b.toNat) s

/-- ROTL (R141). -/
def execRotl (f : LA) (s : State) : Host.Outcome State Fault Refusal :=
  runInstr (.rotl f) (laneN f fun a b _ => rotlN a b.toNat) s

/-- POPC (R142). -/
def execPopc (f : LA) (s : State) : Host.Outcome State Fault Refusal :=
  runInstr (.popc f) (laneN f fun a _ _ => popcount a) s

/-- CLZ (R142). -/
def execClz (f : LA) (s : State) : Host.Outcome State Fault Refusal :=
  runInstr (.clz f) (laneN f fun a _ _ => clz32 a) s

/-- BREV (R142). -/
def execBrev (f : LA) (s : State) : Host.Outcome State Fault Refusal :=
  runInstr (.brev f) (laneN f fun a _ _ => brev32 a) s

/-- BFX (R143). -/
def execBfx (f : LA) (s : State) : Host.Outcome State Fault Refusal :=
  runInstr (.bfx f) (laneN f fun a b _ => Machine.bfx a b) s

/-- BFI (R143). -/
def execBfi (f : LA) (s : State) : Host.Outcome State Fault Refusal :=
  runInstr (.bfi f) (laneN f fun a b d => Machine.bfi d a b) s

/-- DOT4S (R181). -/
def execDot4s (f : LA) (s : State) : Host.Outcome State Fault Refusal :=
  runInstr (.dot4s f) (laneN f fun a b _ => dot4 true a b) s

/-- DOT4U (R181). -/
def execDot4u (f : LA) (s : State) : Host.Outcome State Fault Refusal :=
  runInstr (.dot4u f) (laneN f fun a b _ => dot4 false a b) s

/-- SHLI (R141). -/
def execShli (f : LS) (s : State) : Host.Outcome State Fault Refusal := runInstr (.shli f) (laneI f fun a n => shlN a n) s

/-- SHRLI (R141). -/
def execShrli (f : LS) (s : State) : Host.Outcome State Fault Refusal := runInstr (.shrli f) (laneI f fun a n => shrN a n) s

/-- SHRAI (R141). -/
def execShrai (f : LS) (s : State) : Host.Outcome State Fault Refusal := runInstr (.shrai f) (laneI f fun a n => sarN a n) s

/-! ## Wide operations (R147) -/

/-- WADD (R147). -/
def execWadd (f : LA) (s : State) : Host.Outcome State Fault Refusal :=
  runInstr (.wadd f) (laneW f .w .w fun a b => a + b) s

/-- WSUB (R147). -/
def execWsub (f : LA) (s : State) : Host.Outcome State Fault Refusal :=
  runInstr (.wsub f) (laneW f .w .w fun a b => a + 2 ^ 64 - b) s

/-- WMULU (R147). -/
def execWmulu (f : LA) (s : State) : Host.Outcome State Fault Refusal :=
  runInstr (.wmulu f) (laneW f .n .n fun a b => a * b) s

/-- WMULS (R147). -/
def execWmuls (f : LA) (s : State) : Host.Outcome State Fault Refusal :=
  runInstr (.wmuls f) (laneW f .n .n fun a b => ((BitVec.ofNat 32 a).signExtend 64 * (BitVec.ofNat 32 b).signExtend 64).toNat) s

/-- WSHL (R147). -/
def execWshl (f : LA) (s : State) : Host.Outcome State Fault Refusal :=
  runInstr (.wshl f) (laneW f .w .n fun a b => (shlN (BitVec.ofNat 64 a) b).toNat) s

/-- WSHRL (R147). -/
def execWshrl (f : LA) (s : State) : Host.Outcome State Fault Refusal :=
  runInstr (.wshrl f) (laneW f .w .n fun a b => (shrN (BitVec.ofNat 64 a) b).toNat) s

/-- WADDS (R147). -/
def execWadds (f : LA) (s : State) : Host.Outcome State Fault Refusal :=
  runInstr (.wadds f) (laneW f .w .n fun a b => a + ((BitVec.ofNat 32 b).signExtend 64).toNat) s

end Sys2Proof.Machine
end

