-- ==== Sys2Proof/Machine/Interval.lean ====
section
/-! DEFINITION. Interval arithmetic of bounds mode (R324–R328): an interval is lo + 2^32·hi as FP32 codes, each operation
on the intervals of one lane. -/

namespace Sys2Proof.Machine

/-- An interval as values. -/
abbrev Iv := FVal × FVal

/-- The whole line. -/
def ivAll : Iv := (.inf true, .inf false)

/-- An interval as it is read (R324). -/
def ivRead (x : Nat) : Iv :=
  let lo := fdec fp32 (x % 2 ^ 32)
  let hi := fdec fp32 (x / 2 ^ 32 % 2 ^ 32)
  if lo.isNaN ∨ hi.isNaN ∨ 0 < fvCmp lo hi then ivAll else (lo, hi)

/-- The code of an FP32 value rounded in a mode. -/
def ivCode (rm : Nat) (x : FVal) (sticky : Bool := false) : Nat := (roundFormat fp32 rm false x sticky).1

/-- An interval of codes. -/
def ivMk (lo hi : Nat) : Nat := lo + 2 ^ 32 * hi

/-- Rounds outward. -/
def ivOut (lo hi : FVal) (sl : Bool := false) (sh : Bool := false) : Nat := ivMk (ivCode rmDown lo sl) (ivCode rmUp hi sh)

/-- An exact interval. -/
def ivExact (v : Iv) : Nat := ivOut v.1 v.2

/-- Zero as a value. -/
def fvZero : FVal := .fin false 0 0

/-- FADD (R325): an endpoint sum of −∞ and +∞ gives −∞ for lo and +∞ for hi. -/
def ivAdd (x y : Nat) : Nat :=
  let (al, ah) := ivRead x
  let (bl, bh) := ivRead y
  let (lo, il) := fvAdd rmDown al bl
  let (hi, ih) := fvAdd rmUp ah bh
  ivOut (if il then .inf true else lo) (if ih then .inf false else hi)

/-- FNEG (R325). -/
def ivNeg (x : Nat) : Nat := let (al, ah) := ivRead x; ivExact (ah.flip, al.flip)

/-- FSUB (R325). -/
def ivSub (x y : Nat) : Nat := ivAdd (ivExact (ivRead x)) (ivNeg y)

/-- A candidate of a product: its value, whether it was truncated, and whether its sign as a zero is open. -/
structure Cand where
  v : FVal
  st : Bool := false
  amb : Bool := false
  deriving DecidableEq, Repr

/-- An endpoint product, with 0 for 0 × ±∞ (R325). -/
def candMul (a b : FVal) : Cand :=
  let (v, inv) := fvMul a b
  if inv then ⟨fvZero, false, true⟩ else ⟨v, false, false⟩

/-- An endpoint product by the reciprocal of b, with 1/±∞ = 0 (R325). -/
def candDiv (a b : FVal) : Cand :=
  match b with
  | .inf n => candMul a (.fin n 0 0)
  | _ => let (v, st, _, _) := fvDiv a b; ⟨v, st, false⟩

/-- The least or greatest candidate; a zero whose sign the candidates leave open takes that of Config (log entry 17, DESIGN CHOICE). -/
def candPick (greatest : Bool) (x y : Nat) (p : List Cand) : Cand :=
  let best := p.foldl (fun m c =>
    let d := fvCmp c.v m.v
    if (if greatest then decide (0 < d) else decide (d < 0)) then c else m) (p.headD ⟨fvZero, false, false⟩)
  if best.v.isZero ∧ !best.st then
    let zs := p.filter fun c => c.v.isZero && !c.st
    if zs.any (·.amb) ∨ (zs.any (·.v.neg) ∧ zs.any fun c => !c.v.neg) then
      { best with v := .fin (Config.zeroSign x y) 0 0 }
    else best
  else best

/-- The interval of four candidates. -/
def ivCands (x y : Nat) (p : List Cand) : Nat :=
  let lo := candPick false x y p
  let hi := candPick true x y p
  ivOut lo.v hi.v lo.st hi.st

/-- FMUL (R325). -/
def ivMul (x y : Nat) : Nat :=
  let (al, ah) := ivRead x
  let (bl, bh) := ivRead y
  ivCands x y [candMul al bl, candMul al bh, candMul ah bl, candMul ah bh]

/-- FFMA (R325): the product interval, then the sum. -/
def ivFma (x y d : Nat) : Nat := ivAdd (ivMul x y) d

/-- a ≤ b for values that are no NaN. -/
def fvLe (a b : FVal) : Bool := decide (fvCmp a b ≤ 0)
/-- a < b for values that are no NaN. -/
def fvLt (a b : FVal) : Bool := decide (fvCmp a b < 0)

/-- FDIV (R325). -/
def ivDiv (x y : Nat) : Nat :=
  let (al, ah) := ivRead x
  let (bl, bh) := ivRead y
  if fvLe bl fvZero ∧ fvLe fvZero bh then ivExact ivAll
  else ivCands x y [candDiv al bh, candDiv al bl, candDiv ah bh, candDiv ah bl]

/-- FRCP (R325). -/
def ivRcp (x : Nat) : Nat :=
  let (al, ah) := ivRead x
  if fvLe al fvZero ∧ fvLe fvZero ah then ivExact ivAll
  else
    let (lo, sl, _, _) := fvDiv (.fin false 1 0) ah
    let (hi, sh, _, _) := fvDiv (.fin false 1 0) al
    ivOut lo hi sl sh

/-- FSQRT (R325). -/
def ivSqrt (x : Nat) : Nat :=
  let (al, ah) := ivRead x
  if fvLt al fvZero then ivExact ivAll
  else
    ivMk (fsqrt fp32 rmDown false (ivCode 0 al)).1 (fsqrt fp32 rmUp false (ivCode 0 ah)).1

/-- FMIN and FMAX (R325, log entry 23, DEDUCED). -/
def ivMinMax (isMax : Bool) (x y : Nat) : Nat :=
  let a := ivExact (ivRead x)
  let b := ivExact (ivRead y)
  ivMk (fminmax fp32 false isMax (a % 2 ^ 32) (b % 2 ^ 32)).1 (fminmax fp32 false isMax (a / 2 ^ 32) (b / 2 ^ 32)).1

/-- FABS as values (R325). -/
def ivAbsV (v : Iv) : Iv :=
  if fvLe fvZero v.1 then v
  else if fvLe v.2 fvZero then (v.2.flip, v.1.flip)
  else (fvZero, if fvLt v.1.flip v.2 then v.2 else v.1.flip)

/-- FABS (R325). -/
def ivAbs (x : Nat) : Nat := ivExact (ivAbsV (ivRead x))

/-- FCPSGN (R325). -/
def ivCpsgn (x y : Nat) : Nat :=
  let m := ivAbsV (ivRead x)
  let (bl, bh) := ivRead y
  if fvLe fvZero bl then ivExact m
  else if fvLt bh fvZero then ivExact (m.2.flip, m.1.flip)
  else ivExact (m.2.flip, m.2)

/-- FSCALE (R325): b is a narrow signed integer. -/
def ivScale (x : Nat) (b : Word) : Nat :=
  let a := ivExact (ivRead x)
  ivMk (fscale rmDown false (a % 2 ^ 32) b).1 (fscale rmUp false (a / 2 ^ 32) b).1

/-- An operation on each endpoint (R325). -/
def ivEach (f : Nat → Nat × Word) (x : Nat) : Nat :=
  let a := ivExact (ivRead x)
  ivMk (f (a % 2 ^ 32)).1 (f (a / 2 ^ 32)).1

/-- FCLASS (R325): the union of the classes of the members. -/
def ivClass (x : Nat) : Nat :=
  let (lo, hi) := ivRead x
  let has := fun (l h : FVal) => fvLe lo h && fvLe l hi
  let minN : FVal := .fin false 1 (-126)
  let maxN : FVal := .fin false (2 ^ 24 - 1) 104
  let minS : FVal := .fin false 1 (-149)
  let maxS : FVal := .fin false (2 ^ 23 - 1) (-149)
  let zero := has fvZero fvZero
  (has (.inf true) (.inf true)).toNat + 2 * (has maxN.flip minN.flip).toNat + 4 * (has maxS.flip minS.flip).toNat +
    8 * zero.toNat + 16 * zero.toNat + 32 * (has minS maxS).toNat + 64 * (has minN maxN).toNat +
    128 * (has (.inf false) (.inf false)).toNat

/-- CVT code 0 (R325). -/
def ivFromInt (a : Nat) : Nat :=
  let v := fvInt (BitVec.ofNat 32 a).toInt
  ivOut v v

/-- CVT code 2 (R325). -/
def ivToInt (x : Nat) : Nat :=
  let (al, ah) := ivRead x
  ivMk (toInt rmDown true 32 al).1 (toInt rmUp true 32 ah).1

/-! ## Approximate functions (R326) -/

/-- ulp(y) as a value (R177). -/
def fvUlp (v : FVal) : FVal :=
  match v with
  | .fin _ m e => .fin false 1 (max (if m = 0 then -126 else (Nat.log2 m : Int) + e) (-126) - 23)
  | _ => fvZero

/-- An endpoint value moved outward by 2β ulp, and rounded; an infinity is used as it is. -/
def ivWiden (down : Bool) (beta : Nat) (c : Nat) : FVal :=
  let v := fdec fp32 c
  match v, fvUlp v with
  | .fin _ _ _, .fin _ m e =>
    fdec fp32 (ivCode (if down then rmDown else rmUp) (fvAdd 0 v (.fin down (2 * beta * m) e)).1)
  | v, _ => v

/-- A value kept at or above +0. -/
def atLeastZero (v : FVal) : FVal := if fvLt v fvZero then fvZero else v

/-- FEXP2 (R326). -/
def ivExp2 (x : Nat) : Nat :=
  let a := ivExact (ivRead x)
  ivExact (atLeastZero (ivWiden true 2 (fexp2 false (a % 2 ^ 32)).1), ivWiden false 2 (fexp2 false (a / 2 ^ 32)).1)

/-- FLOG2 (R326). -/
def ivLog2 (x : Nat) : Nat :=
  let (al, ah) := ivRead x
  if fvLt al fvZero then ivExact ivAll
  else
    ivExact (ivWiden true 2 (flog2 false (ivCode 0 al)).1, ivWiden false 2 (flog2 false (ivCode 0 ah)).1)

/-- FRSQ (R326). -/
def ivRsq (x : Nat) : Nat :=
  let (al, ah) := ivRead x
  if fvLt al fvZero then ivExact ivAll
  else
    let lo := if ah.isZero then (.inf false) else atLeastZero (ivWiden true 1 (frsq false (ivCode 0 ah)).1)
    ivExact (lo, if al.isZero then .inf false else ivWiden false 1 (frsq false (ivCode 0 al)).1)

/-- ⌈4x⌉ and ⌊4x⌋ of a finite value. -/
def quarters (up : Bool) (v : FVal) : Int :=
  match v with
  | .fin n m e =>
    let x : Int := if n then -(m : Int) else m
    if 0 ≤ e + 2 then x * 2 ^ (e + 2).toNat
    else
      let d : Int := 2 ^ (-(e + 2)).toNat
      if up then -((-x) / d) else x / d
  | _ => 0

/-- Some value ≡ r/4 modulo 1 lies in the interval. -/
def hasQuarter (r : Int) (al ah : FVal) : Bool :=
  let k := quarters true al
  decide (k + (r - k) % 4 ≤ quarters false ah)

/-- FSINR and FCOSR (R326): `mx` and `mn` are the quarters of the maxima and minima. -/
def ivTrig (f : Bool → Nat → Nat × Word) (mx mn : Int) (x : Nat) : Nat :=
  let (al, ah) := ivRead x
  let one : FVal := .fin false 1 0
  match al, ah with
  | .fin _ _ _, .fin _ _ _ =>
    if fvLe one (fvAdd 0 ah al.flip).1 then ivExact (one.flip, one)
    else
      let p := (f false (ivCode 0 al)).1
      let q := (f false (ivCode 0 ah)).1
      let lmin := fun a b => if fvLt b a then b else a
      let lmax := fun a b => if fvLt a b then b else a
      let lo := lmin (ivWiden true 2 p) (ivWiden true 2 q)
      let hi := lmax (ivWiden false 2 p) (ivWiden false 2 q)
      let lo := if hasQuarter mn al ah then one.flip else lmax lo one.flip
      let hi := if hasQuarter mx al ah then one else lmin hi one
      ivExact (lo, hi)
  | _, _ => ivExact ivAll

/-! ## Three-valued compare (R328) -/

/-- FCMP of two intervals: value and open bit. -/
def ivCmp (code x y : Nat) : Bool × Bool :=
  let (al, ah) := ivRead x
  let (bl, bh) := ivRead y
  let eqT := decide (fvCmp al ah = 0 ∧ fvCmp ah bl = 0 ∧ fvCmp bl bh = 0)
  let eqF := fvLt ah bl || fvLt bh al
  let three := fun (t f : Bool) => (t, !t && !f)
  match code with
  | 0 => three eqT eqF
  | 1 => three eqF eqT
  | 2 => three (fvLt ah bl) (fvLe bh al)
  | 3 => three (fvLe ah bl) (fvLt bh al)
  | 4 => three (fvLt bh al) (fvLe ah bl)
  | 5 => three (fvLe bh al) (fvLt ah bl)
  | 6 => (false, false)
  | _ => (true, false)

end Sys2Proof.Machine
end

