-- ==== Sys2Proof/Machine/FloatOps.lean ====
section
/-! DEFINITION. Vector floating point (R166–R184), its interval and point forms (R323–R328), the quantizing instructions
(R162–R165). -/

namespace Sys2Proof.Machine

/-! ## Shapes -/

/-- The OR of the flags of lanes. -/
def flagsOf (rs : List (Nat × Nat × Word)) : Word := rs.foldl (fun m r => m ||| r.2.2) 0

/-- Writes lane results that carry flags, and raises them (R128). -/
def writeFlagged (c : Ctx) (k : SK) (d : Nat) (rs : List (Nat × Nat × Word)) : Ctx :=
  raise (writeLanes c k d (rs.map fun r => (r.1, r.2.1))) (flagsOf rs)

/-- An FP32 instruction with FMT.B = 0: `sc` on the sources a and b and the old d. -/
def resF (c : Ctx) (f : LA) (sc : Word → Nat → Nat → Nat → Nat × Word) : List (Nat × Nat × Word) :=
  (guardLanes c f.g).map fun l =>
    (l, sc c.st.fmt (readSlot c .n f.a.toNat f.lit l) (readSlot c .n f.b.toNat f.lit l) (readSlot c .n f.d.toNat f.lit l))

/-- The two halves of a point result (R327). -/
def dup (x : Nat) : Nat := x % 2 ^ 32 + 2 ^ 32 * (x % 2 ^ 32)

/-- An FP32 instruction with FMT.B = 1: `iv` on intervals in interval form, `sc` on the lo registers in point form. `bn` and
`dn` say that b and d are narrow (R325). -/
def resIv (c : Ctx) (f : LA) (bn dn : Bool) (sc : Word → Nat → Nat → Nat → Nat × Word)
    (iv : Word → Nat → Nat → Nat → Nat) : List (Nat × Nat × Word) :=
  (guardLanes c f.g).map fun l =>
    let a := readSlot c .iv f.a.toNat f.lit l
    let b := readSlot c (if bn then .n else .iv) f.b.toNat f.lit l
    let d := readSlot c .iv f.d.toNat f.lit l
    if pointForm c.g l then
      let r := sc c.st.fmt (a % 2 ^ 32) (b % 2 ^ 32) (d % 2 ^ 32)
      (l, if dn then r.1 else dup r.1, r.2)
    else (l, iv c.st.fmt a b d, 0)

/-- An FP32 instruction that acts on intervals in bounds mode. -/
def laneF (f : LA) (bn dn : Bool) (sc : Word → Nat → Nat → Nat → Nat × Word) (iv : Word → Nat → Nat → Nat → Nat)
    (s : State) (c : Ctx) : Done :=
  if fmtB c.st.fmt then
    .ok s (writeFlagged c (if dn then .n else .iv) f.d.toNat (resIv c f bn dn sc iv))
  else .ok s (writeFlagged c .n f.d.toNat (resF c f sc))

/-- An FP64 instruction (R178). -/
def laneD (f : LA) (sc : Word → Nat → Nat → Nat → Nat × Word) (s : State) (c : Ctx) : Done :=
  .ok s (writeFlagged c .f f.d.toNat ((guardLanes c f.g).map fun l =>
    (l, sc c.st.fmt (readSlot c .f f.a.toNat f.lit l) (readSlot c .f f.b.toNat f.lit l) (readSlot c .f f.d.toNat f.lit l))))

/-- An instruction on packed halves or on half sources with a narrow result (R179, R180). -/
def laneH (f : LA) (sc : Word → Nat → Nat → Nat → Nat × Word) (s : State) (c : Ctx) : Done :=
  .ok s (writeFlagged c .n f.d.toNat (resF c f sc))

/-- Writes a compare's outcomes and raises its flags. -/
def cmpLanes (c : Ctx) (f : LP) (rs : List (Nat × (Bool × Bool) × Word)) : Ctx :=
  raise (writePreds c f.pd.toNat (rs.map fun r => (r.1, r.2.1.1, r.2.1.2))) (rs.foldl (fun m r => m ||| r.2.2) 0)

/-- FCMP in one lane (R175, R328). -/
def fcmpLane (c : Ctx) (f : LP) (l : Nat) : (Bool × Bool) × Word :=
  let fz := fmtFZ c.st.fmt
  if fmtB c.st.fmt then
    let a := readSlot c .iv f.a.toNat f.lit l
    let b := readSlot c .iv f.b.toNat f.lit l
    if pointForm c.g l then
      let x := a % 2 ^ 32
      let y := b % 2 ^ 32
      let (v, fl) := fcmp fp32 fz f.cond.toNat x y
      if f.cond.toNat ≤ 5 ∧ ((fdec fp32 x).isNaN ∨ (fdec fp32 y).isNaN) then ((false, true), fl) else ((v, false), fl)
    else (ivCmp f.cond.toNat a b, 0)
  else
    let (v, fl) := fcmp fp32 fz f.cond.toNat (readSlot c .n f.a.toNat f.lit l) (readSlot c .n f.b.toNat f.lit l)
    ((v, false), fl)

/-- FCMP (R175, R328). -/
def execFcmp (f : LP) (s : State) : Host.Outcome State Fault Refusal :=
  runInstr (.fcmp f) (fun s c => .ok s (cmpLanes c f ((guardLanes c f.g).map fun l => (l, fcmpLane c f l)))) s

/-- DCMP (R175). -/
def execDcmp (f : LP) (s : State) : Host.Outcome State Fault Refusal :=
  runInstr (.dcmp f) (fun s c => .ok s (cmpLanes c f ((guardLanes c f.g).map fun l =>
    let r := fcmp fp64 (fmtFZ c.st.fmt) f.cond.toNat (readSlot c .f f.a.toNat f.lit l) (readSlot c .f f.b.toNat f.lit l)
    (l, (r.1, false), r.2)))) s

/-! ## FP32 -/

/-- FADD (R171). -/
def execFadd (f : LA) (s : State) : Host.Outcome State Fault Refusal :=
  runInstr (.fadd f) (laneF f false false (fun m a b _ => fadd fp32 (fmtRM m) (fmtFZ m) a b) (fun _ a b _ => ivAdd a b)) s

/-- FSUB (R171). -/
def execFsub (f : LA) (s : State) : Host.Outcome State Fault Refusal :=
  runInstr (.fsub f) (laneF f false false (fun m a b _ => fsub fp32 (fmtRM m) (fmtFZ m) a b) (fun _ a b _ => ivSub a b)) s

/-- FMUL (R171). -/
def execFmul (f : LA) (s : State) : Host.Outcome State Fault Refusal :=
  runInstr (.fmul f) (laneF f false false (fun m a b _ => fmul fp32 (fmtRM m) (fmtFZ m) a b) (fun _ a b _ => ivMul a b)) s

/-- FFMA (R171). -/
def execFfma (f : LA) (s : State) : Host.Outcome State Fault Refusal :=
  runInstr (.ffma f) (laneF f false false (fun m a b d => ffma fp32 (fmtRM m) (fmtFZ m) a b d) (fun _ a b d => ivFma a b d)) s

/-- FMIN (R172). -/
def execFmin (f : LA) (s : State) : Host.Outcome State Fault Refusal :=
  runInstr (.fmin f) (laneF f false false (fun m a b _ => fminmax fp32 (fmtFZ m) false a b) (fun _ a b _ => ivMinMax false a b)) s

/-- FMAX (R172). -/
def execFmax (f : LA) (s : State) : Host.Outcome State Fault Refusal :=
  runInstr (.fmax f) (laneF f false false (fun m a b _ => fminmax fp32 (fmtFZ m) true a b) (fun _ a b _ => ivMinMax true a b)) s

/-- FABS (R173). -/
def execFabs (f : LA) (s : State) : Host.Outcome State Fault Refusal :=
  runInstr (.fabs f) (laneF f false false (fun _ a _ _ => (a % 2 ^ 31, 0)) (fun _ a _ _ => ivAbs a)) s

/-- FNEG (R173). -/
def execFneg (f : LA) (s : State) : Host.Outcome State Fault Refusal :=
  runInstr (.fneg f) (laneF f false false (fun _ a _ _ => (a ^^^ 2 ^ 31, 0)) (fun _ a _ _ => ivNeg a)) s

/-- FRCP (R176). -/
def execFrcp (f : LA) (s : State) : Host.Outcome State Fault Refusal :=
  runInstr (.frcp f) (laneF f false false (fun m a _ _ => frcp fp32 (fmtRM m) (fmtFZ m) a) (fun _ a _ _ => ivRcp a)) s

/-- FSQRT (R176). -/
def execFsqrt (f : LA) (s : State) : Host.Outcome State Fault Refusal :=
  runInstr (.fsqrt f) (laneF f false false (fun m a _ _ => fsqrt fp32 (fmtRM m) (fmtFZ m) a) (fun _ a _ _ => ivSqrt a)) s

/-- FRSQ (R177, R326). -/
def execFrsq (f : LA) (s : State) : Host.Outcome State Fault Refusal :=
  runInstr (.frsq f) (laneF f false false (fun m a _ _ => frsq (fmtFZ m) a) (fun _ a _ _ => ivRsq a)) s

/-- FEXP2 (R177, R326). -/
def execFexp2 (f : LA) (s : State) : Host.Outcome State Fault Refusal :=
  runInstr (.fexp2 f) (laneF f false false (fun m a _ _ => fexp2 (fmtFZ m) a) (fun _ a _ _ => ivExp2 a)) s

/-- FLOG2 (R177, R326). -/
def execFlog2 (f : LA) (s : State) : Host.Outcome State Fault Refusal :=
  runInstr (.flog2 f) (laneF f false false (fun m a _ _ => flog2 (fmtFZ m) a) (fun _ a _ _ => ivLog2 a)) s

/-- FSINR (R177, R326). -/
def execFsinr (f : LA) (s : State) : Host.Outcome State Fault Refusal :=
  runInstr (.fsinr f) (laneF f false false (fun m a _ _ => fsinr (fmtFZ m) a) (fun _ a _ _ => ivTrig fsinr 1 3 a)) s

/-- FCOSR (R177, R326). -/
def execFcosr (f : LA) (s : State) : Host.Outcome State Fault Refusal :=
  runInstr (.fcosr f) (laneF f false false (fun m a _ _ => fcosr (fmtFZ m) a) (fun _ a _ _ => ivTrig fcosr 0 2 a)) s

/-- FRINT (R173). -/
def execFrint (f : LA) (s : State) : Host.Outcome State Fault Refusal :=
  runInstr (.frint f) (laneF f false false (fun m a _ _ => frint fp32 (fmtRM m) (fmtFZ m) a) (fun m a _ _ => ivEach (frint fp32 (fmtRM m) false) a)) s

/-- FFLOOR (R173). -/
def execFfloor (f : LA) (s : State) : Host.Outcome State Fault Refusal :=
  runInstr (.ffloor f) (laneF f false false (fun m a _ _ => frint fp32 rmDown (fmtFZ m) a) (fun _ a _ _ => ivEach (frint fp32 rmDown false) a)) s

/-- FDIV (R171, R176). -/
def execFdiv (f : LA) (s : State) : Host.Outcome State Fault Refusal :=
  runInstr (.fdiv f) (laneF f false false (fun m a b _ => fdiv fp32 (fmtRM m) (fmtFZ m) a b) (fun _ a b _ => ivDiv a b)) s

/-- FCLASS (R174). -/
def execFclass (f : LA) (s : State) : Host.Outcome State Fault Refusal :=
  runInstr (.fclass f) (laneF f false true (fun _ a _ _ => (fclass a, 0)) (fun _ a _ _ => ivClass a)) s

/-- FSCALE (R171). -/
def execFscale (f : LA) (s : State) : Host.Outcome State Fault Refusal :=
  runInstr (.fscale f) (laneF f true false (fun m a b _ => fscale (fmtRM m) (fmtFZ m) a (BitVec.ofNat 32 b)) (fun _ a b _ => ivScale a (BitVec.ofNat 32 b))) s

/-- FCPSGN (R171). -/
def execFcpsgn (f : LA) (s : State) : Host.Outcome State Fault Refusal :=
  runInstr (.fcpsgn f) (laneF f false false (fun _ a b _ => (a % 2 ^ 31 + b / 2 ^ 31 % 2 * 2 ^ 31, 0)) (fun _ a b _ => ivCpsgn a b)) s

/-- FSAT (R173). -/
def execFsat (f : LA) (s : State) : Host.Outcome State Fault Refusal :=
  runInstr (.fsat f) (laneF f false false (fun m a _ _ => fsat (fmtFZ m) a) (fun _ a _ _ => ivEach (fsat false) a)) s

/-! ## FP64 (R178) -/

/-- DADD (R178). -/
def execDadd (f : LA) (s : State) : Host.Outcome State Fault Refusal :=
  runInstr (.dadd f) (laneD f (fun m a b _ => fadd fp64 (fmtRM m) (fmtFZ m) a b)) s

/-- DSUB (R178). -/
def execDsub (f : LA) (s : State) : Host.Outcome State Fault Refusal :=
  runInstr (.dsub f) (laneD f (fun m a b _ => fsub fp64 (fmtRM m) (fmtFZ m) a b)) s

/-- DMUL (R178). -/
def execDmul (f : LA) (s : State) : Host.Outcome State Fault Refusal :=
  runInstr (.dmul f) (laneD f (fun m a b _ => fmul fp64 (fmtRM m) (fmtFZ m) a b)) s

/-- DFMA (R178). -/
def execDfma (f : LA) (s : State) : Host.Outcome State Fault Refusal :=
  runInstr (.dfma f) (laneD f (fun m a b d => ffma fp64 (fmtRM m) (fmtFZ m) a b d)) s

/-- DMIN (R178). -/
def execDmin (f : LA) (s : State) : Host.Outcome State Fault Refusal :=
  runInstr (.dmin f) (laneD f (fun m a b _ => fminmax fp64 (fmtFZ m) false a b)) s

/-- DMAX (R178). -/
def execDmax (f : LA) (s : State) : Host.Outcome State Fault Refusal :=
  runInstr (.dmax f) (laneD f (fun m a b _ => fminmax fp64 (fmtFZ m) true a b)) s

/-- DDIV (R178). -/
def execDdiv (f : LA) (s : State) : Host.Outcome State Fault Refusal :=
  runInstr (.ddiv f) (laneD f (fun m a b _ => fdiv fp64 (fmtRM m) (fmtFZ m) a b)) s

/-- DSQRT (R178). -/
def execDsqrt (f : LA) (s : State) : Host.Outcome State Fault Refusal :=
  runInstr (.dsqrt f) (laneD f (fun m a _ _ => fsqrt fp64 (fmtRM m) (fmtFZ m) a)) s

/-- DRINT (R178). -/
def execDrint (f : LA) (s : State) : Host.Outcome State Fault Refusal :=
  runInstr (.drint f) (laneD f (fun m a _ _ => frint fp64 (fmtRM m) (fmtFZ m) a)) s

/-- DABS (R178). -/
def execDabs (f : LA) (s : State) : Host.Outcome State Fault Refusal :=
  runInstr (.dabs f) (laneD f (fun _ a _ _ => (a % 2 ^ 63, 0))) s

/-- DNEG (R178). -/
def execDneg (f : LA) (s : State) : Host.Outcome State Fault Refusal :=
  runInstr (.dneg f) (laneD f (fun _ a _ _ => (a ^^^ 2 ^ 63, 0))) s

/-! ## Packed 16-bit (R179, R180) -/

/-- HADD2 (R179). -/
def execHadd2 (f : LA) (s : State) : Host.Outcome State Fault Refusal :=
  runInstr (.hadd2 f) (laneH f (fun m a b d => packed (fun x y _ => fadd (halfFmt m) (fmtRM m) (fmtFZ m) x y) a b d)) s

/-- HMUL2 (R179). -/
def execHmul2 (f : LA) (s : State) : Host.Outcome State Fault Refusal :=
  runInstr (.hmul2 f) (laneH f (fun m a b d => packed (fun x y _ => fmul (halfFmt m) (fmtRM m) (fmtFZ m) x y) a b d)) s

/-- HFMA2 (R179). -/
def execHfma2 (f : LA) (s : State) : Host.Outcome State Fault Refusal :=
  runInstr (.hfma2 f) (laneH f (fun m a b d => packed (fun x y z => ffma (halfFmt m) (fmtRM m) (fmtFZ m) x y z) a b d)) s

/-- HMIN2 (R179). -/
def execHmin2 (f : LA) (s : State) : Host.Outcome State Fault Refusal :=
  runInstr (.hmin2 f) (laneH f (fun m a b d => packed (fun x y _ => fminmax (halfFmt m) (fmtFZ m) false x y) a b d)) s

/-- HMAX2 (R179). -/
def execHmax2 (f : LA) (s : State) : Host.Outcome State Fault Refusal :=
  runInstr (.hmax2 f) (laneH f (fun m a b d => packed (fun x y _ => fminmax (halfFmt m) (fmtFZ m) true x y) a b d)) s

/-- HDOT2 (R180). -/
def execHdot2 (f : LA) (s : State) : Host.Outcome State Fault Refusal :=
  runInstr (.hdot2 f) (laneH f (fun m a b _ => hdot2 (halfFmt m) (fmtRM m) (fmtFZ m) a b)) s

/-! ## CVT (R182–R184, R325) -/

/-- CVT on one lane in bounds mode, codes 0 and 2: value and flags (R325, R327). -/
def cvtBounds (c : Ctx) (f : LS) (l : Nat) : Nat × Word :=
  let code := f.imm.toNat
  if code = 0 then
    let a := readSlot c .n f.a.toNat f.lit l
    if pointForm c.g l then let r := cvt 0 c.st.fmt a; (dup r.1, r.2) else (ivFromInt a, 0)
  else
    let a := readSlot c .iv f.a.toNat f.lit l
    if pointForm c.g l then let r := cvt 2 c.st.fmt (a % 2 ^ 32); (dup r.1, r.2) else (ivToInt a, 0)

/-- CVT (R182, R183). -/
def bodyCvt (f : LS) (s : State) (c : Ctx) : Done :=
  let code := f.imm.toNat
  if fmtB c.st.fmt then
    .ok s (writeFlagged c (if code = 0 then .iv else .w) f.d.toNat ((guardLanes c f.g).map fun l => (l, cvtBounds c f l)))
  else
    let sl := slotsOf c.st.fmt 0x54 code
    .ok s (writeFlagged c sl.d f.d.toNat
      ((guardLanes c f.g).map fun l => (l, cvt code c.st.fmt (readSlot c sl.a f.a.toNat f.lit l))))

/-- CVT (R182–R184). -/
def execCvt (f : LS) (s : State) : Host.Outcome State Fault Refusal := runInstr (.cvt f) (bodyCvt f) s

/-! ## Quantizing (R162–R165) -/

/-- Quantizes each 32-lane block of the mask; flags come from blocks with a guard-true lane (R163, R165). -/
def laneQ (f : LA) (q : Bool → Nat → List Nat → List Word × Word) (s : State) (c : Ctx) : Done :=
  let ls := guardLanes c f.g
  let rs := [0, 1].flatMap fun blk =>
    let mem := (lanesOf c.st.mask).filter fun l => l / 32 == blk
    let ctl := readSlot c .n f.b.toNat f.lit (mem.headD 0)
    let (ds, fl) := q (fmtFZ c.st.fmt) ctl (mem.map fun l => readSlot c .n f.a.toNat f.lit l)
    ((mem.zip ds).filter fun e => ls.contains e.1).map fun e => (e.1, e.2.toNat, fl)
  .ok s (writeFlagged c .n f.d.toNat rs)

/-- QDX4 (R163). -/
def execQdx4 (f : LA) (s : State) : Host.Outcome State Fault Refusal :=
  runInstr (.qdx4 f) (laneQ f fun fz _ xs => qdx 2 fz xs) s

/-- QDX8 (R163). -/
def execQdx8 (f : LA) (s : State) : Host.Outcome State Fault Refusal :=
  runInstr (.qdx8 f) (laneQ f fun fz _ xs => qdx 6 fz xs) s

/-- QAQ8 (R164): b[0] selects AQ4. -/
def execQaq8 (f : LA) (s : State) : Host.Outcome State Fault Refusal :=
  runInstr (.qaq8 f) (laneQ f fun fz b xs => qaq (b % 2 == 1) fz xs) s

end Sys2Proof.Machine
end

