-- ==== Sys2Proof/Machine/Cross.lean ====
section
/-! DEFINITION. Values across lanes: the shuffles (R134) and the reductions (R135). -/

namespace Sys2Proof.Machine

/-! ## Shuffles -/

/-- The value of source a as lane `l` receives it from lane `j`: its own where `j` is no lane of the strand (R134). -/
def shflFrom (c : Ctx) (a : Nat) (lit : Word) (l : Nat) (j : Option Nat) : Nat :=
  match j with
  | some j => if j < 64 ∧ c.st.mask.getLsbD j then readSlot c .n a lit j else readSlot c .n a lit l
  | none => readSlot c .n a lit l

/-- A shuffle with an immediate (R134). -/
def laneShfl (f : LS) (src : Nat → Nat → Option Nat) (s : State) (c : Ctx) : Done :=
  .ok s (writeLanes c .n f.d.toNat ((guardLanes c f.g).map fun l =>
    (l, shflFrom c f.a.toNat f.lit l (src l f.imm.toNat))))

/-- SHFLI (R134). -/
def execShfli (f : LA) (s : State) : Host.Outcome State Fault Refusal :=
  runInstr (.shfli f) (fun s c => .ok s (writeLanes c .n f.d.toNat ((guardLanes c f.g).map fun l =>
    (l, shflFrom c f.a.toNat f.lit l (some (readSlot c .n f.b.toNat f.lit l)))))) s

/-- SHFLX (R134): from lane l XOR c. -/
def execShflx (f : LS) (s : State) : Host.Outcome State Fault Refusal :=
  runInstr (.shflx f) (laneShfl f fun l k => some (l ^^^ k)) s

/-- SHFLU (R134): from lane l − c. -/
def execShflu (f : LS) (s : State) : Host.Outcome State Fault Refusal :=
  runInstr (.shflu f) (laneShfl f fun l k => if k ≤ l then some (l - k) else none) s

/-- SHFLD (R134): from lane l + c. -/
def execShfld (f : LS) (s : State) : Host.Outcome State Fault Refusal :=
  runInstr (.shfld f) (laneShfl f fun l k => some (l + k)) s

/-! ## Reductions -/

/-- Combine2 of R135. -/
def combine2 {α : Type} (f : α → α → α) : Option α → Option α → Option α
  | none, y => y
  | x, none => x
  | some x, some y => some (f x y)

/-- One level of the tree. -/
def pairUp {α : Type} (f : α → α → α) : List (Option α) → List (Option α)
  | x :: y :: t => combine2 f x y :: pairUp f t
  | l => l

/-- The tree over 64 lanes; EMPTY lanes above W change nothing (R135). -/
def reduceTree {α : Type} (f : α → α → α) (xs : List (Option α)) : Option α :=
  ((List.range 6).foldl (fun l _ => pairUp f l) xs).head?.join

/-- The terms of a reduction: the lanes of the mask, guard-false ones included. -/
def redTerms {α : Type} (c : Ctx) (v : Nat → α) : List (Option α) :=
  (List.range 64).map fun l => if c.st.mask.getLsbD l then some (v l) else none

/-- An integer reduction, written to d in the guard-true lanes (R135). -/
def laneRed (f : LA) (op : Word → Word → Word) (s : State) (c : Ctx) : Done :=
  let r := (reduceTree op (redTerms c fun l => BitVec.ofNat 32 (readSlot c .n f.a.toNat f.lit l))).getD 0
  .ok s (writeLanes c .n f.d.toNat ((guardLanes c f.g).map fun l => (l, r.toNat)))

/-- RADD (R135). -/
def execRadd (f : LA) (s : State) : Host.Outcome State Fault Refusal := runInstr (.radd f) (laneRed f fun x y => x + y) s

/-- RMINS (R135). -/
def execRmins (f : LA) (s : State) : Host.Outcome State Fault Refusal :=
  runInstr (.rmins f) (laneRed f fun x y => if x.slt y then x else y) s

/-- RMAXS (R135). -/
def execRmaxs (f : LA) (s : State) : Host.Outcome State Fault Refusal :=
  runInstr (.rmaxs f) (laneRed f fun x y => if x.slt y then y else x) s

/-- The tree sum of RFADD over FP32 patterns, with the flags of every addition. -/
def fsumTree (m : Word) (xs : List (Option Nat)) : Nat × Word :=
  (reduceTree (fun (x y : Nat × Word) =>
    let r := fadd fp32 (fmtRM m) (fmtFZ m) x.1 y.1
    (r.1, x.2 ||| y.2 ||| r.2)) (xs.map fun x => x.map fun v => (v, (0 : Word)))).getD (0, 0)

/-- The sum of interval terms: every term is read as R324 gives, also where there is but one. -/
def ivSumTree (xs : List (Option Nat)) : Nat := (reduceTree ivAdd (xs.map fun x => x.map fun v => ivExact (ivRead v))).getD 0

/-- RFADD (R135, R325, R327): its flags are raised where some lane is guard-true. -/
def bodyRfadd (f : LA) (s : State) (c : Ctx) : Done :=
  let m := c.st.fmt
  let ls := guardLanes c f.g
  let iv := fun l => readSlot c .iv f.a.toNat f.lit l
  if fmtB m then
    if pointForm c.g (lowest c.st.mask) then
      let r := fsumTree m (redTerms c fun l => iv l % 2 ^ 32)
      .ok s (writeFlagged c .iv f.d.toNat (ls.map fun l => (l, dup r.1, r.2)))
    else
      .ok s (writeFlagged c .iv f.d.toNat (ls.map fun l => (l, ivSumTree (redTerms c iv), 0)))
  else
    let r := fsumTree m (redTerms c fun l => readSlot c .n f.a.toNat f.lit l)
    .ok s (writeFlagged c .n f.d.toNat (ls.map fun l => (l, r.1, r.2)))

/-- RFADD (R135). -/
def execRfadd (f : LA) (s : State) : Host.Outcome State Fault Refusal := runInstr (.rfadd f) (bodyRfadd f) s

end Sys2Proof.Machine
end

