-- ==== Sys2Proof/Machine/Uniform.lean ====
section
/-! DEFINITION. Uniform arithmetic (R149, R150), votes and lane reads (R136, R137), system values (R138) and the FMT and lk
words (R254). -/

namespace Sys2Proof.Machine

/-! ## Shapes -/

/-- A uniform word with a k result (R149). -/
def uniK (d : BitVec 6) (v : Group → Word) (s : State) (c : Ctx) : Done :=
  .ok s { c with g := writeK c.g d.toNat (v c.g) }

/-- A uniform word with a j result (R149). -/
def uniJ (d : BitVec 6) (v : Group → Dword) (s : State) (c : Ctx) : Done :=
  .ok s { c with g := writeJ c.g d.toNat (v c.g) }

/-- A uniform word with a q result (R136, R149). -/
def uniQ (d : BitVec 6) (v : Ctx → Bool) (s : State) (c : Ctx) : Done :=
  .ok s { c with g := writeQ c.g d.toNat (v c) }

/-- GNOP (R38). -/
def execGnop (f : GN) (s : State) : Host.Outcome State Fault Refusal := runInstr (.gnop f) (fun s c => .ok s c) s

/-! ## Uniform arithmetic -/

/-- KMOV (R149). -/
def execKmov (f : GA) (s : State) : Host.Outcome State Fault Refusal :=
  runInstr (.kmov f) (uniK f.d fun g => readK g f.a.toNat) s

/-- JMOV (R149). -/
def execJmov (f : GA) (s : State) : Host.Outcome State Fault Refusal :=
  runInstr (.jmov f) (uniJ f.d fun g => readJ g f.a.toNat) s

/-- KLIT (R150). -/
def execKlit (f : GI) (s : State) : Host.Outcome State Fault Refusal :=
  runInstr (.klit f) (uniK f.d fun _ => f.imm.setWidth 32) s

/-- KLITH (R150). -/
def execKlith (f : GI) (s : State) : Host.Outcome State Fault Refusal :=
  runInstr (.klith f) (uniK f.d fun g => f.imm ++ (readK g f.d.toNat).extractLsb' 0 16) s

/-- KADD (R149). -/
def execKadd (f : GA) (s : State) : Host.Outcome State Fault Refusal :=
  runInstr (.kadd f) (uniK f.d fun g => readK g f.a.toNat + readK g f.b.toNat) s

/-- JADD (R149). -/
def execJadd (f : GA) (s : State) : Host.Outcome State Fault Refusal :=
  runInstr (.jadd f) (uniJ f.d fun g => readJ g f.a.toNat + readJ g f.b.toNat) s

/-- KSUB (R149). -/
def execKsub (f : GA) (s : State) : Host.Outcome State Fault Refusal :=
  runInstr (.ksub f) (uniK f.d fun g => readK g f.a.toNat - readK g f.b.toNat) s

/-- JSUB (R149). -/
def execJsub (f : GA) (s : State) : Host.Outcome State Fault Refusal :=
  runInstr (.jsub f) (uniJ f.d fun g => readJ g f.a.toNat - readJ g f.b.toNat) s

/-- KMUL (R149). -/
def execKmul (f : GA) (s : State) : Host.Outcome State Fault Refusal :=
  runInstr (.kmul f) (uniK f.d fun g => readK g f.a.toNat * readK g f.b.toNat) s

/-- KAND (R149). -/
def execKand (f : GA) (s : State) : Host.Outcome State Fault Refusal :=
  runInstr (.kand f) (uniK f.d fun g => readK g f.a.toNat &&& readK g f.b.toNat) s

/-- KOR (R149). -/
def execKor (f : GA) (s : State) : Host.Outcome State Fault Refusal :=
  runInstr (.kor f) (uniK f.d fun g => readK g f.a.toNat ||| readK g f.b.toNat) s

/-- KXOR (R149). -/
def execKxor (f : GA) (s : State) : Host.Outcome State Fault Refusal :=
  runInstr (.kxor f) (uniK f.d fun g => readK g f.a.toNat ^^^ readK g f.b.toNat) s

/-- KSHL (R149). -/
def execKshl (f : GA) (s : State) : Host.Outcome State Fault Refusal :=
  runInstr (.kshl f) (uniK f.d fun g => shlN (readK g f.a.toNat) (readK g f.b.toNat).toNat) s

/-- JSHL (R149). -/
def execJshl (f : GA) (s : State) : Host.Outcome State Fault Refusal :=
  runInstr (.jshl f) (uniJ f.d fun g => shlN (readJ g f.a.toNat) (readK g f.b.toNat).toNat) s

/-- KSHRL (R149). -/
def execKshrl (f : GA) (s : State) : Host.Outcome State Fault Refusal :=
  runInstr (.kshrl f) (uniK f.d fun g => shrN (readK g f.a.toNat) (readK g f.b.toNat).toNat) s

/-- JSHRL (R149). -/
def execJshrl (f : GA) (s : State) : Host.Outcome State Fault Refusal :=
  runInstr (.jshrl f) (uniJ f.d fun g => shrN (readJ g f.a.toNat) (readK g f.b.toNat).toNat) s

/-- KSHRA (R149). -/
def execKshra (f : GA) (s : State) : Host.Outcome State Fault Refusal :=
  runInstr (.kshra f) (uniK f.d fun g => sarN (readK g f.a.toNat) (readK g f.b.toNat).toNat) s

/-- KCMP (R149). -/
def execKcmp (f : GA) (s : State) : Host.Outcome State Fault Refusal :=
  runInstr (.kcmp f) (uniQ f.d fun c => intCond (f.x.toNat % 16) (readK c.g f.a.toNat) (readK c.g f.b.toNat)) s

/-- JCMP (R149). -/
def execJcmp (f : GA) (s : State) : Host.Outcome State Fault Refusal :=
  runInstr (.jcmp f) (uniQ f.d fun c => intCond (f.x.toNat % 16) (readJ c.g f.a.toNat) (readJ c.g f.b.toNat)) s

/-- KSEL (R149). -/
def execKsel (f : GA) (s : State) : Host.Outcome State Fault Refusal :=
  runInstr (.ksel f) (uniK f.d fun g => if readQ g (f.x.toNat % 8) then readK g f.a.toNat else readK g f.b.toNat) s

/-- KADDI (R149): imm12 is b:x. -/
def execKaddi (f : GA) (s : State) : Host.Outcome State Fault Refusal :=
  runInstr (.kaddi f) (uniK f.d fun g => readK g f.a.toNat + (f.b ++ f.x).signExtend 32) s

/-! ## Votes and lane reads -/

/-- The lanes of the mask in which predicate a is true (R136). -/
def voters (c : Ctx) (f : GA) : List Nat := (lanesOf c.st.mask).filter fun l => readP c.g l f.a.toNat

/-- VOTE_ANY (R136). -/
def execVoteAny (f : GA) (s : State) : Host.Outcome State Fault Refusal :=
  runInstr (.voteAny f) (uniQ f.d fun c => !(voters c f).isEmpty) s

/-- VOTE_ALL (R136). -/
def execVoteAll (f : GA) (s : State) : Host.Outcome State Fault Refusal :=
  runInstr (.voteAll f) (uniQ f.d fun c => (voters c f) == lanesOf c.st.mask) s

/-- VOTE_NONE (R136). -/
def execVoteNone (f : GA) (s : State) : Host.Outcome State Fault Refusal :=
  runInstr (.voteNone f) (uniQ f.d fun c => (voters c f).isEmpty) s

/-- BALLOT (R136). -/
def execBallot (f : GA) (s : State) : Host.Outcome State Fault Refusal :=
  runInstr (.ballot f) (fun s c => .ok s { c with g := writeJ c.g f.d.toNat (maskOf (voters c f)) }) s

/-- KREAD (R137). -/
def bodyKread (f : GA) (s : State) (c : Ctx) : Done :=
  let i := (readK c.g f.a.toNat).toNat
  if i < c.g.width ∧ c.st.mask.getLsbD i then
    .ok s { c with g := writeQ (writeK c.g f.d.toNat (readV c.g i f.x.toNat)) 7 true }
  else .ok s { c with g := writeQ (writeK c.g f.d.toNat 0) 7 false }

/-- KREAD (R137). -/
def execKread (f : GA) (s : State) : Host.Outcome State Fault Refusal :=
  runInstr (.kread f) (bodyKread f) s

/-! ## System values -/

/-- A little-endian field of a task record (R262): `n` bytes at byte `off`. -/
def tfield (r : BitVec 512) (off n : Nat) : Nat := r.toNat / 2 ^ (8 * off) % 2 ^ (8 * n)

/-- The value of a system-value code (R138), as a number of its width. -/
def sysValue (s : State) (c : Ctx) (x : Nat) : Nat :=
  let l := (launchOf s c.g.team).getD { asid := c.g.ctx, va := 0 }
  let tm := getTeam s c.g.team
  let team := match tm with | some t => tfield t.rcd 2 3 | none => 0
  let nx := lrec l 12 4
  let ny := lrec l 16 4
  match x with
  | 0 => c.g.width
  | 1 => c.g.idx
  | 2 => if lflag l 2 then 0 else if lflag l 3 then team else team % nx
  | 3 => if lflag l 2 ∨ lflag l 3 then 0 else team / nx % ny
  | 4 => if lflag l 2 ∨ lflag l 3 then 0 else team / nx / ny
  | 5 => if lflag l 2 ∨ lflag l 3 then 0 else nx
  | 6 => if lflag l 2 ∨ lflag l 3 then 0 else ny
  | 7 => if lflag l 2 ∨ lflag l 3 then 0 else lrec l 20 4
  | 8 => lrec l 10 1
  | 9 => c.core % 16
  | 10 => c.core % 16 / 2
  | 11 => clusterOf c.core % 8
  | 12 => dieOf c.core
  | 13 => s.time.toNat
  | 14 => lrec l 72 8
  | 15 => match tm with | some t => t.statBase | none => 0
  | 16 => Config.retmin
  | 17 => match tm with | some t => tfield t.rcd 8 8 | none => 0
  | 18 => match tm with | some t => t.left.getD (2 ^ 64 - 1) | none => 2 ^ 64 - 1
  | 19 => c.st.mask.toNat
  | 20 => c.st.fx.toNat
  | 21 => c.st.fx.toNat
  | 22 => c.st.lapse.toNat
  | 23 => c.st.lapse.toNat
  | 24 => c.g.ctx.toNat
  | _ => c.g.nregs

/-- RDSV (R138). -/
def bodyRdsv (f : GA) (s : State) (c : Ctx) : Done :=
  let x := f.x.toNat
  let v := sysValue s c x
  let g := if x = 13 ∨ x = 14 ∨ 17 ≤ x ∧ x ≤ 19 then writeJ c.g f.d.toNat (BitVec.ofNat 64 v)
    else writeK c.g f.d.toNat (BitVec.ofNat 32 v)
  let t := if x = 21 then { c.st with fx := 0 } else if x = 23 then { c.st with lapse := false } else c.st
  .ok s { c with g := g, st := t }

/-- RDSV (R138). -/
def execRdsv (f : GA) (s : State) : Host.Outcome State Fault Refusal :=
  runInstr (.rdsv f) (bodyRdsv f) s

/-! ## FMT and lk -/

/-- SETFMT (R254): CONTROL subcode 4 for bits that must be zero, 5 for a change of B outside a bounds launch (R252). -/
def bodySetfmt (f : GA) (s : State) (c : Ctx) : Done :=
  let v := readK c.g f.a.toNat
  if v.extractLsb' 6 2 ≠ 0 ∨ v.extractLsb' 17 15 ≠ 0 then .trap 8 4 (v.setWidth 64)
  else if fmtB v ≠ fmtB c.st.fmt ∧ !c.g.bounds then .trap 8 5 (v.setWidth 64)
  else .ok s { c with st := { c.st with fmt := v } }

/-- SETFMT (R254). -/
def execSetfmt (f : GA) (s : State) : Host.Outcome State Fault Refusal :=
  runInstr (.setfmt f) (bodySetfmt f) s

/-- SETFMT.LK (R254). -/
def execSetfmtLk (f : GA) (s : State) : Host.Outcome State Fault Refusal :=
  runInstr (.setfmtLk f) (fun s c => .ok s { c with st := { c.st with lk := readJ c.g f.a.toNat } }) s

/-- GETFMT (R254). -/
def execGetfmt (f : GA) (s : State) : Host.Outcome State Fault Refusal :=
  runInstr (.getfmt f) (fun s c => .ok s { c with g := writeK c.g f.d.toNat c.st.fmt }) s

/-- GETFMT.LK (R254). -/
def execGetfmtLk (f : GA) (s : State) : Host.Outcome State Fault Refusal :=
  runInstr (.getfmtLk f) (fun s c => .ok s { c with g := writeJ c.g f.d.toNat c.st.lk }) s

end Sys2Proof.Machine
end

