-- ==== Sys2Proof/Machine/Log.lean ====
section
/-! DEFINITION. The operand log (R72–R75, R385), the store log (R234), and the operations that a strand has sent toward memory
(R210–R220, R230): atomics, compensated pairs, counters and releases as they are performed. -/

namespace Sys2Proof.Machine

/-! ## Strands by their numbers -/

/-- The context of any strand. -/
def ctxAt (s : State) (core slot sid : Nat) : Option Ctx :=
  match getGroup s core slot with
  | none => none
  | some g => (findStrand g sid).map fun t => ⟨core, slot, g, t, t.pc, false⟩

/-- Reads a context's group and strand again. -/
def reCtx (s : State) (c : Ctx) : Option Ctx := (ctxAt s c.core c.slot c.st.sid).map fun x => { x with pc0 := c.pc0 }

/-- Changes a group where it is resident. -/
def onGroup (s : State) (core slot : Nat) (f : Group → Group) : State :=
  match getGroup s core slot with
  | none => s
  | some g => setGroup s (f g)

/-- Changes one strand where it lives. -/
def onStrand (s : State) (core slot sid : Nat) (f : Strand → Strand) : State :=
  onGroup s core slot fun g => { g with strands := g.strands.map fun t => if t.sid = sid then f t else t }

/-- Stops a strand, whatever it is doing, at the instruction `pc` (R284). A strand that is stopped already stays as it is
(R287), and one that stops for a log entry keeps its place and its wait. -/
def stopAt (s : State) (core slot sid cause sub : Nat) (value pc : Dword) (code flags addr : Nat) (log : Option Nat) : State :=
  match ctxAt s core slot sid with
  | none => s
  | some c =>
    match c.st.status with
    | .stopped _ _ => s
    | _ =>
      let kept := match c.st.status with
        | .parked (.retry _) => none
        | .parked w => if log.isSome then some w else none
        | _ => none
      let c := { c with pc0 := pc, st := { c.st with pc := if log.isSome then c.st.pc else pc, fpc := pc, kept := kept } }
      let cur := s.cur
      let s := stopStrand s c cause sub value pc code flags addr log
      if cur = some (core, slot, sid) then s else { s with cur := cur }

/-! ## Sizes and addresses (R71, R72, R213) -/

/-- The access size of a global lane opcode. -/
def gSize (op : Nat) : Nat :=
  if op = 0x71 ∨ op = 0x74 ∨ op = 0x76 then 8 else if op = 0x72 ∨ op = 0x75 ∨ op = 0x77 then 16 else 4

/-- How R64 sees a global lane opcode. -/
def gAcc (op : Nat) : Acc :=
  if op ≤ 0x72 then .load (gSize op) else if op ≤ 0x75 then .store else if op ≤ 0x77 then .sync else .atomic

/-- FLAGS of its records (R281): write and atomic. -/
def gFlags (op : Nat) : Nat := if op ≤ 0x72 then 0 else if op ≤ 0x75 then 1 else 5

/-- The effective addresses of the guard-true lanes (R72). -/
def gEas (c : Ctx) (f : LM) (size : Nat) : List (Nat × Nat) :=
  (guardLanes c f.g).map fun l => (l, (readSlot c .w f.a.toNat f.lit l + f.imm.toNat * size) % 2 ^ 64)

/-- Codes that need no translation: alignment and bits [63:57] (R63). -/
def preCode (align va : Nat) : Option Nat := if va % align ≠ 0 then some 1 else if 2 ^ 57 ≤ va then some 2 else none

/-- The lower code of two, the earlier lane on a tie; with the address (R63). -/
def lowerCode (x : Option (Nat × Nat)) (code va : Nat) : Option (Nat × Nat) :=
  match x with
  | some (c, a) => if code < c then some (code, va) else some (c, a)
  | none => some (code, va)

/-- The lowest code that needs no translation, over lanes. -/
def preCodes (align : Nat) (eas : List (Nat × Nat)) : Option (Nat × Nat) :=
  eas.foldl (fun r e => match preCode align e.2 with | some c => lowerCode r c e.2 | none => r) none

/-- A lane's translation. -/
structure LaneTr where
  lane : Nat
  va : Nat
  pa : Nat
  lg : Nat
  cls : Nat
  deriving DecidableEq, Repr

/-- Translates every lane; the lowest code, if any, with its address (R63, R72). -/
def trLanes (s : State) (core asid : Nat) (a : Acc) (align : Nat) (wr : Bool) :
    List (Nat × Nat) → List LaneTr × Option (Nat × Nat) × State
  | [] => ([], none, s)
  | (l, va) :: t =>
    match translate s core (dieOf core) asid a align va wr with
    | (.ok pa lg cls, s) =>
      let (r, e, s) := trLanes s core asid a align wr t
      (⟨l, va, pa, lg, cls⟩ :: r, e, s)
    | (.code c, s) =>
      let (r, e, s) := trLanes s core asid a align wr t
      (r, match e with | some (c', va') => (if c ≤ c' then some (c, va) else some (c', va')) | none => some (c, va), s)

/-- A code that is logged and replayed. -/
def retryable (c : Nat) : Bool := c == 0x10 || c == 0x11 || c == 0x12

/-! ## The operand log -/

/-- The pages that an entry names (R74). -/
def entryPages (e : LogEntry) : List Nat :=
  match e.op with
  | .access a => a.ea.map fun x => x.2.toNat / 4096
  | .cadd va _ _ => [va.toNat / 4096]
  | .cread va _ _ _ _ => [va.toNat / 4096]
  | .column _ => []
  | .release _ _ => []
  | _ => [e.page]

/-- LogBlocks (R74). -/
def logBlocks (s : State) (c : Ctx) (vas : List Nat) : Bool :=
  (logOf (getCore s c.core) c.slot c.st.sid).any fun e => vas.any fun a => (entryPages e).contains (a / 4096)

/-- The lowest number that no entry of a log holds. -/
def logFree (l : List LogEntry) : Nat := ((List.range 256).find? fun i => !l.any fun e => e.idx == i).getD 255

/-- Adds an entry; a retryable code other than 0x12 posts its record (R63, R69, R74). Code 0 stands for an entry made behind
another. -/
def logAdd (s : State) (core slot sid asid code flags va : Nat) (fpc : Dword) (op : LogOp)
    (rg : Option (Region × Nat)) : State × Nat :=
  let k := getCore s core
  let i := logFree k.olog
  let e : LogEntry := ⟨i, slot, sid, code, va / 4096, op, code == 0, rg⟩
  let s := setCore s core { k with olog := k.olog ++ [e] }
  (if code = 0x10 ∨ code = 0x11 then post s (.strand core slot sid) code 0 asid flags (locStrand core slot i) va fpc.toNat
    else s, i)

/-- Frees an entry. -/
def logDrop (s : State) (core idx : Nat) : State :=
  let k := getCore s core
  setCore s core { k with olog := k.olog.filter fun e => e.idx != idx }

/-! ## The store log (R234) -/

/-- Distinct 64-byte lines of a list of stores. -/
def linesOf (l : List SStore) : List Nat := (l.map fun x => x.va / 64).eraseDups

/-- The lines a core's store log holds. -/
def coreLines (s : State) (core : Nat) : Nat :=
  ((s.groups.filter fun e => e.1 / 1024 == core).map fun e =>
    (e.2.strands.map fun t => (linesOf t.slog).length).sum + (e.2.join.map fun j => (linesOf j.slog).length).sum +
      (linesOf e.2.left).length).sum

/-- Whether stores to these addresses would exceed a limit. -/
def storeOverflow (s : State) (c : Ctx) (vas : List Nat) : Bool :=
  let mine := linesOf c.st.slog
  let new := ((vas.map (· / 64)).eraseDups.filter fun x => !mine.contains x).length
  decide (256 < mine.length + new) || decide (8192 < coreLines (putCtx s c) c.core + new)

/-- A store-log line of the list has an uncorrectable error (R303, kind 6). -/
def badStores (s : State) (core : Nat) (l : List SStore) : Bool :=
  l.any fun x => (mget false (getErr s 6 core).bad (x.va / 8))

/-! ## Words at the Carillon (R207–R211) -/

/-- The kind tag of a unit permits an operation of kind `k`. -/
def kindOk (s : State) (pa : Nat) (k : Kind) : Bool := (getUnit s pa).kind == .free || (getUnit s pa).kind == k

/-- Gives a free unit the kind, finding it zero. -/
def takeUnit (s : State) (pa : Nat) (k : Kind) : State :=
  if (getUnit s pa).kind = .free then
    setUnit (storeMem s (pa / 8 * 8) 8 0) pa { kind := k }
  else s

/-- The value of an operation's location: a free unit reads as zero (R209). -/
def unitRead (s : State) (pa n : Nat) : Nat := if (getUnit s pa).kind = .free then 0 else memRead s.mem pa n

/-- Notes that a die's Carillon has performed an operation (R208). -/
def carUse (s : State) (pa : Nat) : State :=
  let d := getDie s (homeDie pa)
  if d.carUsed then s else setDie s (homeDie pa) { d with carUsed := true }

/-- The new word of an atomic (R71). -/
def atomicOp (op : Nat) (old d dHigh : Word) : Word :=
  match op with
  | 0x78 => old + d
  | 0x79 => if old.slt d then old else d
  | 0x7A => if old.slt d then d else old
  | 0x7B => old &&& d
  | 0x7C => old ||| d
  | 0x7D => old ^^^ d
  | 0x7E => d
  | _ => if old = d then dHigh else old

/-- RN in a format with subnormals kept. -/
def rnAdd (F : Fmt) (a b : Nat) : Nat := (fadd F rmNear false a b).1
def rnSub (F : Fmt) (a b : Nat) : Nat := (fsub F rmNear false a b).1

/-- A pattern that is an infinity or a NaN. -/
def fOdd (F : Fmt) (a : Nat) : Bool := (fdec F a).isOdd

/-- One term of a compensated pair (R214). -/
def pairAdd (F : Fmt) (s e x : Nat) : Nat × Nat :=
  let t := rnAdd F s x
  if fOdd F s ∨ fOdd F x ∨ fOdd F t then (t, 0)
  else
    let z := rnSub F t s
    let err := rnAdd F (rnSub F s (rnSub F t z)) (rnSub F x z)
    (t, rnAdd F e err)

/-- The words of a result of `size` bytes in a lane's registers; code 127 discards it (R17). -/
def vwOf (size d lane x : Nat) : List (Nat × Nat × Word) :=
  if 96 ≤ d then [] else (List.range (size / 4)).map fun i => (lane, d + i, BitVec.ofNat 32 (x / 2 ^ (32 * i)))

/-! ## Performing what a strand has sent (R210, R230) -/

/-- What a strand has written since the order held `n` writes joins what it sees (R232). -/
def sawSince (s : State) (core slot sid n : Nat) : State :=
  onStrand s core slot sid fun t => { t with vis := seenJoin t.vis (seenSince s n) }

/-- Performs a strand's stores to a line, with no release (R234). -/
def flushLine (s : State) (core slot sid pa : Nat) : State :=
  match ctxAt s core slot sid with
  | none => s
  | some c =>
    let l := c.st.slog.filter fun x => match x.pa with | some p => p / 64 == pa / 64 | none => false
    if l.isEmpty then s
    else
      let (s, g, w) := flush s c.g l c.st.vis
      setGroup s (setVis g sid w)

/-- One lane of an atomic (R71, R73, R211): the old word, and the state after. -/
def atomicLane (s : State) (core slot sid op pa : Nat) (sync : Bool) (d : BitVec 128) : Nat × State :=
  let s := flushLine s core slot sid pa
  let s := if sync then takeUnit s pa .words else s
  let old := BitVec.ofNat 32 (memRead s.mem pa 4)
  let v := atomicOp op old (d.extractLsb' 0 32) (d.extractLsb' 32 32)
  let n := s.hist.length
  let s := sawSince (storeMem s pa 4 v.toNat) core slot sid n
  (old.toNat, onStrand s core slot sid fun t => ownWrite t pa 4 v.toNat)

/-- One lane of CREDF or CREDD (R214). -/
def credLane (s : State) (core slot sid op pa : Nat) (d : BitVec 128) : State :=
  let s := flushLine s core slot sid pa
  if op = 0x76 then
    let s := takeUnit s pa .pair32
    let v := memRead s.mem pa 8
    let (x, e) := pairAdd fp32 (v % 2 ^ 32) (v / 2 ^ 32) (d.toNat % 2 ^ 32)
    storeMem s pa 8 (x + 2 ^ 32 * e)
  else
    let s := takeUnit (takeUnit s pa .pair64) (pa + 8) .pair64
    let (x, e) := pairAdd fp64 (memRead s.mem pa 8) (memRead s.mem (pa + 8) 8) (d.toNat % 2 ^ 64)
    storeMem (storeMem s pa 8 x) (pa + 8) 8 e

/-- The kind an opcode needs of a sync unit. -/
def opKind (op : Nat) : Kind := if op = 0x76 then .pair32 else if op = 0x77 then .pair64 else .words

/-- A write of a context that carries an owner tag is accepted at its target (R295); otherwise code 0x44 is posted. -/
def ownedWrite (s : State) (core slot ctx : Nat) (tag : Nat × Nat) (pa : Nat) : Bool × State :=
  if ownerOk s (homeDie pa) (clusterOf core) tag.1 tag.2 then (true, s)
  else (false, post s .device 0x44 0 ctx 1 (locStrand core slot 0) pa 0)

/-- A result that no value will come for: the strand goes on with what it held. -/
def dropPend (g : Group) (id : Nat) : Group := { g with pend := g.pend.filter fun p => p.id != id }

/-- The address of an access's lowest lane. -/
def eaFirst (a : Access) : Nat := match a.ea with | e :: _ => e.2.toNat | [] => 0

/-- The array kind of an access's first location (R302). -/
def kindAt (l : List (Nat × Nat)) : Nat :=
  match l with
  | [] => 4
  | e :: _ => match errOf e.2 with | some (k, _, _) => k | none => 4

/-- An operation that a strand has sent ends in a terminal code or a machine check: it is kept in the operand log, nothing behind it in the
strand's order is performed, and the strand stops, its FPC the instruction's address; a resume replays it (R286, R303, log entry 34,
DEDUCED). -/
def failOp (s : State) (core slot sid asid cause sub code flags : Nat) (value : Nat) (pc : Dword) (op : LogOp) : State :=
  let (s, i) := logAdd s core slot sid asid code flags value pc op none
  let s := setCore s core { (getCore s core) with
    olog := (getCore s core).olog.map fun e => if e.idx = i then { e with go := false } else e }
  stopAt s core slot sid cause sub (BitVec.ofNat 64 (if cause = 18 then i else value)) pc code flags (if cause = 18 then 0 else value)
    (some i)

/-- Every address is still routed as it was: the selectors of its domains have not been rewritten (R47). -/
def routed (s : State) (l : List (Nat × Option Nat)) : Bool := l.all fun x => selectorAt s x.1 == x.2

/-- The selectors under which addresses are routed now. -/
def routes (s : State) (l : List Nat) : List (Nat × Option Nat) := l.map fun a => (a, selectorAt s a)

/-- Performs a lane atomic or compensated addition at the Carillons (R209–R214, R303). -/
def performAtomic (s : State) (core slot sid : Nat) (tag : Nat × Nat) (a : Access) : State :=
  let op := wOp (firstWord a.instr)
  let d := wLd (firstWord a.instr)
  let asid := match getGroup s core slot with | some g => g.ctx.toNat | none => 0
  let bad := a.pas.find? fun e => a.syncL.contains e.1 && !(kindOk s e.2 (opKind op) &&
    (op != 0x77 || kindOk s (e.2 + 8) .pair64))
  match bad with
  | some e =>
    failOp s core slot sid asid 16 9 9 (gFlags op) ((mfind a.ea e.1).getD 0).toNat a.pc (.access a)
  | none =>
    let (err, s) := a.pas.foldl (fun (r : Bool × State) e =>
      let (b, s) := errReadMem r.2 (e.2 / 8 * 8) 8 core asid
      (r.1 || b || (a.syncL.contains e.1 && (getUnit s e.2).bad), s)) (false, s)
    if err then
      let (s, i) := logAdd s core slot sid asid 0x50 (gFlags op) (eaFirst a) a.pc (.access a) none
      match a.pend with | some p => onGroup s core slot fun g => badPend g p (kindAt a.pas) i | none => s
    else
      let pas := a.pas.map Prod.snd
      let s := countLines (countLines s asid false pas) asid true pas
      let (vw, s) := a.pas.foldl (fun (r : List (Nat × Nat × Word) × State) e =>
        let pa := e.2
        let x := (mfind a.data e.1).getD 0
        let (ok, s) := ownedWrite (carUse r.2 pa) core slot asid tag pa
        if !ok then (r.1 ++ (if 0x78 ≤ op then vwOf 4 d e.1 (memRead s.mem pa 4) else []), s)
        else if 0x78 ≤ op then
          let (old, s) := atomicLane s core slot sid op pa (a.syncL.contains e.1) x
          (r.1 ++ vwOf 4 d e.1 old, s)
        else (r.1, credLane s core slot sid op pa x)) ([], s)
      match a.pend with
      | some p => onGroup s core slot fun g => fillPend g p vw [] none
      | none => s

/-- A wait for a counter at `pa` that now holds `v`, at TIME `now` (R218, log entry 40, DEDUCED). -/
def meet (pa v now : Nat) (w : Wait) : Wait :=
  match w with
  | .cwait va (some p) target limit scope met =>
    .cwait va (some p) target limit scope
      (met || (p == pa && decide (target.toNat ≤ v) && limit.all fun l => decide (now ≤ l)))
  | w => w

/-- The Carillon notifies the waiters of a counter as its value changes (R218); one that is stopped keeps its wait (R269). -/
def notify (s : State) (pa : Nat) : State :=
  let f := meet pa (unitRead s pa 8) s.time.toNat
  let g := fun (t : Strand) => { t with
    status := match t.status with | .parked w => .parked (f w) | x => x
    kept := t.kept.map f }
  { s with groups := mmap (fun _ x => { x with strands := x.strands.map g }) s.groups }

/-- The counter addition of R217 on a counter unit. -/
def counterAdd (s : State) (pa inc : Nat) : State :=
  let s := takeUnit s pa .counter
  let v := memRead s.mem pa 8 + inc
  notify (if v < 2 ^ 64 then storeMem s pa 8 v
    else setUnit (storeMem s pa 8 (2 ^ 64 - 1)) pa { (getUnit s pa) with ovf := true }) pa

/-- A unit that has failed, or whose words are in error (R303). -/
def unitBad (s : State) (pa n core ctx : Nat) : Bool × State :=
  let (b, s) := errReadMem s pa n core ctx
  let s := if b then setUnit s pa { (getUnit s pa) with bad := true } else s
  ((getUnit s pa).bad, s)

/-- Performs a CADD (R217). -/
def performCadd (s : State) (core slot sid : Nat) (tag : Nat × Nat) (va : Dword) (pa : Nat) (inc : Word) (pc : Dword) : State :=
  let asid := match getGroup s core slot with | some g => g.ctx.toNat | none => 0
  let s := flushLine (carUse s pa) core slot sid pa
  let (bad, s) := unitBad s pa 8 core asid
  if !kindOk s pa .counter then failOp s core slot sid asid 16 9 9 5 va.toNat pc (.cadd va inc pc)
  else if bad then failOp s core slot sid asid 18 3 0x50 5 va.toNat pc (.cadd va inc pc)
  else
    let (ok, s) := ownedWrite s core slot asid tag pa
    if ok then sawSince (counterAdd (countLines (countLines s asid false [pa]) asid true [pa]) pa inc.toNat) core slot sid s.hist.length
    else s

/-- Performs a CREAD (R219): kinds 0 .cnt, 1 .f32, 2 .f64, 3 .word. -/
def performCread (s : State) (core slot sid : Nat) (va : Dword) (pa kind d pend : Nat) (pc : Dword) : State :=
  let asid := match getGroup s core slot with | some g => g.ctx.toNat | none => 0
  let s := flushLine (carUse s pa) core slot sid pa
  let k : Kind := match kind with | 0 => .counter | 1 => .pair32 | 2 => .pair64 | _ => .words
  let (bad, s) := unitBad s pa (if kind = 2 then 16 else if kind = 3 then 4 else 8) core asid
  if !(kindOk s pa k && (kind != 2 || kindOk s (pa + 8) k)) then
    failOp s core slot sid asid 16 9 9 0 va.toNat pc (.cread va kind d pend pc)
  else if bad then
    failOp s core slot sid asid 18 3 0x50 0 va.toNat pc (.cread va kind d pend pc)
  else
    let s := countLines s asid false [pa]
    let v := unitRead s pa 8
    let w := fun (x : Nat) => BitVec.ofNat 32 x
    let (kw, q) := match kind with
      | 0 => ([(d, w v), (d + 1, w (v / 2 ^ 32))], !(getUnit s pa).ovf)
      | 1 => ([(d, w (rnAdd fp32 (v % 2 ^ 32) (v / 2 ^ 32)))], true)
      | 2 =>
        let x := rnAdd fp64 v (unitRead s (pa + 8) 8)
        ([(d, w x), (d + 1, w (x / 2 ^ 32))], true)
      | _ => ([(d, w (unitRead s pa 4))], true)
    onGroup s core slot fun g => fillPend g pend [] kw (some q)

/-- A failed line of a store log is logged for its core (R302, kind 6). -/
def logBadStores (s : State) (core ctx : Nat) (l : List SStore) : State :=
  match l.find? fun x => mget false (getErr s 6 core).bad (x.va / 8) with
  | some x => errLog s 6 core true ctx 0 x.va core
  | none => s

/-- Performs a release that a strand has issued (R230–R232): a failed line stops the strand at the release (R303). -/
def performRelease (s : State) (core slot sid scope : Nat) (pc : Dword) : State :=
  match ctxAt s core slot sid with
  | none => s
  | some c =>
    if badStores s core c.st.slog then
      failOp (logBadStores s core c.g.ctx.toNat c.st.slog) core slot sid c.g.ctx.toNat 18 6 0x50 1 0 pc (.release scope pc)
    else
      let (s, g) := doRelease s c.g sid scope
      setGroup s g

/-- A release made by an instruction as part of its own execution: a failed store-log line stops the strand (R303). -/
def withRelease (s : State) (c : Ctx) (scope : Nat) (k : State → Ctx → Done) : Done :=
  if badStores s c.core c.st.slog then
    .gone (stopStrand (logBadStores s c.core c.g.ctx.toNat c.st.slog)
      { c with st := { c.st with pc := c.pc0, fpc := c.pc0 } } 18 6 0 c.pc0 0x50 1 0 none)
  else
    let (s, c) := releaseCtx s c scope
    k s c

/-- Whether a queued operation is one of the tree engine, which has steps of its own (R344). -/
def MemOp.isTree : MemOp → Bool
  | .tree _ _ _ _ _ _ _ => true
  | _ => false

/-- Performs one operation; one that is no longer routed as it was is refused (R47). -/
def performOp (s : State) (core slot : Nat) (x : Sent) : State :=
  let asid := match getGroup s core slot with | some g => g.ctx.toNat | none => 0
  let ok := routed s x.sels
  match x.op with
  | .release scope pc => performRelease s core slot x.sid scope pc
  | .atomic a =>
    if ok then performAtomic s core slot x.sid x.tag a
    else failOp s core slot x.sid asid 16 8 8 (gFlags (wOp (firstWord a.instr))) (eaFirst a) a.pc (.access a)
  | .cadd va pa inc pc =>
    if ok then performCadd s core slot x.sid x.tag va pa inc pc
    else failOp s core slot x.sid asid 16 8 8 5 va.toNat pc (.cadd va inc pc)
  | .cread va pa kind d pend pc =>
    if ok then performCread s core slot x.sid va pa kind d pend pc
    else failOp s core slot x.sid asid 16 8 8 0 va.toNat pc (.cread va kind d pend pc)
  | .tree _ _ _ _ _ _ _ => s

/-- The index of the first operation of a strand that `f` accepts. -/
def opIndex (g : Group) (sid : Nat) (f : MemOp → Bool) : Option Nat := g.ops.findIdx? fun x => x.sid == sid && f x.op

/-- The code of an entry that stands in the way of the strand's later operations: one of a failed operation. -/
def LogEntry.failed (e : LogEntry) : Bool := e.code == 8 || e.code == 9 || e.code == 0x50

/-- Performs the first queued operation of a strand that is no tree operation (log entry 9, DESIGN CHOICE). -/
def performNext (s : State) (core slot sid : Nat) (f : MemOp → Bool) : State :=
  match getGroup s core slot with
  | none => s
  | some g =>
    match opIndex g sid (fun o => !o.isTree) with
    | none => s
    | some i =>
      match g.ops[i]? with
      | none => s
      | some x =>
        if f x.op && !((logOf (getCore s core) slot sid).any LogEntry.failed) then
          performOp (setGroup s { g with ops := g.ops.eraseIdx i }) core slot x
        else s

/-- Performs every queued operation of a strand but the tree operations, in program order (R210, R230). -/
def drainOps (s : State) (core slot sid : Nat) : Nat → State
  | 0 => s
  | n + 1 => drainOps (performNext s core slot sid fun _ => true) core slot sid n

/-- How many operations a strand has queued. -/
def opCount (s : State) (core slot sid : Nat) : Nat :=
  match getGroup s core slot with
  | none => 0
  | some g => g.ops.countP fun x => x.sid == sid

/-- The strand's earlier operations are performed before the instruction goes on: none when one of them stopped the
strand. -/
def drained (s : State) (c : Ctx) : State × Option Ctx :=
  if c.g.ops.any fun x => x.sid == c.st.sid && !x.op.isTree then
    let s := drainOps (putCtx s c) c.core c.slot c.st.sid (c.g.ops.length)
    match reCtx s c with
    | some c => (s, if s.cur.isNone then none else some c)
    | none => (s, none)
  else (s, some c)

/-- Queues an operation of a strand that names physical addresses, with its team's owner tag (R295). -/
def queueOp (s : State) (c : Ctx) (pas : List Nat) (o : MemOp) : Ctx :=
  { c with g := { c.g with ops := c.g.ops ++ [⟨c.st.sid, teamTag s c.g.team, routes s pas, o⟩] } }

/-- A body that first performs the strand's earlier operations. -/
def afterOps (body : State → Ctx → Done) (s : State) (c : Ctx) : Done :=
  match drained s c with
  | (s, some c) => body s c
  | (s, none) => .gone s

end Sys2Proof.Machine
end

