-- ==== Sys2Proof/Machine/ColumnExec.lean ====
section
/-! DEFINITION. The column instructions (R98–R113, R118): loads, stores and updates with their passes, OALLOC, OFREE, ORENEW and
OSWAP. -/

namespace Sys2Proof.Machine

/-! ## Addresses, faults, passes -/

/-- The core a column address names (R98): the partner of the pair with bit 30 set. -/
def colCore (core ea : Nat) : Nat := if bits ea 30 30 = 1 then core ^^^ 1 else core

/-- One lane's column access: lane, core, byte address, the 32-bit address. -/
structure CReq where
  lane : Nat
  core : Nat
  a : Nat
  ea : Nat
  deriving DecidableEq, Repr

/-- The column accesses of a word (R105). -/
def colReqs (c : Ctx) (f : LM) (size : Nat) : List CReq :=
  (guardLanes c f.g).map fun l =>
    let ea := (readSlot c .n f.a.toNat f.lit l + f.imm.toNat * size) % 2 ^ 32
    ⟨l, colCore c.core ea, ea % 2 ^ 25, ea⟩

/-- The COLUMN trap of a list of accesses: the lowest subcode, and the address of the lowest lane that fails (R100, log entry 20, DEDUCED). -/
def colTrap (s : State) (ctx : BitVec 8) (size : Nat) (rs : List CReq) : Option (Nat × Nat) :=
  rs.foldl (fun t r =>
    let x := colFault (getCore s r.core).col ctx r.ea size
    if x = 0 then t
    else
      match t with
      | some (y, ea) => some (min x y, ea)
      | none => some (x, r.ea)) none

/-- The guard-true lanes together write all of a sector (R110). -/
def fullWrite (rs : List CReq) (size core sec : Nat) : Bool :=
  (List.range (64 / size)).all fun i => rs.any fun r => r.core == core && r.a == 64 * sec + i * size

/-- The sectors touched, as core and number. -/
def reqSectors (rs : List CReq) : List (Nat × Nat) := (rs.map fun r => (r.core, r.a / 64)).eraseDups

/-- A sector's base in the form of R98 for the issuing core. -/
def sectorEa (core k sec : Nat) : Nat := 64 * sec + (if k = core then 0 else 2 ^ 30)

/-- The lowest of a list of numbers. -/
def least (l : List Nat) : Option Nat := l.foldl (fun m x => match m with | some y => some (min x y) | none => some x) none

/-- The EXPIRED trap of a list of accesses (R105): the base of the lowest trapping, expired sector that is not wholly
written (log entry 20, DEDUCED). -/
def expTrap (s : State) (core size : Nat) (store : Bool) (rs : List CReq) : Option Nat :=
  least (((reqSectors rs).filter fun x =>
    trapExpired (getCore s x.1).col x.2 s.time.toNat && !(store && fullWrite rs size x.1 x.2)).map fun x =>
      sectorEa core x.1 x.2)

/-- Distinct words by bank of one sub-access: the passes it takes (R102). -/
def passesOf (size : Nat) (as_ : List Nat) : Nat :=
  let words := (as_.flatMap fun a => (List.range (size / 4)).map fun i => a / 4 + i).eraseDups
  (List.range 32).foldl (fun m b => max m (words.countP fun w => w % 32 == b)) 0

/-- P − Pmin over the own-column lanes (R102, R103). -/
def extraPasses (core size : Nat) (rs : List CReq) : Nat :=
  let per := 128 / size
  ((List.range (64 / per)).map fun i =>
    let l := (rs.filter fun r => r.core == core && r.lane / per == i).map (·.a)
    if l.isEmpty then 0 else passesOf size l - 1).sum

/-- Accesses to a page in exchange wait until the exchange has ended (R118, log entry 19, DEDUCED). -/
def settleFor (s : State) (core a : Nat) : State :=
  match (getCore s core).col.busy with
  | some (x, y) => if a / 65536 = x ∨ a / 65536 = y then settle s core else s
  | none => s

/-- The words that accesses touch are read: true when one meets an uncorrectable error (R303). -/
def colErr (s : State) (ctx size : Nat) (rs : List CReq) : Bool × State :=
  rs.foldl (fun x r => (List.range ((size + 7) / 8)).foldl (fun x i =>
    let (b, s) := errRead x.2 0 r.core (r.a / 8 + i) (8 * (r.a / 8 + i)) r.core ctx
    (x.1 || b, s)) x) (false, s)

/-- A strand's column read that met an uncorrectable error (R303): logged, and the strand stops at the instruction, which has been charged
(R299). -/
def colStop (s : State) (c : Ctx) (core : Nat) : State :=
  let c := { c with st := { c.st with pc := c.pc0, fpc := c.pc0, paid := true } }
  let (s, i) := logAdd s core c.slot c.st.sid c.g.ctx.toNat 0x50 0 0 c.pc0 (.column c.pc0) none
  stopStrand s c 18 0 (BitVec.ofNat 64 i) c.pc0 0x50 0 0 (some i)

/-! ## Loads, stores and updates (R104–R106) -/

/-- The checks of R105, made once no page touched is in exchange (R118), and what follows them. -/
def colChecked (f : LM) (size : Nat) (store reads : Bool) (k : State → Ctx → List CReq → Done) (s : State) (c : Ctx) : Done :=
  let rs := colReqs c f size
  let s := rs.foldl (fun s r => settleFor s r.core r.a) s
  match colTrap s c.g.ctx size rs with
  | some (sub, ea) => .trap 5 sub (BitVec.ofNat 64 ea)
  | none =>
    match expTrap s c.core size store rs with
    | some ea => .trap 6 0 (BitVec.ofNat 64 ea)
    | none =>
      if reads then
        match colErr s c.g.ctx.toNat size rs with
        | (true, s) => .gone (colStop s c c.core)
        | (false, s) => k s c rs
      else k s c rs

/-- The slot of a column data code by size. -/
def colSK (size : Nat) : SK := if size = 4 then .n else if size = 8 then .w else .q

/-- Scoreboard keys of a load's result: its registers and its latch position. -/
def loadKeys (c : Ctx) (size d : Nat) : List Nat := (256 + c.st.lat.length) :: dstKeys (colSK size) d

/-- A column load past its checks (R105, R109): own lanes at a fixed latency, partner lanes as a result in flight. -/
def loadCol (f : LM) (size : Nat) (s : State) (c : Ctx) (rs : List CReq) : Done :=
  let t := s.time.toNat
  let vals := rs.map fun r => (r, colReadAt (getCore s r.core).col t r.a size)
  let lapsed := rs.any fun r => lapExpired (getCore s r.core).col (r.a / 64) t
  let own := (vals.filter fun x => x.1.core == c.core).map fun x => (x.1.lane, x.2)
  let far := vals.filter fun x => x.1.core != c.core
  let d := f.d.toNat
  let keys := loadKeys c size d
  let c := if far.isEmpty then writeLanes c (colSK size) d own
    else pushLatch { c with g := own.foldl (fun g r => writeDst g (colSK size) d r.1 r.2) c.g } .void
  let c := if far.isEmpty ∨ 96 ≤ d then c
    else
      { c with g := addPend c.g {
          id := c.g.nextId
          lanes := maskOf (far.map fun x => x.1.lane)
          vregs := (List.range (size / 4)).map (· + d)
          filled := true
          vw := far.flatMap fun x => vwOf size d x.1.lane x.2 } }
  .ok s { c with st := stall { c.st with lapse := c.st.lapse || lapsed } (extraPasses c.core size rs) keys }

/-- One write of a lane to its sector. -/
def putCol (s : State) (whole : Bool) (core a n v : Nat) : State :=
  let k := getCore s core
  errWrite (setCore s core { k with col := sectorWrite k.col s.time.toNat whole a n v }) 0 core (a / 8)

/-- A column store past its checks (R105, R110): ascending lanes, so the highest-numbered supplies a shared word. -/
def storeCol (f : LM) (size : Nat) (s : State) (c : Ctx) (rs : List CReq) : Done :=
  let t := s.time.toNat
  let lapsed := rs.any fun r =>
    lapExpired (getCore s r.core).col (r.a / 64) t && !fullWrite rs size r.core (r.a / 64)
  let s := rs.foldl (fun s r =>
    let v := readSlot c (colSK size) f.d.toNat f.lit r.lane
    let s := putCol s (fullWrite rs size r.core (r.a / 64)) r.core r.a size v
    if size = 16 then errWrite s 0 r.core (r.a / 8 + 1) else s) s
  let c := pushLatch c .void
  .ok s { c with st := stall { c.st with lapse := c.st.lapse || lapsed } (extraPasses c.core size rs) [] }

/-- OADD and OMAXU past their checks (R106): ascending lanes. -/
def updateCol (f : LM) (op : Word → Word → Word) (s : State) (c : Ctx) (rs : List CReq) : Done :=
  let t := s.time.toNat
  let lapsed := rs.any fun r => lapExpired (getCore s r.core).col (r.a / 64) t
  let s := rs.foldl (fun s r =>
    let old := BitVec.ofNat 32 (colReadAt (getCore s r.core).col t r.a 4)
    putCol s false r.core r.a 4 (op old (BitVec.ofNat 32 (readSlot c .n f.d.toNat f.lit r.lane))).toNat) s
  let c := pushLatch c .void
  .ok s { c with st := stall { c.st with lapse := c.st.lapse || lapsed } (extraPasses c.core 4 rs) [] }

/-- LDO (R104). -/
def execLdo (f : LM) (s : State) : Host.Outcome State Fault Refusal :=
  runInstr (.ldo f) (colChecked f 4 false true (loadCol f 4)) s

/-- LDO.D (R104). -/
def execLdoD (f : LM) (s : State) : Host.Outcome State Fault Refusal :=
  runInstr (.ldoD f) (colChecked f 8 false true (loadCol f 8)) s

/-- LDO.Q (R104). -/
def execLdoQ (f : LM) (s : State) : Host.Outcome State Fault Refusal :=
  runInstr (.ldoQ f) (colChecked f 16 false true (loadCol f 16)) s

/-- STO (R104). -/
def execSto (f : LM) (s : State) : Host.Outcome State Fault Refusal :=
  runInstr (.sto f) (colChecked f 4 true false (storeCol f 4)) s

/-- STO.D (R104). -/
def execStoD (f : LM) (s : State) : Host.Outcome State Fault Refusal :=
  runInstr (.stoD f) (colChecked f 8 true false (storeCol f 8)) s

/-- STO.Q (R104). -/
def execStoQ (f : LM) (s : State) : Host.Outcome State Fault Refusal :=
  runInstr (.stoQ f) (colChecked f 16 true false (storeCol f 16)) s

/-- OADD (R104, R106). -/
def execOadd (f : LM) (s : State) : Host.Outcome State Fault Refusal :=
  runInstr (.oadd f) (colChecked f 4 false true (updateCol f fun x y => x + y)) s

/-- OMAXU (R104, R106). -/
def execOmaxu (f : LM) (s : State) : Host.Outcome State Fault Refusal :=
  runInstr (.omaxu f) (colChecked f 4 false true (updateCol f fun x y => if x.ult y then y else x)) s

/-! ## Allocating, freeing, renewing (R111–R113) -/

/-- A non-idempotent instruction has been performed: a region begins at the next instruction (R125). -/
def newRegion (c : Ctx) : Ctx := { c with st := regionAt c.st }

/-- Writes k[d] and q7. -/
def writeKq (c : Ctx) (d : Nat) (v : Word) (q : Bool) : Ctx := { c with g := writeQ (writeK c.g d v) 7 q }

/-- Writes q7 alone. -/
def writeQ7 (c : Ctx) (q : Bool) : Ctx := { c with g := writeQ c.g 7 q }

/-- The class named by a code (R107). -/
def clsOf (x : Nat) : Cls := match x with | 0 => .ref | 1 => .lap | _ => .trap

/-- A lifetime that R107 permits for a class. -/
def lifeOk (cls l : Nat) : Bool :=
  if cls = 0 then l == 0 else decide (1 ≤ l ∧ l ≤ min 65535 (Config.retmin / 64))

/-- The live dynamic allocations of a team, on all its cores: of each the piece at its base. -/
def dynAllocs (s : State) (team : Nat) : Nat :=
  (s.cores.map fun e => e.2.col.allocs.countP fun al => al.team == team && !al.static && al.off == 0).sum

/-- OALLOC (R111). -/
def bodyOalloc (f : GA) (s : State) (c : Ctx) : Done :=
  let size := (readK c.g f.a.toNat).toNat
  let l := (readK c.g f.b.toNat).toNat
  let cls := f.x.toNat % 4
  let d := f.d.toNat
  let fail : Done := .ok s (newRegion (writeKq c d 0xFFFFFFFF false))
  if size = 0 ∨ colBytes < size ∨ !lifeOk cls l ∨ 64 ≤ dynAllocs s c.g.team then fail
  else
    match lowestRun (getCore s c.core).col.tags 0 ((size + 255) / 256), getTeam s c.g.team with
    | some gr, some tm =>
      let s := allocate s c.core {
        base := 256 * gr, size := size, cls := clsOf cls, life := l, ctx := c.g.ctx, team := c.g.team, num := tm.nextAlloc
        static := false, born := s.time.toNat, root := 256 * gr }
      let s := errWrites s 0 c.core fun w => decide (32 * gr ≤ w ∧ 8 * w < 256 * gr + size)
      .ok (setTeam s { tm with nextAlloc := tm.nextAlloc + 1 })
        (newRegion (writeKq c d (BitVec.ofNat 32 (256 * gr)) true))
    | _, _ => fail

/-- OALLOC (R111). -/
def execOalloc (f : GA) (s : State) : Host.Outcome State Fault Refusal := runInstr (.oalloc f) (bodyOalloc f) s

/-- OFREE (R112): the dynamic allocation of the team whose base is k[a], all of it; granules that it frees call for a pass of the
cluster's dispatcher (R267). -/
def bodyOfree (f : GA) (s : State) (c : Ctx) : Done :=
  let a := (readK c.g f.a.toNat).toNat
  match (getCore s c.core).col.allocs.find? fun al =>
      al.base == a && al.off == 0 && al.team == c.g.team && !al.static with
  | some al => .ok (askPass (releaseAll s c.core al) (clusterOf c.core)) (newRegion (writeQ7 c true))
  | none => .ok s (newRegion (writeQ7 c false))

/-- OFREE (R112). -/
def execOfree (f : GA) (s : State) : Host.Outcome State Fault Refusal := runInstr (.ofree f) (bodyOfree f) s

/-- The accesses of ORENEW: one to every covered sector, in the form of R98. -/
def renewReqs (core ka kb : Nat) : List CReq :=
  (sectorsOf (ka % 2 ^ 25) kb).map fun x =>
    let ea := ka / 2 ^ 25 * 2 ^ 25 + 64 * x
    ⟨0, colCore core ka, 64 * x, ea⟩

/-- The COLUMN trap of a range of sectors (R100, R113); a range that leaves the column fails with subcode 1. -/
def renewTrap (s : State) (ctx : BitVec 8) (ka : Nat) (rs : List CReq) : Option (Nat × Nat) :=
  let col := fun (r : CReq) => (getCore s r.core).col
  rs.foldl (fun t r =>
    let x := if colBytes ≤ r.a ∨ bits ka 31 31 ≠ 0 ∨ bits ka 29 25 ≠ 0 then 1
      else if !ownedBy (col r) ctx r.a then 3 else 0
    if x = 0 then t
    else
      match t with
      | some (y, ea) => some (min x y, ea)
      | none => some (x, r.ea)) none

/-- ORENEW (R113). -/
def bodyOrenew (f : GA) (s : State) (c : Ctx) : Done :=
  let ka := (readK c.g f.a.toNat).toNat
  let kb := (readK c.g f.b.toNat).toNat
  if kb = 0 ∨ 65536 < kb then .ok s (writeQ7 c false)
  else
    let rs := renewReqs c.core ka kb
    let s := rs.foldl (fun s r => settleFor s r.core r.a) s
    match renewTrap s c.g.ctx ka rs with
    | some (sub, ea) => .trap 5 sub (BitVec.ofNat 64 ea)
    | none =>
      match expTrap s c.core 64 false rs with
      | some ea => .trap 6 0 (BitVec.ofNat 64 ea)
      | none =>
        match colErr s c.g.ctx.toNat 64 rs with
        | (true, s) => .gone (colStop s c c.core)
        | (false, s) =>
          let t := s.time.toNat
          let lapsed := rs.any fun r => lapExpired (getCore s r.core).col (r.a / 64) t
          let s := rs.foldl (fun s r =>
            let k := getCore s r.core
            errWrites (setCore s r.core { k with col := sectorWrite k.col t false r.a 0 0 }) 0 r.core
              fun w => w / 8 == r.a / 64) s
          let c := writeQ7 { c with st := { c.st with lapse := c.st.lapse || lapsed } } true
          .ok s { c with st := { c.st with sb := mput c.st.sb 226 (c.st.cyc + (rs.length + 1) / 2) } }

/-- ORENEW (R113). -/
def execOrenew (f : GA) (s : State) : Host.Outcome State Fault Refusal := runInstr (.orenew f) (bodyOrenew f) s

/-! ## OSWAP (R118) -/

/-- A page of 64 KiB that OSWAP may name: none otherwise. -/
def swapPage (k : Core) (x : Nat) : Option Nat :=
  if x % 65536 ≠ 0 ∨ colBytes ≤ x then none
  else if k.col.tags.any fun e => decide (e.1 / 256 = x / 65536) && (match e.2 with | .reg _ => true | _ => false) then none
  else some (x / 65536)

/-- The exchange of two pages of a core, with the error words that they hold (R118, R305). -/
def exchange (s : State) (core x y : Nat) : State :=
  let k := getCore s core
  let e := getErr s 0 core
  let s := setCore s core { k with col := swapPages k.col x y }
  if e.bad = [] then s else setErr s 0 core { e with bad := swapKeys (8192 * x) (8192 * y) 8192 e.bad }

/-- OSWAP (R118): starts the exchange of two pages. -/
def bodyOswap (f : GA) (s : State) (c : Ctx) : Done :=
  let s := settle s c.core
  let k := getCore s c.core
  match swapPage k (readK c.g f.a.toNat).toNat, swapPage k (readK c.g f.b.toNat).toNat with
  | some x, some y => if x = y then .ok s (writeQ7 c false) else .ok (exchange s c.core x y) (writeQ7 c true)
  | _, _ => .ok s (writeQ7 c false)

/-- OSWAP (R118). -/
def execOswap (f : GA) (s : State) : Host.Outcome State Fault Refusal := runInstr (.oswap f) (bodyOswap f) s

end Sys2Proof.Machine
end

