-- ==== Sys2Proof/Machine/GlobalExec.lean ====
section
/-! DEFINITION. Global accesses (R71–R75), compensated pairs and counters (R213–R219), phases (R221) and the replay of the
operand log (R75, R385). -/

namespace Sys2Proof.Machine

/-! ## Channel counters as a load reads them (R48–R52) -/

/-- A 64-bit register of a counter block, by its offset in the die's counter window, as it stood at the end of the previous tick (R52). An
8-byte load of the first returns CHCTL and CHFILT side by side (log entry 45, DEDUCED). -/
def chanDword (s : State) (d o : Nat) : Nat :=
  if 0x2800 ≤ o then 0
  else
    let ch := mget {} (getDie s d).chans (o / 64)
    let i := o % 64 / 8
    if i = 0 then ch.frozen.toNat + 2 ^ 32 * (ch.filtCtx.toNat + 2 ^ 8 * ch.filtEn.toNat + 2 ^ 9 * ch.filtInv.toNat)
    else if i ≤ 5 then
      let x := mget {} ch.seen (i - 1)
      x.count.toNat + 2 ^ 63 * x.sat.toNat
    else 0

/-- A 4- or 8-byte load of the counter window. -/
def chanRead (s : State) (d o n : Nat) : Nat :=
  chanDword s d (o / 8 * 8) / 2 ^ (8 * (o % 8)) % 2 ^ (8 * n)

/-- The value of a load (R233): a device page is read where it stands. -/
def loadVal (s : State) (t : Strand) (pa n : Nat) : Nat :=
  match place pa with
  | .ctr d o => chanRead s d o n
  | _ => viewRead t pa n

/-! ## Performing an access (R72) -/

/-- The values of a load's lanes. -/
def loadWords (s : State) (t : Strand) (size d : Nat) (ls : List LaneTr) : List (Nat × Nat × Word) :=
  ls.flatMap fun x => vwOf size d x.lane (loadVal s t x.pa size)

/-- A load's lines are read at memory: true when one fails (R303). -/
def loadErr (s : State) (core ctx size : Nat) (ls : List LaneTr) : Bool × State :=
  ls.foldl (fun r x =>
    let (b, s) := errReadMem r.2 x.pa size core ctx
    (r.1 || b, s)) (false, s)

/-- A result in flight for the lanes of an access: none when no lane or no register waits for it. -/
def loadPend (c : Ctx) (size d : Nat) (eas : List (Nat × Nat)) : Option Pend :=
  if eas.isEmpty ∨ 96 ≤ d then none
  else some { id := c.g.nextId, lanes := maskOf (eas.map Prod.fst), vregs := (List.range (size / 4)).map (· + d) }

/-- Adds a result in flight. -/
def withPend (c : Ctx) (p : Option Pend) : Ctx := match p with | some p => { c with g := addPend c.g p } | none => c

/-- The data of a store or atomic by lane. -/
def gData (c : Ctx) (f : LM) (k : SK) : List (Nat × BitVec 128) :=
  (guardLanes c f.g).map fun l => (l, BitVec.ofNat 128 (readSlot c k f.d.toNat f.lit l))

/-- An access as logged (R74). -/
def accessOf (i : Instr) (c : Ctx) (eas : List (Nat × Nat)) (data : List (Nat × BitVec 128)) (pend store : Option Nat) :
    Access :=
  ⟨i, c.pc0, eas.map fun e => (e.1, BitVec.ofNat 64 e.2), data, pend, store, [], []⟩

/-- Puts stores of an access into the strand's store log; with no translation they are held for their line (R234). -/
def logStores (c : Ctx) (size epoch : Nat) (eas : List (Nat × Nat)) (data : List (Nat × BitVec 128)) : Ctx :=
  let l := eas.zipIdx.map fun (e, i) =>
    ({ id := c.g.nextId + i, va := e.2, size := size, pa := none, val := ((mfind data e.1).getD 0).toNat, young := true
       epoch := epoch, lg := 12, lane := e.1 } : SStore)
  { c with
    st := { c.st with slog := c.st.slog ++ l }
    g := { c.g with nextId := c.g.nextId + eas.length } }

/-- Gives the stores numbered from `base` their places and routes, and records them as writes of the phase (R47, R233). -/
def placeStores (s : State) (t : Strand) (base size epoch : Nat) (ls : List LaneTr) (data : List (Nat × BitVec 128)) : Strand :=
  ls.zipIdx.foldl (fun t (x, i) =>
    let v := ((mfind data x.lane).getD 0).toNat
    ownWrite { t with slog := t.slog.map fun y =>
      if y.id = base + i then { y with pa := some x.pa, epoch := epoch, lg := x.lg, sel := selectorAt s x.pa } else y } x.pa size v) t

/-- The queued form of an access with its translation. -/
def placed (a : Access) (ls : List LaneTr) : Access :=
  { a with pas := ls.map fun x => (x.lane, x.pa), syncL := (ls.filter fun x => x.cls == 1).map (·.lane) }

/-- Which of the three kinds of R71 a global opcode is. -/
def gLoad (op : Nat) : Bool := decide (op ≤ 0x72)
def gStore (op : Nat) : Bool := decide (0x73 ≤ op ∧ op ≤ 0x75)

/-- The slot of a global data code. -/
def gSK (op : Nat) : SK :=
  if op = 0x77 then .f else if op = 0x7F then .w else if gSize op = 8 ∧ op ≠ 0x76 then .w
  else if gSize op = 16 then .q else .n

/-- Logs an access (R72, R74): a load or atomic leaves its result pending, a store holds its line. -/
def logAccess (i : Instr) (s : State) (c : Ctx) (code va : Nat) (eas : List (Nat × Nat)) (data : List (Nat × BitVec 128))
    (p : Option Pend) : Done :=
  let op := wOp (firstWord i)
  let base := c.g.nextId
  let a := accessOf i c eas data (p.map (·.id)) (if gStore op then some base else none)
  let c := if gStore op then logStores c (gSize op) s.epoch eas data else withPend c p
  let rg := if 0x76 ≤ op then some ((regionAt c.st).region, c.g.nextId) else none
  let (s, _) := logAdd (putCtx s c) c.core c.slot c.st.sid c.g.ctx.toNat code (gFlags op) va c.pc0 (.access a) rg
  .ok s (pushLatch c .void)

/-- A global access past translation (R72). -/
def performAccess (i : Instr) (s : State) (c : Ctx) (ls : List LaneTr) (eas : List (Nat × Nat))
    (data : List (Nat × BitVec 128)) (p : Option Pend) : Done :=
  let op := wOp (firstWord i)
  let d := wLd (firstWord i)
  let c := pushLatch c .void
  if gLoad op then
    match loadErr (countLines s c.g.ctx.toNat false (ls.map (·.pa))) c.core c.g.ctx.toNat (gSize op) ls with
    | (true, s) =>
      let a := accessOf i c eas data (p.map (·.id)) none
      let (s, i) := logAdd s c.core c.slot c.st.sid c.g.ctx.toNat 0x50 0 (eaFirst a) c.pc0 (.access a) none
      .ok s (withPend c (p.map fun p => { p with bad := some (kindAt (ls.map fun x => (x.lane, x.pa)), i) }))
    | (false, s) =>
      let vw := loadWords s c.st (gSize op) d ls
      .ok s (withPend c (p.map fun p => { p with filled := true, vw := vw }))
  else if gStore op then
    let base := c.g.nextId
    let c := logStores c (gSize op) s.epoch eas data
    .ok s { c with st := placeStores s c.st base (gSize op) s.epoch ls data }
  else
    let a := placed (accessOf i c eas data (p.map (·.id)) none) ls
    .ok s (newRegion (queueOp s (withPend c p) (ls.map (·.pa)) (.atomic a)))

/-- The result an atomic or load leaves pending. -/
def gPend (c : Ctx) (op d : Nat) (eas : List (Nat × Nat)) : Option Pend :=
  if gLoad op then loadPend c (gSize op) d eas
  else if 0x78 ≤ op then (loadPend c 4 d eas).map fun p => { p with car := true }
  else none

/-- A store that would exceed a limit first makes an implicit release at .gp, with a region at the store (R234). -/
def makeRoom (s : State) (c : Ctx) (k : State → Ctx → Done) : Done :=
  withRelease s { c with st := regionAt { c.st with pc := c.pc0 } } 1 fun s c' =>
    k s { c' with st := { c'.st with pc := c.st.pc } }

/-- A global access of a lane word that finds room for its stores (R72). -/
def goGlobal (i : Instr) (f : LM) (s : State) (c : Ctx) : Done :=
  let op := wOp (firstWord i)
  let size := gSize op
  let eas := gEas c f size
  let data := if gLoad op then [] else gData c f (gSK op)
  let p := gPend c op f.d.toNat eas
  match preCodes size eas with
  | some (code, va) => .gone (terminalFault s c code (gFlags op) (BitVec.ofNat 64 va))
  | none =>
    if logBlocks s c (eas.map Prod.snd) then
      logAccess i s c 0 ((eas.find? fun e => logBlocks s c [e.2]).map Prod.snd |>.getD 0) eas data p
    else
      match trLanes s c.core c.g.ctx.toNat (gAcc op) size (0x73 ≤ op) eas with
      | (_, some (code, va), s) =>
        if retryable code then logAccess i s c code va eas data p
        else .gone (terminalFault s c code (gFlags op) (BitVec.ofNat 64 va))
      | (ls, none, s) => performAccess i s c ls eas data p

/-- What the release of a full store log waits for (R74, R204, R230). -/
def roomBlock : Block := { logEmpty := true, mmDone := true }

/-- Every global access of a lane word (R72, R234). -/
def bodyGlobal (i : Instr) (f : LM) (s : State) (c : Ctx) : Done :=
  let op := wOp (firstWord i)
  if gStore op ∧ storeOverflow s c ((gEas c f (gSize op)).map Prod.snd) then
    if unblocked s c.g c.st roomBlock then makeRoom s c (goGlobal i f) else .wait roomBlock
  else goGlobal i f s c

/-- LDG (R71). -/
def execLdg (f : LM) (s : State) : Host.Outcome State Fault Refusal := runInstr (.ldg f) (afterOps (bodyGlobal (.ldg f) f)) s
/-- LDG.D (R71). -/
def execLdgD (f : LM) (s : State) : Host.Outcome State Fault Refusal := runInstr (.ldgD f) (afterOps (bodyGlobal (.ldgD f) f)) s
/-- LDG.Q (R71). -/
def execLdgQ (f : LM) (s : State) : Host.Outcome State Fault Refusal := runInstr (.ldgQ f) (afterOps (bodyGlobal (.ldgQ f) f)) s
/-- STG (R71). -/
def execStg (f : LM) (s : State) : Host.Outcome State Fault Refusal := runInstr (.stg f) (afterOps (bodyGlobal (.stg f) f)) s
/-- STG.D (R71). -/
def execStgD (f : LM) (s : State) : Host.Outcome State Fault Refusal := runInstr (.stgD f) (afterOps (bodyGlobal (.stgD f) f)) s
/-- STG.Q (R71). -/
def execStgQ (f : LM) (s : State) : Host.Outcome State Fault Refusal := runInstr (.stgQ f) (afterOps (bodyGlobal (.stgQ f) f)) s
/-- CREDF (R213). -/
def execCredf (f : LM) (s : State) : Host.Outcome State Fault Refusal := runInstr (.credf f) (afterOps (bodyGlobal (.credf f) f)) s
/-- CREDD (R213). -/
def execCredd (f : LM) (s : State) : Host.Outcome State Fault Refusal := runInstr (.credd f) (afterOps (bodyGlobal (.credd f) f)) s
/-- AADD (R71). -/
def execAadd (f : LM) (s : State) : Host.Outcome State Fault Refusal := runInstr (.aadd f) (afterOps (bodyGlobal (.aadd f) f)) s
/-- AMINS (R71). -/
def execAmins (f : LM) (s : State) : Host.Outcome State Fault Refusal := runInstr (.amins f) (afterOps (bodyGlobal (.amins f) f)) s
/-- AMAXS (R71). -/
def execAmaxs (f : LM) (s : State) : Host.Outcome State Fault Refusal := runInstr (.amaxs f) (afterOps (bodyGlobal (.amaxs f) f)) s
/-- AAND (R71). -/
def execAand (f : LM) (s : State) : Host.Outcome State Fault Refusal := runInstr (.aand f) (afterOps (bodyGlobal (.aand f) f)) s
/-- AOR (R71). -/
def execAor (f : LM) (s : State) : Host.Outcome State Fault Refusal := runInstr (.aor f) (afterOps (bodyGlobal (.aor f) f)) s
/-- AXOR (R71). -/
def execAxor (f : LM) (s : State) : Host.Outcome State Fault Refusal := runInstr (.axor f) (afterOps (bodyGlobal (.axor f) f)) s
/-- AXCHG (R71). -/
def execAxchg (f : LM) (s : State) : Host.Outcome State Fault Refusal := runInstr (.axchg f) (afterOps (bodyGlobal (.axchg f) f)) s
/-- ACAS (R71). -/
def execAcas (f : LM) (s : State) : Host.Outcome State Fault Refusal := runInstr (.acas f) (afterOps (bodyGlobal (.acas f) f)) s

/-! ## Counters from the group pipe (R217–R219) -/

/-- A group word's single access: what becomes of it. -/
inductive One where
  | go (pa : Nat)
  | log (code : Nat)
  | bad (code : Nat)
  deriving DecidableEq, Repr

/-- Translates the address of a group word (R63, R385). -/
def oneTr (s : State) (c : Ctx) (a : Acc) (align va : Nat) (wr : Bool) : One × State :=
  match preCode align va with
  | some code => (.bad code, s)
  | none =>
    if logBlocks s c [va] then (.log 0, s)
    else
      match translate s c.core (dieOf c.core) c.g.ctx.toNat a align va wr with
      | (.ok pa _ _, s) => (.go pa, s)
      | (.code code, s) => if retryable code then (.log code, s) else (.bad code, s)

/-- CADD (R217): its release is issued before the add. -/
def bodyCadd (f : GA) (s : State) (c : Ctx) : Done :=
  let va := readJ c.g f.a.toNat
  let inc := readK c.g f.b.toNat
  match oneTr s c .sync 8 va.toNat true with
  | (.bad code, s) => .gone (terminalFault s c code 5 va)
  | (x, s) =>
    let c := if f.x.toNat.testBit 3 then queueOp s c [] (.release (f.x.toNat % 8) c.pc0) else c
    match x with
    | .go pa => .ok s (newRegion (queueOp s c [pa] (.cadd va pa inc c.pc0)))
    | .log code =>
      let (s, _) := logAdd s c.core c.slot c.st.sid c.g.ctx.toNat code 5 va.toNat c.pc0 (.cadd va inc c.pc0)
        (some ((regionAt c.st).region, c.g.nextId))
      .ok s c
    | .bad _ => .ok s c

/-- CADD (R217). -/
def execCadd (f : GA) (s : State) : Host.Outcome State Fault Refusal := runInstr (.cadd f) (afterOps (bodyCadd f)) s

/-- CREAD (R219). -/
def bodyCread (f : GA) (s : State) (c : Ctx) : Done :=
  let va := readJ c.g f.a.toNat
  let kind := f.x.toNat % 4
  let d := f.d.toNat
  let size := if kind = 2 then 16 else if kind = 3 then 4 else 8
  let p : Pend := {
    id := c.g.nextId
    lanes := c.st.mask
    kregs := if kind = 0 ∨ kind = 2 then [d, d + 1] else [d]
    q7 := true
    car := true }
  match oneTr s c .sync size va.toNat false with
  | (.bad code, s) => .gone (terminalFault s c code 0 va)
  | (.go pa, s) => .ok s (queueOp s { c with g := addPend c.g p } [pa] (.cread va pa kind d p.id c.pc0))
  | (.log code, s) =>
    let c := { c with g := addPend c.g p }
    let (s, _) := logAdd s c.core c.slot c.st.sid c.g.ctx.toNat code 0 va.toNat c.pc0 (.cread va kind d p.id c.pc0) none
    .ok s c

/-- CREAD (R219). -/
def execCread (f : GA) (s : State) : Host.Outcome State Fault Refusal := runInstr (.cread f) (afterOps (bodyCread f)) s

/-- CWAIT (R218): the strand parks; the wait of a logged one begins at its replay (R385). -/
def bodyCwait (f : GA) (s : State) (c : Ctx) : Done :=
  let va := readJ c.g f.a.toNat
  let target := readJ c.g f.b.toNat
  let timed := f.x.toNat.testBit 3
  let limit := if timed then some (s.time.toNat + (readK c.g f.d.toNat).toNat) else none
  let scope := f.x.toNat % 8
  match oneTr s c .sync 8 va.toNat false with
  | (.bad code, s) => .gone (terminalFault s c code 0 va)
  | (.go pa, s) =>
    let (bad, s) := unitBad (carUse s pa) pa 8 c.core c.g.ctx.toNat
    if !kindOk s pa .counter then .gone (terminalFault s c 9 0 va)
    else if bad then
      .gone (stopStrand s { c with st := { c.st with pc := c.pc0, fpc := c.pc0 } } 18 3 0 c.pc0 0x50 0 va.toNat none)
    else
      let s := countLines s c.g.ctx.toNat false [pa]
      .gone (parkWith s c (meet pa (unitRead s pa 8) s.time.toNat (.cwait va (some pa) target limit scope false)))
  | (.log code, s) =>
    let (s, _) := logAdd s c.core c.slot c.st.sid c.g.ctx.toNat code 0 va.toNat c.pc0 (.cwait c.pc0) none
    .gone (parkWith s c (.cwait va none target limit scope false))

/-- CWAIT (R218). -/
def execCwait (f : GA) (s : State) : Host.Outcome State Fault Refusal := runInstr (.cwait f) (afterOps (bodyCwait f)) s

/-! ## Phases (R221) -/

/-- REL (R221): the release is performed afterwards, in program order. -/
def execRel (f : GA) (s : State) : Host.Outcome State Fault Refusal :=
  runInstr (.rel f) (fun s c => .ok s (newRegion (queueOp s c [] (.release (f.x.toNat % 8) c.pc0)))) s

/-- ACQ (R221): parks until the acquire has been performed. -/
def execAcq (f : GA) (s : State) : Host.Outcome State Fault Refusal :=
  runInstr (.acq f) (fun s c => .gone (parkWith s c (.acquire (f.x.toNat % 8) false))) s

/-- PHASE (R221): a release, then an acquire; the region begins at the next instruction. -/
def execPhase (f : GA) (s : State) : Host.Outcome State Fault Refusal :=
  runInstr (.phase f) (fun s c =>
    .gone (parkWith s (newRegion (queueOp s c [] (.release (f.x.toNat % 8) c.pc0))) (.acquire (f.x.toNat % 8) true))) s

end Sys2Proof.Machine
end

