-- ==== Sys2Proof/Machine/Barriers.lean ====
section
/-! DEFINITION. Wired barriers (R222–R226): generations, arrivals, BAR, BARA and BARW, and the release of a generation. -/

namespace Sys2Proof.Machine

/-! ## Generations -/

/-- The block of a team in its launch (R257, R262): teams bC to bC + C − 1. -/
def blockIx (s : State) (g : Group) : Nat :=
  match launchOf s g.team, getTeam s g.team with
  | some l, some t => if lrec l 24 2 = 0 then 0 else tfield t.rcd 2 3 / lrec l 24 2
  | _, _ => 0

/-- The key of a barrier among those of a launch: scope 3 by block, 4 by die, 5 for all. -/
def barKey (s : State) (g : Group) (scope line : Nat) : Nat :=
  2 ^ 40 * scope + 16 * (if scope = 3 then blockIx s g else if scope = 4 then dieOf g.core else 0) + line

/-- The current generation of a barrier (R225). -/
def barGen (s : State) (g : Group) (scope line : Nat) : Nat :=
  match scope with
  | 1 => mget 0 g.bars line
  | 2 => match getTeam s g.team with | some t => mget 0 t.bars line | none => 0
  | _ => match launchOf s g.team with | some l => mget 0 l.bars (barKey s g scope line) | none => 0

/-- Makes the next generation current. -/
def barNext (s : State) (g : Group) (scope line : Nat) : State :=
  match scope with
  | 1 => setGroup s { g with bars := mput g.bars line (mget 0 g.bars line + 1) }
  | 2 => match getTeam s g.team with
    | some t => setTeam s { t with bars := mput t.bars line (mget 0 t.bars line + 1) }
    | none => s
  | _ => match getTeam s g.team, launchOf s g.team with
    | some t, some l =>
      let fe := getFe s t.fe
      let k := barKey s g scope line
      setFe s t.fe { fe with slots := mput fe.slots t.lslot { l with bars := mput l.bars k (mget 0 l.bars k + 1) } }
    | _, _ => s

/-- A strand's pending arrival at a barrier (R225). -/
def barPending (l : List BarRec) (scope line : Nat) : Option Nat :=
  (l.find? fun b => b.scope == scope && b.line == line).map (·.gen)

/-- Sets or clears a pending arrival. -/
def barSet (l : List BarRec) (scope line : Nat) (gen : Option Nat) : List BarRec :=
  let l := l.filter fun b => !(b.scope == scope && b.line == line)
  match gen with | some g => ⟨scope, line, g⟩ :: l | none => l

/-! ## BAR, BARA, BARW (R224, R225) -/

/-- Release, arrive in the current generation. -/
def arrive (scope line : Nat) (s : State) (c : Ctx) : State × Ctx :=
  let gen := barGen s c.g scope line
  (s, { c with st := { c.st with bars := barSet c.st.bars scope line (some gen) } })

/-- BAR's wait on generation `gen`, with the region at the BAR; a generation released already leaves the acquire. -/
def barWait (scope line gen : Nat) (s : State) (c : Ctx) : Done :=
  if gen < barGen s c.g scope line then
    .gone (parkWith s (newRegion { c with st := { c.st with bars := barSet c.st.bars scope line none } }) (.acquire scope false))
  else
    let r := (regionAt { c.st with pc := c.pc0 })
    .gone (parkWith s { c with st := { r with pc := c.st.pc } } (.bar 0 scope line gen))

/-- BAR (R225). -/
def bodyBar (f : GA) (s : State) (c : Ctx) : Done :=
  let scope := f.x.toNat
  let line := f.d.toNat
  match barPending c.st.bars scope line with
  | some gen => barWait scope line gen s c
  | none => withRelease s c scope fun s c =>
    let (s, c) := arrive scope line s c
    barWait scope line (barGen s c.g scope line) s c

/-- BAR (R225). -/
def execBar (f : GA) (s : State) : Host.Outcome State Fault Refusal := runInstr (.bar f) (afterOps (bodyBar f)) s

/-- BARA (R225). -/
def bodyBara (f : GA) (s : State) (c : Ctx) : Done :=
  let scope := f.x.toNat
  let line := f.d.toNat
  let go := fun s c => withRelease s c scope fun s c =>
    let (s, c) := arrive scope line s c
    .ok s (newRegion c)
  match barPending c.st.bars scope line with
  | some gen =>
    if gen < barGen s c.g scope line then go s c else .gone (parkWith s c (.bar 1 scope line gen))
  | none => go s c

/-- BARA (R225). -/
def execBara (f : GA) (s : State) : Host.Outcome State Fault Refusal := runInstr (.bara f) (afterOps (bodyBara f)) s

/-- BARW (R225). -/
def bodyBarw (f : GA) (s : State) (c : Ctx) : Done :=
  let scope := f.x.toNat
  let line := f.d.toNat
  let acq := fun (c : Ctx) =>
    Done.gone (parkWith s { c with st := { c.st with bars := barSet c.st.bars scope line none } } (.acquire scope false))
  match barPending c.st.bars scope line with
  | some gen => if gen < barGen s c.g scope line then acq c else .gone (parkWith s c (.bar 2 scope line gen))
  | none => acq c

/-- BARW (R225). -/
def execBarw (f : GA) (s : State) : Host.Outcome State Fault Refusal := runInstr (.barw f) (afterOps (bodyBarw f)) s

/-! ## The release of a generation (R223, R225, R226) -/

/-- A strand stands arrived in a generation; a stopped strand does not (R284, log entry 35, DEDUCED). -/
def strandArrived (t : Strand) (scope line gen : Nat) : Bool :=
  match t.status with
  | .stopped _ _ => false
  | _ => barPending t.bars scope line == some gen

/-- A group has arrived: every strand that holds lanes, those parked at a join among them; a group without strands has
(R225, R226). -/
def groupArrived (g : Group) (scope line gen : Nat) : Bool :=
  g.ended || (g.strands.all (fun t => strandArrived t scope line gen) &&
    g.join.all fun j => j.bars.all fun l => barPending l scope line == some gen)

/-- The resident participants of a barrier (R223). -/
def participants (s : State) (g : Group) (scope : Nat) : List Group :=
  let same := fun (h : Group) =>
    match getTeam s g.team, getTeam s h.team with
    | some a, some b => a.fe == b.fe && a.lslot == b.lslot
    | _, _ => false
  (s.groups.map Prod.snd).filter fun h =>
    match scope with
    | 1 => h.core == g.core && h.slot == g.slot
    | 2 => h.team == g.team
    | 3 => same h && blockIx s h == blockIx s g
    | 4 => same h && dieOf h.core == dieOf g.core
    | _ => same h

/-- A team of the barrier's launch is away, saved or waiting to be placed again (R226). -/
def awayTeam (s : State) (g : Group) (scope : Nat) : Bool :=
  if scope ≤ 2 then false
  else
    match getTeam s g.team, launchOf s g.team with
    | some t, some l =>
      let away := fun (x : Task) => x.img.isSome && decide (tfield x.rcd 0 2 = t.lslot + 2048 * t.fe) &&
        (scope != 3 || tfield x.rcd 2 3 / lrec l 24 2 == blockIx s g)
      (s.banks.any fun b => b.2.tasks.any away || b.2.ringMeta.any away) || (getFe s t.fe).held.any away
    | _, _ => false

/-- A strand that waits on the released generation goes on: BAR and BARW to their acquires, BARA to its arrival. -/
def barWake (s : State) (core slot sid scope line gen : Nat) : State :=
  match ctxAt s core slot sid with
  | none => s
  | some c =>
    match c.st.status with
    | .parked (.bar kind sc ln gn) =>
      if sc = scope ∧ ln = line ∧ gn = gen then
        let t := { c.st with bars := barSet c.st.bars scope line none }
        match kind with
        | 0 => putCtx s { c with st := { regionAt t with status := .parked (.acquire scope false) } }
        | 2 => putCtx s { c with st := { t with status := .parked (.acquire scope false) } }
        | _ =>
          if badStores s core t.slog then
            stopAt (logBadStores s core c.g.ctx.toNat t.slog) core slot sid 18 6 0 (t.pc - 4) 0x50 1 0 none
          else
            let (s, c) := releaseCtx s { c with st := { t with status := .ready } } scope
            let (s, c) := arrive scope line s c
            putCtx s (newRegion c)
      else s
    | _ => s

/-- BARRIER_RELEASE (R225): once every participant has arrived, the next generation becomes current and the waiters go
on. -/
def releaseBarrier (s : State) (core slot scope line : Nat) : State :=
  match getGroup s core slot with
  | none => s
  | some g =>
    let gen := barGen s g scope line
    let ps := participants s g scope
    if g.ended || awayTeam s g scope || !ps.all fun h => groupArrived h scope line gen then s
    else
      let s := barNext s g scope line
      ps.foldl (fun s h => h.strands.foldl (fun s t => barWake s h.core h.slot t.sid scope line gen) s) s

/-- BARRIER_RELEASE (R225). -/
def execBarrierRelease (core slot scope line : Nat) (s : State) : Host.Outcome State Fault Refusal :=
  .next (releaseBarrier s core slot scope line)

end Sys2Proof.Machine
end

