-- ==== Sys2Proof/Machine/Control.lean ====
section
/-! DEFINITION. Control flow (R240–R253): splits, the join stack, merges, ends of strands, branches through tables, calls, and
the removal of lanes in bounds mode (R330–R333). -/

namespace Sys2Proof.Machine

/-! ## Targets and the fetch path -/

/-- A target: the first-word address plus 4 × a signed word offset (R240). -/
def target (pc : Dword) (off : Dword) : Dword := pc + 4 * off

/-- The word of a fetch: its value, or a code of R63 (R61, R245). -/
def fetchWord (s : State) (c : Ctx) (va : Dword) : (Word ⊕ Nat) × State :=
  match translate s c.core (dieOf c.core) c.g.ctx.toNat .fetch 4 va.toNat false with
  | (.ok pa _ _, s) => (.inl (BitVec.ofNat 32 (memRead s.mem pa 4)), s)
  | (.code code, s) => (.inr code, s)

/-- A fetch fault in an instruction (R63, R245): a retryable code delays the issue, a terminal one stops the strand. -/
def fetchFault (s : State) (c : Ctx) (code : Nat) (va : Dword) : State :=
  if retryable code then
    parkWith (post s (.strand c.core c.slot c.st.sid) 0x10 0 c.g.ctx.toNat 2 (locStrand c.core c.slot 0) va.toNat c.pc0.toNat)
      { c with st := { c.st with pc := c.pc0 } } (.fetch va)
  else terminalFault s c code 2 va

/-- An instruction reads a word of code and goes on with it; it has been charged when the read delays it (R299). -/
def withWord (va : Dword) (k : Word → State → Ctx → Done) (s : State) (c : Ctx) : Done :=
  match fetchWord s c va with
  | (.inl w, s) => k w s c
  | (.inr code, s) => .gone (fetchFault s { c with st := { c.st with paid := true } } code va)

/-! ## The join stack (R243, R250) -/

/-- The strand's top entry: the most recently pushed whose mask contains the strand's. -/
def topEntry (g : Group) (mask : Dword) : Option Nat := g.join.findIdx? fun e => mask &&& ~~~e.mask == 0

/-- The entry a split pushes (R245). -/
def pushEntry (g : Group) (t : Strand) (j : Dword) (mask : Dword) (lk : Dword) : Group :=
  { g with join := {
      pc := j, mask := mask, fmt := t.fmt, lk := lk, cause := t.cause, epc := t.epc, value := t.value, fpc := t.fpc
      hnd := t.hnd, rank := t.rank } :: g.join }

/-- An entry is covered: every lane has arrived or exited. -/
def covered (e : Join) : Bool := e.mask &&& ~~~(e.arrived ||| e.exited) == 0

/-- The strand a merge makes (R250, log entry 14, DEDUCED). -/
def mergedStrand (e : Join) (sid : Nat) : Strand :=
  regionAt {
    sid := sid, pc := e.pc + 4, mask := e.arrived, fmt := e.fmt, fx := e.fx, lapse := e.lapse, lk := e.lk
    cause := e.cause, epc := e.epc, value := e.value, fpc := e.fpc, hnd := e.hnd, rank := e.rank
    bars := e.bars.flatten.eraseDups, slog := e.slog, snap := e.snap, snapNo := e.snapNo, own := e.own
    sigma := e.sigma, vis := e.vis, sb := e.sb, cyc := e.cyc, acqNext := e.acq }

/-- Merges every covered entry; the group ends when no strand holds lanes (R250, R251). -/
def mergeAll (g : Group) : Group :=
  let done := g.join.filter covered
  let made := (done.filter fun e => e.arrived != 0).zipIdx.map fun (e, i) => mergedStrand e (g.nextSid + i)
  let g := { g with
    join := g.join.filter fun e => !covered e
    strands := g.strands ++ made
    nextSid := g.nextSid + made.length }
  { g with ended := g.strands.isEmpty && g.join.isEmpty }

/-- Lanes that exit or are removed (R251, R331). -/
def exitLanes (g : Group) (mask : Dword) : Group :=
  { g with join := g.join.map fun e => { e with exited := e.exited ||| (mask &&& e.mask) } }

/-- Takes a strand out of its group. -/
def removeStrand (g : Group) (sid : Nat) : Group := { g with strands := g.strands.filter fun t => t.sid != sid }

/-- Ends the strand at work (R251): its stores stay until the team ends. -/
def endStrand (s : State) (c : Ctx) : State :=
  let (s, c) := endRun s c
  let g := { (removeStrand c.g c.st.sid) with
    left := c.g.left ++ c.st.slog.filter fun x => !(c.g.left.any fun y => y.id == x.id), seen := seenJoin c.g.seen c.st.vis }
  putCtx s { c with g := mergeAll (exitLanes g c.st.mask), gone := true }

/-- The union of two scoreboards: a result is ready once it is in both (R250). -/
def sbJoin (a b : AMap Nat) : AMap Nat := b.foldl (fun m x => mput m x.1 (max (mget 0 m x.1) x.2)) a

/-- Folds a strand into the entry at which it arrives (R250). What the entry's strands have seen is united; the newer snapshot stands,
with every visible write that it lacks (R233). -/
def foldInto (e : Join) (t : Strand) : Join :=
  let w := seenJoin e.vis t.vis
  { e with
    arrived := e.arrived ||| t.mask
    fx := e.fx ||| t.fx
    lapse := e.lapse || t.lapse
    bars := e.bars ++ [t.bars]
    slog := e.slog ++ t.slog.filter fun x => !(e.slog.any fun y => y.id == x.id)
    snap := if e.sigma ≤ t.sigma then overlay t.sigma w t.snap else overlay e.sigma w e.snap
    snapNo := max e.snapNo t.snapNo
    own := t.own.foldl (fun m x => mput m x.1 x.2) e.own
    sigma := max e.sigma t.sigma
    vis := w
    sb := sbJoin e.sb t.sb
    cyc := max e.cyc t.cyc }

/-! ## Splits (R242) -/

/-- One part of a split: lanes, starting address, lk. -/
structure SPart where
  mask : Dword
  pc : Dword
  lk : Dword
  deriving DecidableEq, Repr

/-- Replaces the strand at work by one strand for each part, in the order of their ties (R253, log entry 41, DEDUCED). -/
def splitInto (s : State) (c : Ctx) (ps : List SPart) : State :=
  let (s, c) := endRun s c
  let g := removeStrand c.g c.st.sid
  let made := ps.zipIdx.map fun (p, i) => regionAt { c.st with
    sid := g.nextSid + i, pc := p.pc, mask := p.mask, lk := p.lk, slot := false, rank := 64 * (g.nextId + 1) + i }
  putCtx s { c with
    g := { g with strands := g.strands ++ made, nextSid := g.nextSid + made.length, nextId := g.nextId + 1 }
    gone := true }

/-- The checks and the push of R245, then the split; `lk` is the copy that the entry takes, `fw` the first word. -/
def divide (fw : Word) (j : Dword) (lk : Dword) (before : State → Ctx → State × Ctx) (ps : List SPart) (s : State) (c : Ctx) : Done :=
  withWord j (fun w s c =>
    if w ≠ 0xDA000000 then .trap 8 3 (w.setWidth 64)
    else if 256 ≤ c.g.join.length then .trap 11 0 (fw.setWidth 64)
    else
      let (s, c) := before s c
      .gone (splitInto s { c with g := pushEntry c.g c.st j (ps.foldl (fun m p => m ||| p.mask) 0) lk } ps)) s c

/-- Goes on at an address, beginning a region there (R253). -/
def goRegion (c : Ctx) (pc : Dword) : Ctx := newRegion { c with st := { c.st with pc := pc } }

/-! ## Removal of lanes (R330–R332) -/

/-- Sends lanes' tiles to the front end, each with its manner, and takes the lanes out of the strand; their stores stay in the log until
the team ends (R331). -/
def removeLanes (s : State) (c : Ctx) (ls : List (Nat × Bool)) : State × Ctx :=
  match ls, getTeam s c.g.team with
  | [], _ => (s, c)
  | _, none => (s, c)
  | _, some tm =>
    let fe := getFe s tm.fe
    let msgs := ls.filterMap fun x => (mfind c.g.tiles x.1).map fun t => (⟨tm.lslot, t.ix, t.iy, t.el, x.2⟩ : TileMsg)
    let m := maskOf (ls.map Prod.fst)
    let gone := c.st.slog.filter fun x => m.getLsbD x.lane
    (setFe s tm.fe { fe with tiles := fe.tiles ++ msgs },
      { c with
        g := { (exitLanes c.g m) with left := c.g.left ++ gone.filter fun x => !(c.g.left.any fun y => y.id == x.id) }
        st := { c.st with mask := c.st.mask &&& ~~~m, slog := c.st.slog.filter fun x => !m.getLsbD x.lane } })

/-- A tile is pointed and not quartered under subdivide: its edge is at most 2^BEM (R330). -/
def pointed (s : State) (c : Ctx) (l : Nat) : Bool :=
  match launchOf s c.g.team, mfind c.g.tiles l with
  | some lr, some t => decide (t.el ≤ lrec lr 233 1)
  | _, _ => true

/-- What R330 does before a direction is chosen, on the lanes open in p n. -/
def takeOpen (n : Nat) (s : State) (c : Ctx) : State × Ctx :=
  let o := openLanes c.g c.st.mask n
  let c := if (o.filter fun l => pointForm c.g l).isEmpty then c else raise c fxBN
  removeLanes s c ((o.filter fun l => !pointForm c.g l).map fun l => (l, pointed s c l))

/-- The mask that R330 leaves. -/
def keptMask (c : Ctx) (n : Nat) : Dword :=
  c.st.mask &&& ~~~(maskOf ((openLanes c.g c.st.mask n).filter fun l => !pointForm c.g l))

/-- Entries that a removal completes merge; `was` is the mask before it. -/
def mergeAfter (was : Dword) (c : Ctx) : Ctx :=
  if c.st.mask = was then c else { c with g := mergeAll (setStrand c.g c.st) }

/-- After a removal, a strand whose lanes are all gone ends; otherwise entries it completes merge (log entry 25, DEDUCED). -/
def afterRemoval (was : Dword) (s : State) (c : Ctx) : Done :=
  if c.st.mask = 0 then .gone (endStrand s c) else .ok s (mergeAfter was c)

/-! ## BRA, BRD, PART -/

/-- The offset of layout GB. -/
def gbOff (o : BitVec 20) : Dword := o.signExtend 64

/-- Lanes of a mask in which p n is true. -/
def takenOf (c : Ctx) (mask : Dword) (n : Nat) : Dword := maskOf ((lanesOf mask).filter fun l => readP c.g l n)

/-- A branch on p n (R244, R245, R330): `j` is BRD's reconvergence address and `next` the address after the instruction. -/
def branchP (fw : Word) (n : Nat) (tgt next : Dword) (j : Option Dword) (s : State) (c : Ctx) : Done :=
  let m := keptMask c n
  let tk := takenOf c m n
  let fl := m &&& ~~~tk
  let lk := c.st.lk
  let ps := [⟨fl, next, lk⟩, ⟨tk, tgt, lk⟩]
  if m = 0 then
    let (s, c) := takeOpen n s c
    .gone (endStrand s c)
  else if fl = 0 ∨ tk = 0 then
    let was := c.st.mask
    let (s, c) := takeOpen n s c
    match afterRemoval was s c with
    | .ok s c => .ok s (goRegion c (if fl = 0 then tgt else next))
    | d => d
  else
    match j with
    | some j => divide fw j lk (takeOpen n) ps s c
    | none =>
      let was := c.st.mask
      let (s, c) := takeOpen n s c
      .gone (splitInto s (mergeAfter was c) ps)

/-- BRA (R244). -/
def bodyBra (f : GB) (s : State) (c : Ctx) : Done :=
  let tgt := target c.pc0 (gbOff f.off)
  let sel := f.sel.toNat
  if sel < 8 then .ok s (if readQ c.g sel then { c with st := { c.st with pc := tgt } } else c)
  else branchP (firstWord (.bra f)) (sel - 7) tgt c.st.pc none s c

/-- BRA (R244). -/
def execBra (f : GB) (s : State) : Host.Outcome State Fault Refusal := runInstr (.bra f) (afterOps (bodyBra f)) s

/-- BRD (R245). -/
def bodyBrd (f : GD) (s : State) (c : Ctx) : Done :=
  branchP (firstWord (.brd f)) (f.sel.toNat - 7) (target c.pc0 (gbOff f.off)) c.st.pc (some (target c.pc0 (f.join.signExtend 64))) s c

/-- BRD (R245). -/
def execBrd (f : GD) (s : State) : Host.Outcome State Fault Refusal := runInstr (.brd f) (afterOps (bodyBrd f)) s

/-- PART (R246): one strand for each four-lane slice. -/
def bodyPart (f : GB) (s : State) (c : Ctx) : Done :=
  let slices := ((List.range 16).map fun i => c.st.mask &&& (0xF#64 <<< (4 * i))).filter (· != 0)
  if slices.length ≤ 1 then .ok s (newRegion c)
  else
    divide (firstWord (.part f)) (target c.pc0 (gbOff f.off)) c.st.lk (fun s c => (s, c)) (slices.map fun m => ⟨m, c.st.pc, c.st.lk⟩) s c

/-- PART (R246). -/
def execPart (f : GB) (s : State) : Host.Outcome State Fault Refusal := runInstr (.part f) (afterOps (bodyPart f)) s

/-! ## Tables (R247, R248) -/

/-- Lanes with the table index each names. -/
def tableLanes (c : Ctx) (a : Nat) : List (Nat × Nat) := (lanesOf c.st.mask).map fun l => (l, (readV c.g l a).toNat)

/-- Reads the target offsets of a list of indices, then goes on with (index, target) pairs. -/
def readTargets (table : Dword) (k : List (Nat × Dword) → State → Ctx → Done) :
    List Nat → List (Nat × Dword) → State → Ctx → Done
  | [], acc, s, c => k acc.reverse s c
  | i :: t, acc, s, c =>
    withWord (table + 4 * BitVec.ofNat 64 (i + 2))
      (fun w s c => readTargets table k t ((i, target c.pc0 (w.signExtend 64)) :: acc) s c) s c

/-- The parts of an indexed transfer: one for each target that a lane names, by the lowest index of those given that names it (R247). -/
def tableParts (lanes : List (Nat × Nat)) (ts : List (Nat × Dword)) (lk : Dword) : List SPart :=
  let tgts := (ts.map Prod.snd).eraseDups
  (tgts.map fun a => ⟨maskOf ((lanes.filter fun x => (mfind ts x.2) == some a).map Prod.fst), a, lk⟩).filter fun p => p.mask != 0

/-- BRX and CALLX (R247, R248): `lk` is what the resulting strands hold. The targets of the lanes' own indices say whether the strand splits;
if it does, the whole table is read for the order of the groups (log entry 48, DEDUCED). -/
def transfer (fw : Word) (a : Nat) (off : Word) (lk : Dword) (s : State) (c : Ctx) : Done :=
  let table := target c.pc0 (off.signExtend 64)
  withWord table (fun w s c =>
    let n := w.toNat
    if n = 0 ∨ 16 < n then .trap 8 2 (w.setWidth 64)
    else
      let lanes := tableLanes c a
      match lanes.find? fun x => decide (n ≤ x.2) with
      | some x => .trap 8 1 (BitVec.ofNat 64 x.2)
      | none =>
        let ix := (List.range n).filter fun i => lanes.any fun x => x.2 == i
        readTargets table (fun ts s c =>
          match tableParts lanes ts lk with
          | [p] => .ok s (goRegion { c with st := { c.st with lk := lk } } p.pc)
          | _ => readTargets table (fun ts s c => withWord (table + 4) (fun w s c =>
              divide fw (target c.pc0 (w.signExtend 64)) c.st.lk (fun s c => (s, c)) (tableParts lanes ts lk) s c) s c)
            (List.range n) [] s c) ix [] s c) s c

/-- BRX (R247). -/
def execBrx (f : GX) (s : State) : Host.Outcome State Fault Refusal :=
  runInstr (.brx f) (afterOps fun s c => transfer (firstWord (.brx f)) f.a.toNat f.off c.st.lk s c) s

/-- CALLX (R248). -/
def execCallx (f : GX) (s : State) : Host.Outcome State Fault Refusal :=
  runInstr (.callx f) (afterOps fun s c => transfer (firstWord (.callx f)) f.a.toNat f.off c.st.pc s c) s

/-! ## CALL, RET, REGANG, EXIT -/

/-- CALL (R249). -/
def bodyCall (f : GB) (s : State) (c : Ctx) : Done :=
  if readQ c.g f.sel.toNat then
    .ok s { c with st := { c.st with lk := c.st.pc, pc := target c.pc0 (gbOff f.off) } }
  else .ok s c

/-- CALL (R249). -/
def execCall (f : GB) (s : State) : Host.Outcome State Fault Refusal := runInstr (.call f) (bodyCall f) s

/-- RET (R249). -/
def execRet (f : GA) (s : State) : Host.Outcome State Fault Refusal :=
  runInstr (.ret f) (fun s c => .ok s { c with st := { c.st with pc := c.st.lk } }) s

/-- REGANG (R250). -/
def bodyRegang (s : State) (c : Ctx) : Done :=
  match topEntry c.g c.st.mask with
  | none => .ok s (newRegion c)
  | some i =>
    match c.g.join[i]? with
    | none => .ok s (newRegion c)
    | some e =>
      if e.pc ≠ c.pc0 then .ok s (newRegion c)
      else
        let (s, c) := endRun s c
        let g := removeStrand { c.g with join := c.g.join.set i (foldInto e (regionAt c.st)) } c.st.sid
        .gone (putCtx s { c with g := mergeAll g, gone := true })

/-- REGANG (R250). -/
def execRegang (f : GA) (s : State) : Host.Outcome State Fault Refusal := runInstr (.regang f) (afterOps bodyRegang) s

/-- EXIT (R251). -/
def execExit (f : GA) (s : State) : Host.Outcome State Fault Refusal :=
  runInstr (.exit f) (afterOps fun s c => .gone (endStrand s c)) s

/-! ## BSPLIT, BPOINT, BOPEN (R332, R333) -/

/-- Flagged lanes in interval form. -/
def flagged (c : Ctx) (a : Nat) : List Nat := (lanesOf c.st.mask).filter fun l => readV c.g l a != 0 && !pointForm c.g l

/-- The log2 of a lane's tile edge. -/
def edgeLg (c : Ctx) (l : Nat) : Nat := match mfind c.g.tiles l with | some t => t.el | none => 0

/-- BSPLIT and BPOINT (R332): `pt` says of a log2 edge that the tile is pointed. -/
def bodyBnd (a : Nat) (pt : Nat → Bool) (s : State) (c : Ctx) : Done :=
  let was := c.st.mask
  let (s, c) := removeLanes s c ((flagged c a).map fun l => (l, pt (edgeLg c l)))
  match afterRemoval was s c with
  | .ok s c => .ok s (newRegion c)
  | d => d

/-- BSPLIT (R332): quarter when e > 1. -/
def execBsplit (f : GA) (s : State) : Host.Outcome State Fault Refusal :=
  runInstr (.bsplit f) (afterOps (bodyBnd f.a.toNat fun k => k == 0)) s

/-- BPOINT (R332): point when e ≤ 16. -/
def execBpoint (f : GA) (s : State) : Host.Outcome State Fault Refusal :=
  runInstr (.bpoint f) (afterOps (bodyBnd f.a.toNat fun k => decide (k ≤ 4))) s

/-- BOPEN (R333). -/
def bodyBopen (f : GA) (s : State) (c : Ctx) : Done :=
  let ls := lanesOf c.st.mask
  let n := ls.countP fun l => mget 0 c.g.op l != 0
  .ok s { c with g := ls.foldl (fun g l =>
    writeV g l f.d.toNat (BitVec.ofNat 32 (65536 * n + (mget 0 c.g.op l).toNat / 2 * 2))) c.g }

/-- BOPEN (R333). -/
def execBopen (f : GA) (s : State) : Host.Outcome State Fault Refusal := runInstr (.bopen f) (bodyBopen f) s

end Sys2Proof.Machine
end

