-- ==== Sys2Proof/Machine/System.lean ====
section
/-! DEFINITION. TRAP, BKPT, RTE and the control registers (R276–R279), SLEEP and HALT (R372), MHINT (R70), EREAD and ERRINJ (R304,
R305). -/

namespace Sys2Proof.Machine

/-! ## TRAP, BKPT, RTE -/

/-- TRAP (R277): cause 13 with VALUE n and EPC the next instruction. -/
def execTrap (f : GA) (s : State) : Host.Outcome State Fault Refusal :=
  runInstr (.trap f) (fun s c => .gone (takeTrap s c 13 0 (f.d.setWidth 64) c.st.pc)) s

/-- BKPT (R277): cause 12 in the same way. -/
def execBkpt (f : GA) (s : State) : Host.Outcome State Fault Refusal :=
  runInstr (.bkpt f) (fun s c => .gone (takeTrap s c 12 0 (f.d.setWidth 64) c.st.pc)) s

/-- RTE to an address (R278): an illegal-instruction trap outside a handler. -/
def bodyRte (fw : Word) (dst : Ctx → Dword) (s : State) (c : Ctx) : Done :=
  if !c.st.hnd then .trap 1 0 (fw.setWidth 64) else .ok s (returnTo c (dst c))

/-- RTE (R278). -/
def execRte (f : GA) (s : State) : Host.Outcome State Fault Refusal :=
  runInstr (.rte f) (bodyRte (firstWord (.rte f)) fun c => c.st.epc) s

/-- RTE.TO (R278). -/
def execRteTo (f : GA) (s : State) : Host.Outcome State Fault Refusal :=
  runInstr (.rteTo f) (bodyRte (firstWord (.rteTo f)) fun c => readJ c.g f.a.toNat) s

/-! ## Control registers (R279) -/

/-- The energy counter of the strand's context on its core, in the layout of R301. -/
def energyWord (s : State) (core ctx : Nat) : Dword :=
  let x := mget {} (getCore s core).energy ctx
  BitVec.ofNat 64 (x.count.toNat + 2 ^ 48 * x.sat.toNat)

/-- The olog register: entries, index and code of the oldest. -/
def ologWord (s : State) (c : Ctx) : Word :=
  match logOf (getCore s c.core) c.slot c.st.sid with
  | [] => 0
  | e :: l => BitVec.ofNat 32 (l.length + 1 + 2 ^ 8 * e.idx + 2 ^ 16 * (e.code % 256))

/-- RDCTL (R279). -/
def bodyRdctl (f : GA) (s : State) (c : Ctx) : Done :=
  let d := f.d.toNat
  let k := fun (v : Word) => Done.ok s { c with g := writeK c.g d v }
  let j := fun (v : Dword) => Done.ok s { c with g := writeJ c.g d v }
  match f.a.toNat with
  | 0 => k c.st.cause
  | 1 => j c.st.epc
  | 2 => j c.st.value
  | 3 => j c.st.fpc
  | 4 => k (ologWord s c)
  | 5 => k (BitVec.ofNat 32 c.st.hnd.toNat)
  | _ => j (energyWord s c.core c.g.ctx.toNat)

/-- RDCTL (R279). -/
def execRdctl (f : GA) (s : State) : Host.Outcome State Fault Refusal := runInstr (.rdctl f) (bodyRdctl f) s

/-- WRCTL (R279); the bits of CAUSE above 15 stay zero. -/
def bodyWrctl (f : GA) (s : State) (c : Ctx) : Done :=
  let v := readJ c.g f.b.toNat
  match f.a.toNat with
  | 0 => .ok s { c with st := { c.st with cause := readK c.g f.b.toNat &&& 0xFFFF } }
  | 1 => .ok s { c with st := { c.st with epc := v } }
  | 2 => .ok s { c with st := { c.st with value := v } }
  | 3 => .ok s { c with st := { c.st with fpc := v } }
  | _ =>
    let k := getCore s c.core
    .ok (setCore s c.core { k with energy := mput k.energy c.g.ctx.toNat ⟨v.extractLsb' 0 48, v.getLsbD 48⟩ }) c

/-- WRCTL (R279). -/
def execWrctl (f : GA) (s : State) : Host.Outcome State Fault Refusal := runInstr (.wrctl f) (bodyWrctl f) s

/-! ## SLEEP and HALT (R372) -/

/-- SLEEP (R372). -/
def execSleep (f : GA) (s : State) : Host.Outcome State Fault Refusal :=
  runInstr (.sleep f) (fun s c => .gone (parkWith s c (.sleep (s.time.toNat + (readK c.g f.a.toNat).toNat)))) s

/-- Sets a core's bit in COREOFF (R373). -/
def coreOff (s : State) (core : Nat) : State :=
  let d := getDie s (dieOf core)
  setDie s (dieOf core) { d with coreoff := d.coreoff ||| (1#128 <<< (core % 128)) }

/-- HALT (R372). -/
def execHalt (f : GA) (s : State) : Host.Outcome State Fault Refusal :=
  runInstr (.halt f) (afterOps fun s c => .gone (coreOff (endStrand s c) c.core)) s

/-! ## MHINT (R70) -/

/-- MHINT (R70): a hint beyond 16 unfinished ones is dropped. -/
def bodyMhint (f : GA) (s : State) (c : Ctx) : Done :=
  let va := (readJ c.g f.a.toNat).toNat / 4096 * 4096
  let len := min (((readK c.g f.b.toNat).toNat + 4095) / 4096 * 4096) 0x4000000
  let k := getCore s c.core
  if 16 ≤ k.hints.length then .ok s c
  else
    .ok (setCore s c.core { k with
      hints := k.hints ++ [{ id := k.nextHint, code := f.d.toNat, asid := c.g.ctx, va := va, len := len }]
      nextHint := k.nextHint + 1 }) c

/-- MHINT (R70). -/
def execMhint (f : GA) (s : State) : Host.Outcome State Fault Refusal := runInstr (.mhint f) (bodyMhint f) s

/-! ## Error logs and injection (R304, R305) -/

/-- The instance of an array kind that serves a core (R302). -/
def errInst (core kind : Nat) : Nat :=
  if kind = 2 then clusterOf core else if 3 ≤ kind ∧ kind ≤ 5 then dieOf core else core

/-- What EREAD returns: none where it writes 0 and clears q7 (R304). -/
def ereadWord (s : State) (c : Ctx) (x : Word) : Option Word :=
  let kind := (x.extractLsb' 0 4).toNat
  let w := (x.extractLsb' 7 2).toNat
  let counts := x.getLsbD 9
  let priv := ctxPriv s (dieOf c.core) c.g.ctx.toNat
  if 6 < kind ∨ x.extractLsb' 10 22 ≠ 0 ∨ (counts ∧ (2 ≤ w ∨ !priv)) then none
  else
    let e := getErr s kind (errInst c.core kind)
    if counts then some (if w = 0 then e.corr else e.uncorr)
    else
      let v := mget 0 e.log (x.extractLsb' 4 3).toNat
      if v.getLsbD 0 ∧ !priv ∧ v.extractLsb' 8 8 ≠ c.g.ctx then none else some (v.extractLsb' (32 * w) 32)

/-- EREAD (R304). -/
def bodyEread (f : GA) (s : State) (c : Ctx) : Done :=
  match ereadWord s c (readK c.g f.a.toNat) with
  | some v => .ok s (writeKq c f.d.toNat v true)
  | none => .ok s (writeKq c f.d.toNat 0 false)

/-- EREAD (R304). -/
def execEread (f : GA) (s : State) : Host.Outcome State Fault Refusal := runInstr (.eread f) (bodyEread f) s

/-- The 64-bit word that holds an injection's address, by kind (R302, R305): none out of range (log entry 21, DEDUCED). -/
def injectWord (core kind a : Nat) : Option Nat :=
  let d := dieOf core
  match kind with
  | 0 => if a < colBytes then some (a / 8) else none
  | 1 => if a < 65536 then some (a / 2) else none
  | 2 => if a < 8192 then some a else none
  | 3 => if a < 0x2000000 then some (a / 8) else none
  | 4 => if 64 * a < 128000000000 then some ((0x2000000000 * d + 64 * a) / 8) else none
  | 5 => some ((0x40000000000 + 0x8000000000 * d + 64 * a) / 8)
  | _ => none

/-- ERRINJ (R305). -/
def bodyErrinj (f : GA) (s : State) (c : Ctx) : Done :=
  let x := readK c.g f.a.toNat
  let kind := (x.extractLsb' 0 4).toNat
  match if x.extractLsb' 5 27 = 0 then injectWord c.core kind (readK c.g f.b.toNat).toNat else none with
  | none => .ok s (writeQ7 c false)
  | some w =>
    let i := errInst c.core kind
    .ok (setErr s kind i { (getErr s kind i) with armed := some (w, x.getLsbD 4) }) (writeQ7 c true)

/-- ERRINJ (R305). -/
def execErrinj (f : GA) (s : State) : Host.Outcome State Fault Refusal := runInstr (.errinj f) (bodyErrinj f) s

end Sys2Proof.Machine
end

