-- ==== Sys2Proof/Machine/Slots.lean ====
section
/-! DEFINITION. Command blocks (R79–R81), tickets (R84, R93), and the slots and pending queues of the walkers (R76). -/

namespace Sys2Proof.Machine

/-! ## Command blocks (R79–R81) -/

/-- A little-endian field of a block: `n` bytes at byte `off`. -/
def bf (b : BitVec 1024) (off n : Nat) : Nat := b.toNat / 2 ^ (8 * off) % 2 ^ (8 * n)

def bType (b : BitVec 1024) : Nat := bf b 0 1 % 16
def bAcq (b : BitVec 1024) : Bool := (bf b 1 1).testBit 0
def bRel (b : BitVec 1024) : Bool := (bf b 1 1).testBit 1
def bScope (b : BitVec 1024) : Nat := bits (bf b 1 1) 4 2
def bWeight (b : BitVec 1024) : Nat := bf b 2 1 % 16
def bLinkc (b : BitVec 1024) : Nat := bf b 3 1 % 4

/-- Rows and bytes of a row of a block's data; COPY and PUTS move one row. -/
def bRows (b : BitVec 1024) : Nat := if bType b = 2 then bf b 4 2 else 1
def bRowBytes (b : BitVec 1024) : Nat := if bType b = 2 then bf b 6 2 else bf b 4 4

/-- The number of beats of a block. -/
def bBeats (b : BitVec 1024) : Nat := if bType b ≤ 3 then bRows b * (bRowBytes b / 64) else 0

/-- Offset of a beat at the source or destination, whose pitch is given (R81). -/
def beatOff (b : BitVec 1024) (pitch i : Nat) : Nat :=
  let n := bRowBytes b / 64
  i / n * pitch + 64 * (i % n)

/-- The bytes a descriptor's range spans. -/
def spanOf (b : BitVec 1024) (pitch : Nat) : Nat :=
  if bBeats b = 0 then 0 else (bRows b - 1) * pitch + bRowBytes b

/-- An address descriptor keeps R80 for a command of a core: `far` allows a named column outside the cluster. -/
def descOk (core d span : Nat) (far : Bool) : Bool :=
  let a := bits d 24 0
  let col := decide (a < colBytes ∧ a % 64 = 0 ∧ a + span ≤ colBytes)
  match bits d 63 62 with
  | 0 => bits d 61 57 == 0 && d % 64 == 0
  | 1 => bits d 61 34 == 0 && col && (far || (bits d 31 29 + 8 * bits d 33 32 == clusterOf core))
  | 2 => bits d 61 25 == 0 && col
  | _ => false

/-- A pitch of a tile (R79). -/
def pitchOk (b : BitVec 1024) (p : Nat) : Bool :=
  if bType b = 2 then p % 64 == 0 && (decide (bRows b ≤ 1) || decide (bRowBytes b ≤ p)) else p == 0

/-- A block is well formed for a command of a core (R79–R81, R92). -/
def blockOk (core : Nat) (b : BitVec 1024) : Bool :=
  let ty := bType b
  let data := decide (1 ≤ ty ∧ ty ≤ 3)
  let fl := bf b 1 1
  let ar := bAcq b || bRel b
  let mc := bf b 60 2
  decide (1 ≤ ty ∧ ty ≤ 5) && bf b 0 1 / 16 == 0 && fl / 32 == 0 &&
    (if ar then data && decide (2 ≤ bScope b ∧ bScope b ≤ 6) else bScope b == 0) &&
    bWeight b != 0 && bf b 2 1 / 16 == 0 && bLinkc b != 3 && bf b 3 1 / 4 == 0 &&
    (if ty = 2 then bf b 6 2 % 64 == 0 else if data then bf b 4 4 % 64 == 0 && decide (bf b 4 4 ≤ 2 ^ 30) else bf b 4 4 == 0) &&
    pitchOk b (bf b 24 4) && pitchOk b (bf b 28 4) &&
    (if data then
      descOk core (bf b 8 8) (spanOf b (bf b 24 4)) false && descOk core (bf b 16 8) (spanOf b (bf b 28 4)) (ty == 3)
    else bf b 8 8 == 0 && bf b 16 8 == 0) &&
    (bf b 48 8 == 0) == (bf b 56 4 == 0) &&
    (mc == 0 || (decide (1 ≤ ty ∧ ty ≤ 2) && (bits (bf b 16 8) 63 62 == 1 || bits (bf b 16 8) 63 62 == 2))) &&
    bf b 62 2 == 0 && (bLinkc b == 2 || bf b 80 8 == 0) && bf b 96 32 == 0 && (ty != 4 || bLinkc b == 0)

/-! ## Tickets (R84, R93) -/

/-- The ticket of a core's sequence number. -/
def ticketOf (core seq : Nat) : BitVec 32 := BitVec.ofNat 32 (core * 2 ^ 22 + seq % 2 ^ 22)

/-- Changes the status of a ticket at its core, where it is still kept. -/
def onTicket (s : State) (t : BitVec 32) (f : Ticket → Ticket) : State :=
  let core := t.toNat / 2 ^ 22 % 512
  let k := getCore s core
  match mfind k.tickets (t.toNat % 2 ^ 22) with
  | some x => setCore s core { k with tickets := mput k.tickets (t.toNat % 2 ^ 22) (f x) }
  | none => s

/-- The lowest-numbered free slot of a walker (R76): one whose command has ended, and whose record the reporting port has taken (R283). -/
def freeSlot (s : State) (walker : Nat) : Option Nat :=
  (List.range 8).find? fun i => match mfind (getWalker s walker).slots i with
    | none => true
    | some x => x.phase == .ended && !waiting s (.slot walker i)

/-- Places a command in a slot of its walker (R76): a single block goes to its permit, a chain to its fetch, a multicast to its beats. -/
def placeCmd (s : State) (walker i : Nat) (c : Cmd) : State :=
  let w := getWalker s walker
  let x : WSlot := {
    cmd := c, blk := c.blk, phase := if c.mm then .move else if c.chain then .fetch else .permit
    credit := if c.mm then 8 else bWeight c.blk }
  let s := setWalker s walker { w with slots := mput w.slots i x }
  if c.mm then s else onTicket s c.ticket fun t => { t with state := 1 }

/-- An accepted command takes the lowest-numbered free slot, or waits (R76). -/
def acceptCmd (s : State) (walker : Nat) (c : Cmd) : State :=
  let w := getWalker s walker
  match w.pendq, freeSlot s walker with
  | [], some i => placeCmd s walker i c
  | q, _ => setWalker s walker { w with pendq := q ++ [c] }

/-- The pending queue is served first in, first out, as far as slots are free; by fuel. -/
def serveGo (walker : Nat) : Nat → State → State
  | 0, s => s
  | n + 1, s =>
    let w := getWalker s walker
    match w.pendq, freeSlot s walker with
    | c :: t, some i => serveGo walker n (placeCmd (setWalker s walker { w with pendq := t }) walker i c)
    | _, _ => s

/-- The pending queue is served (R76): a walker has eight slots. -/
def servePending (s : State) (walker : Nat) : State := serveGo walker 8 s

end Sys2Proof.Machine
end

