-- ==== Sys2Proof/Machine/Matrix.lean ====
section
/-! DEFINITION. The matrix engine (R186–R206): records and their checks, the queue, the products, and the events by which queued
operations start and complete. -/

namespace Sys2Proof.Machine

/-! ## Records (R187–R189) -/

/-- A tile record as read from its four registers. -/
structure TileRec where
  base : Nat
  pitch : Nat
  rows : Nat
  cols : Nat
  zeros : Bool
  deriving DecidableEq, Repr

/-- The fields of four words (R188); `zeros` says that the fields that must be zero are. -/
def tileOf (w : List Word) : TileRec :=
  let g := fun i => (w[i]?.getD 0).toNat
  ⟨bits (g 0) 24 0, bits (g 1) 15 0, bits (g 2) 15 0, bits (g 2) 31 16,
    bits (g 0) 31 25 == 0 && bits (g 1) 31 16 == 0 && g 3 == 0⟩

/-- `n` uniform registers from k a. -/
def kWords (g : Group) (a n : Nat) : List Word := (List.range n).map fun i => readK g (a + i)

/-- FA, FB and ACC of an FMT (R127). -/
def fmtFA (m : Word) : Nat := (m.extractLsb' 8 3).toNat
def fmtFB (m : Word) : Nat := (m.extractLsb' 11 3).toNat
def fmt64 (m : Word) : Bool := m.extractLsb' 14 2 == 1

/-- Element width in bits of an operand format (R160). -/
def elemBits (is64 : Bool) (f : Nat) : Nat := if is64 then 64 else if f < 2 then 16 else if f = 5 ∨ f = 7 then 4 else 8

/-- The format has a scale record (R189). -/
def blockFmt (is64 : Bool) (f : Nat) : Bool := !is64 && decide (4 ≤ f)

/-- Bytes of a row of `cols` elements. -/
def rowBytes (cols w : Nat) : Nat := (cols * w + 7) / 8

/-- BASE and PITCH of a tile (R188). -/
def tileOk (t : TileRec) (w : Nat) : Bool :=
  t.base % 16 == 0 && t.pitch % 16 == 0 && (decide (t.rows ≤ 1) || decide (rowBytes t.cols w ≤ t.pitch))

/-- BASE and PITCH of a scale tile (R161). -/
def scaleOk (t : TileRec) : Bool := t.base % 256 == 0 && t.pitch % 2 == 0 && decide (2 * t.cols ≤ t.pitch)

/-- The accumulator record (R187). -/
def accBaseOf (w : Word) : Nat := (w.extractLsb' 0 16).toNat
def accPitchOf (w : Word) : Nat := (w.extractLsb' 16 16).toNat

/-- An accumulator range of `rows` rows of `cols` elements stays within the reservation (R192, subcode 4). -/
def accRangeOk (size : Nat) (acc : Word) (e rows cols : Nat) : Bool :=
  rows == 0 || cols == 0 ||
    (decide (accBaseOf acc + accPitchOf acc * (rows - 1) + e * cols ≤ size) &&
      (decide (rows ≤ 1) || decide (e * cols ≤ accPitchOf acc)))

/-! ## Footprints (R192, R193) -/

/-- A range of column bytes: address and length. -/
abbrev Range := Nat × Nat

/-- Rows of a tile as ranges; `ix` gives the stored row of each (log entry 26, DEDUCED). -/
def tileRanges (t : TileRec) (rows : List Nat) (w : Nat) (ix : Nat → Nat) : List Range :=
  rows.map fun i => (t.base + t.pitch * ix i, rowBytes t.cols w)

/-- What the given rows of operand A take of its tile and its scale tile. -/
def aRanges (fmt : Word) (a as_ : TileRec) (rows : List Nat) (ix : Nat → Nat) : List Range :=
  tileRanges a rows (elemBits (fmt64 fmt) (fmtFA fmt)) ix ++ (if blockFmt (fmt64 fmt) (fmtFA fmt) then tileRanges as_ rows 16 ix else [])

/-- What operand B takes of its tile and its scale tile. -/
def bRanges (fmt : Word) (b bs : TileRec) : List Range :=
  tileRanges b (List.range b.rows) (elemBits (fmt64 fmt) (fmtFB fmt)) id ++
    (if blockFmt (fmt64 fmt) (fmtFB fmt) then tileRanges bs (List.range bs.rows) 16 id else [])

/-- The lowest failing byte of a range with its subcode, at granule steps: none when every byte is allowed (R98, R99). -/
def rangeFault (c : Column) (ctx : BitVec 8) (r : Range) : Option (Nat × Nat) :=
  let (a, n) := r
  if n = 0 then none
  else
    (((List.range ((a + n - 1) / 256 + 1 - a / 256)).map fun i => a / 256 + i).find? fun g =>
      decide (colGranules ≤ g) || !ownedBy c ctx (256 * g)).map fun g =>
        (if colGranules ≤ g then 1 else 3, max a (256 * g))

/-- The subcodes of every failing range: a range that leaves the column fails with subcode 1 whatever else it fails
with. -/
def rangeSub (r : Range) (sub : Nat) : Nat := if colBytes < r.1 + r.2 then 1 else sub

/-- The COLUMN trap of a footprint: lowest subcode, lowest failing address (R192, log entry 26, DEDUCED). -/
def footFault (c : Column) (ctx : BitVec 8) (rs : List Range) : Option (Nat × Nat) :=
  rs.foldl (fun t r =>
    match rangeFault c ctx r with
    | none => t
    | some (sub, a) =>
      let sub := rangeSub r sub
      match t with
      | some (s', a') => some (min sub s', min a a')
      | none => some (sub, a)) none

/-- The sectors of a footprint. -/
def footSectors (rs : List Range) : List Nat := (rs.flatMap fun r => sectorsOf r.1 r.2).eraseDups

/-- Some range of a footprint covers all of a sector; ranges of one row never share a sector's bytes with another's. -/
def sectorWhole (rs : List Range) (sec : Nat) : Bool :=
  (List.range 64).all fun i => rs.any fun r => decide (r.1 ≤ 64 * sec + i ∧ 64 * sec + i < r.1 + r.2)

/-! ## Issue -/

/-- Column ranges that touch a page in exchange wait until the exchange has ended (R118). -/
def settleRanges (s : State) (core : Nat) (rs : List Range) : State :=
  rs.foldl (fun s r => if r.2 = 0 then s else settleFor (settleFor s core r.1) core (r.1 + r.2 - 1)) s

/-- The rows that an operation processes (R194). -/
def procRows (all_ : Bool) (width : Nat) (mask : Dword) (rows : Nat) : List Nat :=
  (List.range rows).filter fun i => all_ || mask.getLsbD (i % width)

/-- Orders 2 to 4 of R192, then the queue (R191): `sub` is the MATRIX subcode or 0, `foot` the footprints, `reads` what the operation reads
of them, and `parts` what it writes (R193, R202). An instruction that parks begins its region as its operation starts (R199). -/
def enqueueMat (fw : Word) (sub : Nat) (foot reads parts : List Range) (region parks : Bool) (op : Ctx → List Nat → MOp)
    (s : State) (c : Ctx) : Done :=
  let s := settleRanges s c.core foot
  let k := getCore s c.core
  if sub ≠ 0 then .trap 7 sub (fw.setWidth 64)
  else
    match footFault k.col c.g.ctx foot with
    | some (sub, a) => .trap 5 sub (BitVec.ofNat 64 a)
    | none =>
      let t := s.time.toNat
      let secs := footSectors reads ++ (footSectors parts).filter fun x => !sectorWhole parts x
      match least (secs.filter fun x => trapExpired k.col x t) with
      | some x => .trap 6 0 (BitVec.ofNat 64 (64 * x))
      | none =>
        if 16 ≤ k.mq.length then .wait { mqRoom := true }
        else
          let lapsed := secs.filter fun x => lapExpired k.col x t
          let c := { c with st := { c.st with lapse := c.st.lapse || !lapsed.isEmpty } }
          let s := setCore s c.core { k with mq := k.mq ++ [op c lapsed] }
          if parks then .gone (parkWith s c .engine) else .ok s (if region then newRegion c else c)

/-- The MATRIX subcode of one operand (R192, subcodes 1 to 3): `isB` chooses the limits on its rows. -/
def operandSub (isB is64 : Bool) (f : Nat) (t sc : TileRec) : List Nat :=
  let k := t.cols
  let w := elemBits is64 f
  let blk := blockFmt is64 f
  let shape := decide (1 ≤ t.rows ∧ t.rows ≤ (if isB then 256 else 128) ∧ 32 ≤ k ∧ k ≤ 1024 ∧ k % 32 = 0)
  let scShape := !blk || (if isB then sc.rows == k / 32 && sc.cols == t.rows else sc.rows == t.rows && sc.cols == k / 32)
  (if t.zeros && (!blk || sc.zeros) then [] else [1]) ++ (if shape && scShape then [] else [2]) ++
    (if tileOk t w && (!blk || scaleOk sc) then [] else [3])

/-- The accumulator reservation of a team on a core, in entries: base and size (R186). -/
def accOn (s : State) (team core : Nat) : Nat × Nat :=
  match getTeam s team with | some t => (mget 0 t.accBases core, t.accSize) | none => (0, 0)

/-- The teams of an MMAX (R200): the block of the team holds all 16 cores of the cluster, one team on each. -/
def mmaxTeams (s : State) (g : Group) : Bool :=
  let cl := clusterOf g.core
  let mine := (participants s g 3).map fun h => (h.core, h.team)
  (match launchOf s g.team with | some l => lrec l 24 2 != 0 | none => false) &&
    ((List.range 16).all fun i => mine.any fun x => x.1 == 16 * cl + i) &&
    (mine.all fun x => mine.all fun y => x.1 != y.1 || x.2 == y.2) &&
    mine.all fun x => x.1 / 16 == cl

/-- MMA, MMAP and MMAX (R195, R199, R200). Expiry is judged over the rows that the operation processes; the panels that MMAX reads for other
cores are judged whole (R193, R194, log entry 26, DEDUCED). -/
def bodyProduct (i : Instr) (f : GA) (s : State) (c : Ctx) : Done :=
  let op := wOp (firstWord i)
  let m := c.st.fmt
  let is64 := fmt64 m
  let x := f.x.toNat
  let gath := x.testBit 1
  let ra := readsA op c.core
  let rb := readsB op c.core
  let wa := kWords c.g f.a.toNat 4
  let was := kWords c.g (f.a.toNat + 4) 4
  let wb := kWords c.g f.b.toNat 4
  let wbs := kWords c.g (f.b.toNat + 4) 4
  let a := tileOf wa
  let as_ := tileOf was
  let b := tileOf wb
  let bs := tileOf wbs
  let acc := readK c.g f.d.toNat
  let e := if is64 then 2 else 1
  let range := !(ra && rb) || accRangeOk (accOn s c.g.team c.core).2 acc e a.rows b.rows
  let subs := (if ra then operandSub false is64 (fmtFA m) a as_ else []) ++
    (if rb then operandSub true is64 (fmtFB m) b bs else []) ++
    (if ra && rb && a.cols != b.cols then [2] else []) ++ (if range then [] else [4]) ++
    (if op = 0x22 ∧ !mmaxTeams s c.g then [6] else [])
  let ix := fun r => if gath then (mget 0 c.g.gset r).toNat else r
  let rows := if op = 0x22 then List.range a.rows else procRows (x.testBit 2) c.g.width c.st.mask a.rows
  let onA := fun (rows : List Nat) => if ra then aRanges m a as_ rows ix else []
  let onB := if rb then bRanges m b bs else []
  enqueueMat (firstWord i) ((least subs).getD 0) (onA (List.range a.rows) ++ onB)
    (onA rows ++ (if op = 0x20 ∧ rows = [] then [] else onB)) [] (!x.testBit 0) (op != 0x20)
    (fun c lapsed => {
      instr := i, grp := c.slot, sid := c.st.sid, pc := c.pc0, mask := c.st.mask, fmt := m, word := firstWord i, acc := acc
      a := wa, as_ := was, b := wb, bs := wbs, gset := c.g.gset, lapsed := lapsed }) s c

/-- MMA (R195). -/
def execMma (f : GA) (s : State) : Host.Outcome State Fault Refusal := runInstr (.mma f) (bodyProduct (.mma f) f) s

/-- MMAP (R199). -/
def execMmap (f : GA) (s : State) : Host.Outcome State Fault Refusal := runInstr (.mmap f) (bodyProduct (.mmap f) f) s

/-- MMAX (R200). -/
def execMmax (f : GA) (s : State) : Host.Outcome State Fault Refusal := runInstr (.mmax f) (bodyProduct (.mmax f) f) s

/-- An operation of MCLR, MSTA or MLDA as queued. -/
def plainOp (i : Instr) (acc : Word) (a : List Word) (c : Ctx) (lapsed : List Nat) : MOp := {
  instr := i, grp := c.slot, sid := c.st.sid, pc := c.pc0, mask := c.st.mask, fmt := c.st.fmt, word := firstWord i, acc := acc
  a := a, as_ := [], b := [], bs := [], gset := [], lapsed := lapsed }

/-- MCLR (R201). -/
def bodyMclr (f : GA) (s : State) (c : Ctx) : Done :=
  let sh := readK c.g f.a.toNat
  let acc := readK c.g f.d.toNat
  let e := if fmt64 c.st.fmt then 2 else 1
  let ok := accRangeOk (accOn s c.g.team c.core).2 acc e (sh.extractLsb' 0 16).toNat (sh.extractLsb' 16 16).toNat
  enqueueMat (firstWord (.mclr f)) (if ok then 0 else 4) [] [] [] false false (plainOp (.mclr f) acc [sh]) s c

/-- MCLR (R201). -/
def execMclr (f : GA) (s : State) : Host.Outcome State Fault Refusal := runInstr (.mclr f) (bodyMclr f) s

/-- Element width in bits of a format code of R202. -/
def codeBits (x : Nat) : Nat := match x with | 0 => 32 | 1 => 16 | 2 => 16 | 7 => 64 | _ => 8

/-- MSTA and MLDA (R202). -/
def bodyMove (i : Instr) (store : Bool) (f : GA) (s : State) (c : Ctx) : Done :=
  let wa := kWords c.g f.a.toNat 4
  let a := tileOf wa
  let acc := readK c.g f.d.toNat
  let e := if fmt64 c.st.fmt then 2 else 1
  let w := codeBits (f.x.toNat % 16)
  let sub := if !a.zeros then 1 else if !tileOk a w then 3
    else if !accRangeOk (accOn s c.g.team c.core).2 acc e a.rows a.cols then 4 else 0
  let rows := tileRanges a (procRows (f.x.toNat.testBit 4) c.g.width c.st.mask a.rows) w id
  enqueueMat (firstWord i) sub (tileRanges a (List.range a.rows) w id) (if store then [] else rows) (if store then rows else []) false
    false (plainOp i acc wa) s c

/-- MSTA (R202). -/
def execMsta (f : GA) (s : State) : Host.Outcome State Fault Refusal := runInstr (.msta f) (bodyMove (.msta f) true f) s

/-- MLDA (R202). -/
def execMlda (f : GA) (s : State) : Host.Outcome State Fault Refusal := runInstr (.mlda f) (bodyMove (.mlda f) false f) s

/-- MFENCE (R203): it issues once the strand's operations have completed. -/
def execMfence (f : GA) (s : State) : Host.Outcome State Fault Refusal := runInstr (.mfence f) (fun s c => .ok s c) s

/-- MGATH (R190): its writes take effect 2 cycles after issue. -/
def bodyMgath (f : GA) (s : State) (c : Ctx) : Done :=
  let e0 := (readK c.g f.a.toNat).toNat
  let g := ((lanesOf c.st.mask).filter fun l => decide (e0 + l < 128)).foldl
    (fun g l => uPut g (128 + (e0 + l)) (((readV g l f.x.toNat).extractLsb' 0 16).setWidth 32)) c.g
  .ok s { c with g := g }

/-- MGATH (R190). -/
def execMgath (f : GA) (s : State) : Host.Outcome State Fault Refusal := runInstr (.mgath f) (bodyMgath f) s

/-! ## The products (R196) -/

/-- A column byte as an operation reads it: zero in a sector that had lapsed at issue (R193). -/
def matByte (col : Column) (lapsed : List Nat) (a : Nat) : Byte := if lapsed.contains (a / 64) then 0 else mget 0 col.bytes a

/-- The code of element j of a row that starts at `a` (R160). -/
def elemCode (rd : Nat → Byte) (w a j : Nat) : Nat :=
  if w = 4 then (rd (a + j / 2)).toNat / 16 ^ (j % 2) % 16 else readLE rd (a + w / 8 * j) (w / 8)

/-- Dec of R196 for a format code, with the two bytes of the scale entry. -/
def decElem (f code e0 e1 : Nat) : FVal :=
  match f with
  | 0 => fdec fp16 code
  | 1 => fdec bf16 code
  | 2 => fdec fmtE4 code
  | 3 => fdec fmtE5 code
  | 4 => decDXB 6 code e0 e1
  | 5 => decDXB 2 code e0 e1
  | 6 => decAQ false code e0 e1
  | _ => decAQ true code e0 e1

/-- Element (i, k) of operand A, whose stored row is `r`, or of operand B with `isB` (R161, R189). -/
def operandVal (rd : Nat → Byte) (isB : Bool) (f : Nat) (t sc : TileRec) (r k : Nat) : FVal :=
  let code := elemCode rd (elemBits false f) (t.base + t.pitch * r) k
  let se := if isB then sc.base + sc.pitch * (k / 32) + 2 * r else sc.base + sc.pitch * r + 2 * (k / 32)
  if 4 ≤ f then decElem f code (rd se).toNat (rd (se + 1)).toNat else decElem f code 0 0

/-- The exact sum of a block, +0 when it is zero (R196). -/
def blockSum (l : List FVal) : FVal :=
  let s := l.foldl (fun s x => (fvAdd rmNear s x).1) (.fin false 0 0)
  if s.isZero then .fin false 0 0 else s

/-- One element of a product (R196): `va` and `vb` give the decoded or FP64 operand values by k. -/
def dotF32 (acc kn : Nat) (va vb : Nat → FVal) : Nat :=
  (List.range (kn / 32)).foldl (fun acc kb =>
    let s := blockSum ((List.range 32).map fun j => (fvMul (va (32 * kb + j)) (vb (32 * kb + j))).1)
    (fadd fp32 rmNear false acc (roundFormat fp32 rmNear false s).1).1) acc

/-- One element in FP64 matrix mode (R196). -/
def dotF64 (acc kn : Nat) (va vb : Nat → Nat) : Nat :=
  (List.range kn).foldl (fun acc k => (ffma fp64 rmNear false (va k) (vb k) acc).1) acc

/-- An accumulator element (R187), by its first entry on the core. -/
def accRead (m : AMap Word) (at_ : Nat) (is64 : Bool) : Nat :=
  (mget 0 m at_).toNat + (if is64 then 2 ^ 32 * (mget 0 m (at_ + 1)).toNat else 0)

/-- Writes an accumulator element. -/
def accWrite (m : AMap Word) (at_ : Nat) (is64 : Bool) (v : Nat) : AMap Word :=
  let m := mset 0 m at_ (BitVec.ofNat 32 v)
  if is64 then mset 0 m (at_ + 1) (BitVec.ofNat 32 (v / 2 ^ 32)) else m

/-- Where an operand comes from: the queued operation that names it, on its core. -/
structure Source where
  core : Nat
  op : MOp
  deriving DecidableEq, Repr

/-- The group of an operation on a core. -/
def opGroup (s : State) (core : Nat) (o : MOp) : Option Group := getGroup s core o.grp

/-- The accumulator after one core's part of a product: A and B from their sources, rows under the core's own mask. -/
def productPart (s : State) (core : Nat) (o : MOp) (sa sb : Source) : AMap Word :=
  let m := o.fmt
  let is64 := fmt64 m
  let e := if is64 then 2 else 1
  let x := o.word.toNat
  let a := tileOf sa.op.a
  let as_ := tileOf sa.op.as_
  let b := tileOf sb.op.b
  let bs := tileOf sb.op.bs
  let ra := matByte (getCore s sa.core).col sa.op.lapsed
  let rb := matByte (getCore s sb.core).col sb.op.lapsed
  let ix := fun r => if x.testBit 1 then (mget 0 sa.op.gset r).toNat else r
  let (width, team) := match opGroup s core o with | some g => (g.width, g.team) | none => (16, 0)
  let base := (accOn s team core).1
  (procRows (x.testBit 2) width o.mask a.rows).foldl (fun acc i =>
    (List.range b.rows).foldl (fun acc n =>
      let p := base + accBaseOf o.acc + accPitchOf o.acc * i + e * n
      let old := if x.testBit 0 then (if is64 then 2 ^ 63 else 2 ^ 31) else accRead acc p is64
      let v := if is64 then
          dotF64 old a.cols (elemCode ra 64 (a.base + a.pitch * ix i)) (elemCode rb 64 (b.base + b.pitch * n))
        else
          dotF32 old a.cols (operandVal ra false (fmtFA m) a as_ (ix i)) (operandVal rb true (fmtFB m) b bs n)
      accWrite acc p is64 v) acc) (getCore s core).acc

/-! ## Starting and completing (R197–R200) -/

/-- The operation at the head of a core's queue. -/
def headOp (s : State) (core : Nat) : Option MOp := (getCore s core).mq.head?

/-- Replaces the head of a queue. -/
def setHead (s : State) (core : Nat) (o : MOp) : State :=
  let k := getCore s core
  setCore s core { k with mq := match k.mq with | [] => [] | _ :: t => o :: t }

/-- Removes the head of a queue. -/
def popHead (s : State) (core : Nat) : State :=
  let k := getCore s core
  setCore s core { k with mq := k.mq.tail, hold := none }

/-- A trap taken by a strand that is not at work (R199): it changes nothing of the run in progress elsewhere. A strand that has been stopped
takes it when it is resumed (R269). -/
def trapAt (s : State) (core slot sid : Nat) (pc : Dword) (cause sub : Nat) (v : Dword) : State :=
  match ctxAt s core slot sid with
  | none => s
  | some c =>
    match c.st.status with
    | .stopped _ _ => putCtx s { c with st := { c.st with pc := pc, kept := some (.delivery cause sub v pc 0 true) } }
    | _ =>
      let cur := s.cur
      let s := takeTrap s { c with pc0 := pc, st := { c.st with status := .ready } } cause sub v pc
      if cur = some (core, slot, sid) then s else { s with cur := cur }

/-- The cores whose engines take part in a core's product. -/
def productCores (op core : Nat) : List Nat :=
  if op = 0x21 then [core / 2 * 2, core / 2 * 2 + 1] else if op = 0x22 then (List.range 16).map (16 * clusterOf core + ·)
  else [core]

/-- The heads of a list of cores, when each holds a product of opcode `op`, started or not as asked. -/
def headsOf (s : State) (op : Nat) (started : Bool) (cores : List Nat) : Option (List Source) :=
  let l := cores.filterMap fun c => (headOp s c).map fun o => (⟨c, o⟩ : Source)
  if l.length = cores.length && l.all fun x => wOp x.op.word == op && x.op.started == started then some l else none

/-- The source of A, and of B, for a core of a product (R199, R200). -/
def sourceA (op : Nat) (l : List Source) (x : Source) : Source :=
  if op = 0x22 then (l.find? fun y => y.core % 16 == x.core % 16 / 4 * 4).getD x else x
def sourceB (op : Nat) (l : List Source) (x : Source) : Source :=
  if op = 0x22 then (l.find? fun y => y.core % 16 == x.core % 4).getD x
  else if op = 0x21 then (l.find? fun y => y.core % 2 == 0).getD x else x

/-- The lowest subcode of the checks made at a start (R192, R199, R200), or 0. -/
def startSub (s : State) (op : Nat) (l : List Source) : Nat :=
  let ctxs := (l.map fun x => (opGroup s x.core x.op).map (·.ctx)).eraseDups
  let fmts := (l.map fun x => x.op.fmt.extractLsb' 8 8).eraseDups
  let cols := ((l.filter fun x => readsA op x.core).map fun x => (tileOf x.op.a).cols) ++
    (l.filter fun x => readsB op x.core).map fun x => (tileOf x.op.b).cols
  let fits := l.all fun x => match opGroup s x.core x.op with
    | some g => accRangeOk (accOn s g.team x.core).2 x.op.acc (if fmt64 x.op.fmt then 2 else 1)
        (tileOf (sourceA op l x).op.a).rows (tileOf (sourceB op l x).op.b).rows
    | none => false
  if !fits then 4 else if ctxs.length ≠ 1 ∨ fmts.length ≠ 1 ∨ cols.eraseDups.length ≠ 1 then 5 else 0

/-- A strand that waited for its engine goes on, one that was stopped there as soon as it is resumed (R199, R269). Without .ovw a region
begins after the instruction (R205). -/
def engineWake (s : State) (x : Source) : State :=
  onStrand s x.core x.op.grp x.op.sid fun t =>
    let t' := if x.op.word.getLsbD 0 then t else regionAt t
    match t.status, t.kept with
    | .parked .engine, _ => { t' with status := .ready }
    | .stopped _ _, some .engine => { t' with kept := none }
    | _, _ => t

/-- The panel multicasts of a core's MMAX, by walker of the cluster (R200). -/
def multicasts (core : Nat) : List Nat :=
  (if readsA 0x22 core then [core % 16 / 4] else []) ++ (if readsB 0x22 core then [core % 16] else [])

/-- A panel multicast of MMAX takes a slot of its walker, or waits in its queue (R200). -/
def takeMulticast (s : State) (walker : Nat) (ctx : BitVec 8) (core team : Nat) : State :=
  acceptCmd s walker {
    ticket := 0, chain := false, ctx := ctx, core := core, team := team, part := 0, gen := 0, addr := 0, blk := 0, mm := true }

/-- Every walker of a cluster has room for the two multicasts of an MMAX. -/
def multicastRoom (s : State) (cluster : Nat) : Bool :=
  (List.range 4).all fun i => decide ((getWalker s (4 * cluster + i)).pendq.length ≤ 14)

/-- The cycle that a core is in: none before the current tick's first, nor before the core's last issue. -/
def nowCycle (s : State) (core : Nat) : Nat := max ((s.clk + 9) / 10) (getCore s core).front

/-- The engine of a core has come to hold the head of its queue by cycle `n`. -/
def holdsBy (s : State) (op core n : Nat) : Bool :=
  match headOp s core, (getCore s core).hold with
  | some o, some h => wOp o.word == op && !o.started && decide (h < n)
  | _, _ => false

/-- The cores on which a product is waited for hold it, each before any other has held it for 65,536 cycles (R199). -/
def heldTogether (s : State) (op : Nat) (cores : List Nat) : Bool :=
  cores.all fun c => match (getCore s c).hold with
    | some h => cores.all fun d => holdsBy s op d (h + 65536)
    | none => false

/-- Starts a product whose engines all hold: checks, then the strands rejoin arbitration (R199, R200). -/
def startTogether (s : State) (op : Nat) (cores : List Nat) : State :=
  match headsOf s op false cores with
  | none => s
  | some l =>
    if !heldTogether s op cores || (op == 0x22 && !multicastRoom s ((cores.headD 0) / 16)) then s
    else
      let sub := startSub s op l
      if sub ≠ 0 then
        l.foldl (fun s x => trapAt (popHead s x.core) x.core x.op.grp x.op.sid x.op.pc 7 sub (x.op.word.setWidth 64)) s
      else
        let s := l.foldl (fun s x => engineWake (setHead s x.core { x.op with started := true }) x) s
        if op ≠ 0x22 then s
        else
          l.foldl (fun s x =>
            match opGroup s x.core x.op with
            | some g => (multicasts x.core).foldl (fun s w => takeMulticast s (4 * clusterOf x.core + w) g.ctx x.core g.team) s
            | none => s) s

/-- MMAP_START (R199). -/
def execMmapStart (pair : Nat) (s : State) : Host.Outcome State Fault Refusal :=
  .next (startTogether s 0x21 [2 * pair, 2 * pair + 1])

/-- MMAX_START (R200). -/
def execMmaxStart (cluster : Nat) (s : State) : Host.Outcome State Fault Refusal :=
  .next (startTogether s 0x22 ((List.range 16).map (16 * cluster + ·)))

/-- MATRIX_OP_START (R197, R199): the head starts, or its engine begins to hold. -/
def startMatrix (s : State) (core : Nat) : State :=
  match headOp s core with
  | none => s
  | some o =>
    if o.started then s
    else if wOp o.word = 0x21 ∨ wOp o.word = 0x22 then
      let k := getCore s core
      if k.hold.isNone then setCore s core { k with hold := some (nowCycle s core) } else s
    else setHead s core { o with started := true }

/-- MATRIX_OP_START (R197). -/
def execMatrixOpStart (core : Nat) (s : State) : Host.Outcome State Fault Refusal := .next (startMatrix s core)

/-- PAIR_TIMEOUT (R199, R200): an engine has held for 65,536 cycles without a partner; its strand takes the trap at the instruction. -/
def pairTimeout (s : State) (core : Nat) : State :=
  match headOp s core, (getCore s core).hold with
  | some o, some t =>
    if o.started ∨ nowCycle s core < t + 65536 ∨
        (productCores (wOp o.word) core).all fun d => holdsBy s (wOp o.word) d (t + 65536) then s
    else trapAt (popHead s core) core o.grp o.sid o.pc 9 0 (o.word.setWidth 64)
  | _, _ => s

/-- PAIR_TIMEOUT (R199). -/
def execPairTimeout (core : Nat) (s : State) : Host.Outcome State Fault Refusal := .next (pairTimeout s core)

/-! ## Heat tokens, errors, completion -/

/-- A heat-token rate and capacity of a core's die (R366). -/
def htOf (s : State) (core : Nat) : Nat × Nat :=
  let x := mget 0x00400000 s.mg.htcfg (dieOf core)
  ((x.extractLsb' 0 16).toNat, max 1 (x.extractLsb' 16 16).toNat)

/-- Takes tokens for up to `n` k-steps over `groups` column groups: how many steps were taken, and the buckets (R198). -/
def takeTokens (heat : AMap Nat) (groups : Nat) : Nat → Nat → Nat × AMap Nat
  | 0, done => (done, heat)
  | n + 1, done =>
    if (List.range groups).all fun g => decide (256 ≤ mget 0 heat g) then
      takeTokens ((List.range groups).foldl (fun h g => mput h g (mget 0 h g - 256)) heat) groups n (done + 1)
    else (done, heat)

/-- The k-steps of an operation (R197). -/
def ksOf (fmt : Word) (k : Nat) : Nat := if fmt64 fmt then k else k / 32

/-- The 64-bit words of a footprint in a core's column that are in error. -/
def footErr (s : State) (core : Nat) (rs : List Range) : Bool :=
  (getErr s 0 core).bad.any fun e => e.2 && rs.any fun r => decide (r.1 ≤ 8 * e.1 + 7 ∧ 8 * e.1 < r.1 + r.2)

/-- A core's part of a product processes a row (R194). -/
def processes (s : State) (x : Source) (i : Nat) : Bool :=
  match opGroup s x.core x.op with
  | some g => x.op.word.getLsbD 2 || x.op.mask.getLsbD (i % g.width)
  | none => false

/-- What a product reads of a core's column (R193, R194, R200): the rows of A that some part takes from it and processes, and B where a
part that processes a row takes it from there. -/
def opReads (s : State) (op : Nat) (l : List Source) (x : Source) : List Range :=
  let o := x.op
  let ix := fun r => if o.word.toNat.testBit 1 then (mget 0 o.gset r).toNat else r
  let a := tileOf o.a
  let rows := (List.range a.rows).filter fun i => l.any fun y => (sourceA op l y).core == x.core && processes s y i
  let useB := l.any fun y => (sourceB op l y).core == x.core &&
    (List.range (tileOf (sourceA op l y).op.a).rows).any fun i => processes s y i
  (if readsA op x.core then aRanges o.fmt a (tileOf o.as_) rows ix else []) ++
    (if readsB op x.core ∧ useB then bRanges o.fmt (tileOf o.b) (tileOf o.bs) else [])

/-- An accumulator range with an error in it (R303). -/
def accErr (s : State) (core base n : Nat) : Bool :=
  (getErr s 1 core).bad.any fun e => e.2 && decide (base ≤ 2 * e.1 + 1 ∧ 2 * e.1 < base + n)

/-- Notes an operation that was lost (R303): its strand stops at its next wait on completion. -/
def loseOp (s : State) (x : Source) (kind : Nat) : State :=
  onGroup s x.core x.op.grp fun g => { g with mbad := g.mbad ++ [(x.op.mask, x.op.pc, kind)] }

/-- Reads words of a core's columns (kind 0) or accumulator memory (kind 1): their errors are logged, and true when one of
them is uncorrectable (R302, R305). -/
def errReads (s : State) (kind core ctx : Nat) (hit : Nat → Bool) : Bool × State :=
  ((getErr s kind core).bad.filter fun e => hit e.1).foldl (fun r e =>
    let (b, s) := errRead r.2 kind core e.1 ((if kind = 0 then 8 else 2) * e.1) core ctx
    (r.1 || b, s)) (false, s)

/-- A 64-bit word of a column that ranges touch. -/
def rangeHit (rs : List Range) (w : Nat) : Bool := rs.any fun r => decide (r.1 ≤ 8 * w + 7 ∧ 8 * w < r.1 + r.2)

/-- A 64-bit word of the accumulator memory that rows of `n` entries touch. -/
def accHit (base pitch n : Nat) (rows : List Nat) (w : Nat) : Bool :=
  rows.any fun i => decide (base + pitch * i ≤ 2 * w + 1 ∧ 2 * w < base + pitch * i + n)

/-- The accumulator words of a product on one core. -/
def productAcc (s : State) (op : Nat) (l : List Source) (x : Source) (w : Nat) : Bool :=
  match opGroup s x.core x.op with
  | none => false
  | some g =>
    accHit ((accOn s g.team x.core).1 + accBaseOf x.op.acc) (accPitchOf x.op.acc)
      ((if fmt64 x.op.fmt then 2 else 1) * (tileOf (sourceB op l x).op.b).rows)
      (procRows (x.op.word.toNat.testBit 2) g.width x.op.mask (tileOf (sourceA op l x).op.a).rows) w

/-- A product reads its operands and, unless it starts anew, its accumulator: the array kind of the uncorrectable error that it
meets, or none (R303). -/
def productReads (s : State) (op : Nat) (l : List Source) : Option Nat × State :=
  let (b, s) := l.foldl (fun (r : (Bool × Bool) × State) x =>
    let ctx := match opGroup s x.core x.op with | some g => g.ctx.toNat | none => 255
    let (b0, t) := errReads r.2 0 x.core ctx (rangeHit (opReads s op l x))
    let (b1, t) := if x.op.word.getLsbD 0 then (false, t) else errReads t 1 x.core ctx (productAcc s op l x)
    ((r.1.1 || b0, r.1.2 || b1), t)) ((false, false), s)
  (if b.1 then some 0 else if b.2 then some 1 else none, s)

/-- The multicasts of a cluster's MMAX give up their slots, and the pending queues are served. -/
def endMulticast (s : State) (cluster : Nat) : State :=
  (List.range 4).foldl (fun s i =>
    let w := getWalker s (4 * cluster + i)
    servePending (setWalker s (4 * cluster + i) { w with
      slots := w.slots.filter fun e => !e.2.cmd.mm
      pendq := w.pendq.filter fun c => !c.mm }) (4 * cluster + i)) s

/-- A multicast still waits for a slot. -/
def multicastWaits (s : State) (cluster : Nat) : Bool :=
  (List.range 4).any fun i => (getWalker s (4 * cluster + i)).pendq.any fun c => c.mm

/-- Completes a product: every part computed from the state as it stands, then written (R196). -/
def finishProduct (s : State) (op : Nat) (l : List Source) : State :=
  let s := l.foldl (fun s x => settleRanges s x.core (opReads s op l x)) s
  let s' := match productReads s op l with
    | (some kind, s) => l.foldl (fun s x => loseOp s x kind) s
    | (none, s) =>
      let parts := l.map fun x => (x, productPart s x.core x.op (sourceA op l x) (sourceB op l x))
      let s := parts.foldl (fun s p => setCore s p.1.core { (getCore s p.1.core) with acc := p.2 }) s
      let s := l.foldl (fun s x => errWrites s 1 x.core (productAcc s op l x)) s
      l.foldl (fun s x =>
        match opGroup s x.core x.op with
        | some g => charge s x.core g.ctx.toNat
            (ewt s x.core 3 * ksOf x.op.fmt (tileOf (sourceA op l x).op.a).cols)
        | none => s) s
  let s' := l.foldl (fun s x => popHead s x.core) s'
  match l with
  | x :: _ => if op = 0x22 then endMulticast s' (clusterOf x.core) else s'
  | [] => s'

/-- Runs the k-steps of a product as far as its buckets go (R198), and completes it after the last. -/
def runProduct (s : State) (op core : Nat) : State :=
  match headsOf s op true (productCores op core) with
  | none => s
  | some l =>
    let (rate, _) := htOf s core
    let total := match l with | x :: _ => ksOf x.op.fmt (tileOf (sourceA op l x).op.a).cols | [] => 0
    if op = 0x22 ∧ multicastWaits s (clusterOf core) then s
    else if rate = 0 then finishProduct s op l
    else
      let steps := l.map fun x =>
        let n := (tileOf (sourceB op l x).op.b).rows
        (x, takeTokens (getCore s x.core).heat ((n + 15) / 16) (total - x.op.ksteps) 0)
      let can := (least (steps.map fun y => y.2.1)).getD 0
      let s := steps.foldl (fun s y =>
        let n := (tileOf (sourceB op l y.1).op.b).rows
        let k := getCore s y.1.core
        setHead (setCore s y.1.core { k with heat := (takeTokens k.heat ((n + 15) / 16) can 0).2 }) y.1.core
          { y.1.op with ksteps := y.1.op.ksteps + can }) s
      match l with
      | x :: _ => if total ≤ x.op.ksteps + can then finishProduct s op l else s
      | [] => s

/-- MCLR's effect (R201). -/
def finishMclr (s : State) (x : Source) (g : Group) : State :=
  let sh := x.op.a.headD 0
  let e := if fmt64 x.op.fmt then 2 else 1
  let base := (accOn s g.team x.core).1 + accBaseOf x.op.acc
  let k := getCore s x.core
  let rows := procRows (x.op.word.toNat.testBit 2) g.width x.op.mask (sh.extractLsb' 0 16).toNat
  let n := e * (sh.extractLsb' 16 16).toNat
  errWrites (setCore s x.core { k with acc := rows.foldl (fun m i =>
    (List.range n).foldl (fun m j => mdel m (base + accPitchOf x.op.acc * i + j)) m) k.acc }) 1 x.core
    (accHit base (accPitchOf x.op.acc) n rows)

/-- The format and sat of a code of R202. -/
def codeFmt (x : Nat) : Fmt × Bool :=
  match x with
  | 0 => (fp32, false)
  | 1 => (fp16, false)
  | 2 => (bf16, false)
  | 3 => (fmtE4, false)
  | 4 => (fmtE4, true)
  | 5 => (fmtE5, false)
  | 6 => (fmtE5, true)
  | _ => (fp64, false)

/-- MSTA's effect (R202): rows up to the first that meets an error. -/
def finishMsta (s : State) (x : Source) (g : Group) : State :=
  let o := x.op
  let t := tileOf o.a
  let s := settleRanges s x.core (tileRanges t (procRows (o.word.toNat.testBit 4) g.width o.mask t.rows) (codeBits (o.word.toNat % 16)) id)
  let code := o.word.toNat % 16
  let w := codeBits code / 8
  let is64 := fmt64 o.fmt
  let e := if is64 then 2 else 1
  let base := (accOn s g.team x.core).1 + accBaseOf o.acc
  let rows := procRows (o.word.toNat.testBit 4) g.width o.mask t.rows
  let bad := fun i => accErr s x.core (base + accPitchOf o.acc * i) (e * t.cols)
  let rows' := rows.takeWhile fun i => !bad i
  let s := (errReads s 1 x.core g.ctx.toNat (accHit base (accPitchOf o.acc) (e * t.cols) (rows.take (rows'.length + 1)))).2
  let k := getCore s x.core
  let full := fun sec => sectorWhole (rows.map fun i => (t.base + t.pitch * i, rowBytes t.cols (8 * w))) sec
  let col := rows'.foldl (fun col i =>
    (List.range t.cols).foldl (fun col j =>
      let v := accRead k.acc (base + accPitchOf o.acc * i + e * j) is64
      let (dst, sat) := codeFmt code
      let r := (convFF (if is64 then fp64 else fp32) dst (fmtRM o.fmt) sat false false v).1
      let a := t.base + t.pitch * i + w * j
      let col := if full (a / 64) ∨ !o.lapsed.contains (a / 64) ∨ !lapExpired col (a / 64) s.time.toNat then col
        else { col with bytes := clearBytes col.bytes (a / 64 * 64) 64 }
      sectorWrite col s.time.toNat true a w r) col) k.col
  let s := errWrites (setCore s x.core { k with col := col }) 0 x.core
    (rangeHit (rows'.map fun i => (t.base + t.pitch * i, rowBytes t.cols (8 * w))))
  if rows'.length < rows.length then loseOp s x 1 else s

/-- MLDA's effect (R202). -/
def finishMlda (s : State) (x : Source) (g : Group) : State :=
  let o := x.op
  let t := tileOf o.a
  let s := settleRanges s x.core (tileRanges t (procRows (o.word.toNat.testBit 4) g.width o.mask t.rows) (codeBits (o.word.toNat % 16)) id)
  let code := o.word.toNat % 16
  let w := codeBits code / 8
  let is64 := fmt64 o.fmt
  let e := if is64 then 2 else 1
  let base := (accOn s g.team x.core).1 + accBaseOf o.acc
  let rows := procRows (o.word.toNat.testBit 4) g.width o.mask t.rows
  let range := fun i => (t.base + t.pitch * i, rowBytes t.cols (8 * w))
  let rows' := rows.takeWhile fun i => !footErr s x.core [range i]
  let s := (errReads s 0 x.core g.ctx.toNat (rangeHit ((rows.take (rows'.length + 1)).map range))).2
  let k := getCore s x.core
  let rd := matByte k.col o.lapsed
  let acc := rows'.foldl (fun m i =>
    (List.range t.cols).foldl (fun m j =>
      let v := readLE rd (t.base + t.pitch * i + w * j) w
      let r := (convFF (codeFmt code).1 (if is64 then fp64 else fp32) (fmtRM o.fmt) false false false v).1
      accWrite m (base + accPitchOf o.acc * i + e * j) is64 r) m) k.acc
  let s := errWrites (setCore s x.core { k with acc := acc }) 1 x.core
    (accHit base (accPitchOf o.acc) (e * t.cols) rows')
  if rows'.length < rows.length then loseOp s x 0 else s

/-- MATRIX_OP_COMPLETE (R197): the head's effect, and the next may start. -/
def completeMatrix (s : State) (core : Nat) : State :=
  match headOp s core with
  | none => s
  | some o =>
    if !o.started then s
    else
      let op := wOp o.word
      if op ≤ 0x22 then runProduct s op core
      else
        match opGroup s core o with
        | none => popHead s core
        | some g =>
          let x : Source := ⟨core, o⟩
          popHead (if op = 0x23 then finishMclr s x g else if op = 0x24 then finishMsta s x g else finishMlda s x g) core

/-- MATRIX_OP_COMPLETE (R197). -/
def execMatrixOpComplete (core : Nat) (s : State) : Host.Outcome State Fault Refusal := .next (completeMatrix s core)

end Sys2Proof.Machine
end

