-- ==== Sys2Proof/Machine/Engines.lean ====
section
/-! DEFINITION. Engine commands (R76–R97): command blocks, submission, TOKEN and ESTAT, and the events by which a walker slot
runs its blocks. -/

namespace Sys2Proof.Machine

/-! ## Submission (R83–R86) -/

/-- Refuses: nothing is queued (R84). -/
def refuse (c : Ctx) (d code : Nat) : Ctx := newRegion (writeKq c d (BitVec.ofNat 32 (0x80000000 + code)) false)

/-- The walker of a cluster can take a command: room, and the cluster is not changing its owner (R76, R294). -/
def walkerRoom (s : State) (core walker : Nat) : Bool :=
  let n := 4 * clusterOf core + walker
  !(mget {} (getDie s (dieOf core)).cown (clusterOf core)).moving &&
    ((freeSlot s n).isSome || decide ((getWalker s n).pendq.length < 16))

/-- Accepts a command with the next ticket of the core (R84). -/
def submit (f : GA) (chain : Bool) (addr : Nat) (blk : BitVec 1024) (s : State) (c : Ctx) : Done :=
  let walker := f.x.toNat % 4
  if !walkerRoom s c.core walker then .ok s (refuse c f.d.toNat 4)
  else
    let k := getCore s c.core
    let t := ticketOf c.core k.seq
    let tag := teamTag s c.g.team
    let tk := mput (mdel k.tickets ((k.seq + 2 ^ 22 - 256) % 2 ^ 22)) (k.seq % 2 ^ 22) { ctx := c.g.ctx, team := c.g.team }
    let s := setCore s c.core { k with seq := (k.seq + 1) % 2 ^ 22, tickets := tk }
    let s := acceptCmd s (4 * clusterOf c.core + walker) {
      ticket := t, chain := chain, ctx := c.g.ctx, core := c.core, team := c.g.team, part := tag.1, gen := tag.2
      addr := addr, blk := blk }
    .ok s (newRegion (writeKq c f.d.toNat t true))

/-- The own-column read of `n` bytes that a submission makes (R85, R270): traps, the lapse flag, the bytes. -/
def recordRead (n a : Nat) (k : Nat → State → Ctx → Done) (s : State) (c : Ctx) : Done :=
  let s := settleFor (settleFor s c.core a) c.core (a + n - 1)
  let col := (getCore s c.core).col
  match (List.range ((a + n - 1) / 256 + 1 - a / 256)).find? fun i => !ownedBy col c.g.ctx (256 * (a / 256 + i)) with
  | some i => .trap 5 3 (BitVec.ofNat 64 (max a (256 * (a / 256 + i))))
  | none =>
    let secs := sectorsOf a n
    let t := s.time.toNat
    match least (secs.filter fun x => trapExpired col x t) with
    | some x => .trap 6 0 (BitVec.ofNat 64 (64 * x))
    | none =>
      match colErr s c.g.ctx.toNat n [⟨0, c.core, a, a⟩] with
      | (true, s) => .gone (colStop s c c.core)
      | (false, s) =>
        let lapsed := secs.any fun x => lapExpired col x t
        k (colReadAt col t a n) s { c with st := { c.st with lapse := c.st.lapse || lapsed } }

/-- COPY, TILE and PUTS (R84). -/
def bodyCommand (ty : Nat) (f : GA) (s : State) (c : Ctx) : Done :=
  let a := (readK c.g f.a.toNat).toNat
  if bits a 31 25 ≠ 0 ∨ a % 128 ≠ 0 ∨ colBytes ≤ bits a 24 0 then .ok s (refuse c f.d.toNat 1)
  else
    recordRead 128 a (fun v s c =>
      let b := BitVec.ofNat 1024 v
      if bType b ≠ ty then .ok s (refuse c f.d.toNat 2)
      else if bLinkc b ≠ 0 ∨ !blockOk c.core b then .ok s (refuse c f.d.toNat 3)
      else submit f false 0 b s c) s c

/-- COPY (R83). -/
def execCopy (f : GA) (s : State) : Host.Outcome State Fault Refusal := runInstr (.copy f) (afterOps (bodyCommand 1 f)) s
/-- TILE (R83). -/
def execTile (f : GA) (s : State) : Host.Outcome State Fault Refusal := runInstr (.tile f) (afterOps (bodyCommand 2 f)) s
/-- PUTS (R83). -/
def execPuts (f : GA) (s : State) : Host.Outcome State Fault Refusal := runInstr (.puts f) (afterOps (bodyCommand 3 f)) s

/-- CHAIN (R84). -/
def bodyChain (f : GA) (s : State) (c : Ctx) : Done :=
  let v := (readJ c.g f.a.toNat).toNat
  if bits v 63 57 ≠ 0 ∨ v % 128 ≠ 0 then .ok s (refuse c f.d.toNat 5) else submit f true v 0 s c

/-- CHAIN (R83). -/
def execChain (f : GA) (s : State) : Host.Outcome State Fault Refusal := runInstr (.chain f) (afterOps (bodyChain f)) s

/-! ## TOKEN and ESTAT (R91, R93) -/

/-- The walker, and the slot or none for the pending queue, that hold a ticket in a cluster. -/
def findTicket (s : State) (cluster : Nat) (t : BitVec 32) : Option (Nat × Option Nat × Cmd) :=
  (List.range 4).findSome? fun i =>
    let w := getWalker s (4 * cluster + i)
    match w.slots.find? fun e => e.2.cmd.ticket == t && !e.2.cmd.mm with
    | some e => some (4 * cluster + i, some e.1, e.2.cmd)
    | none => (w.pendq.find? fun c => c.ticket == t && !c.mm).map fun c => (4 * cluster + i, none, c)

/-- Appends a token to the queue of a chain. -/
def addToken (s : State) (walker : Nat) (slot : Option Nat) (t : BitVec 32) (v : Byte) : State :=
  let w := getWalker s walker
  let f := fun (c : Cmd) => { c with tokens := c.tokens ++ [v] }
  match slot with
  | some i => match mfind w.slots i with
    | some x => setWalker s walker { w with slots := mput w.slots i { x with cmd := f x.cmd } }
    | none => s
  | none => setWalker s walker { w with pendq := w.pendq.map fun c => if c.ticket = t then f c else c }

/-- TOKEN (R91, log entry 22, DEDUCED). -/
def bodyToken (f : GA) (s : State) (c : Ctx) : Done :=
  let t := readK c.g f.a.toNat
  let v := readK c.g f.b.toNat
  let d := f.d.toNat
  if v.extractLsb' 8 24 ≠ 0 then .ok s (refuse c d 3)
  else if t.getLsbD 31 ∨ (t.extractLsb' 26 5).toNat ≠ clusterOf c.core then .ok s (refuse c d 0x0C)
  else
    match findTicket s (clusterOf c.core) t with
    | none => .ok s (refuse c d 0x0C)
    | some (w, slot, cmd) =>
      let ended := match slot with
        | some i => (match mfind (getWalker s w).slots i with | some x => x.phase == .ended | none => true)
        | none => false
      if cmd.ctx ≠ c.g.ctx then .ok s (refuse c d 0x0C)
      else if !cmd.chain || ended then .ok s (refuse c d 0x0E)
      else if 4 ≤ cmd.tokens.length then .ok s (refuse c d 0x0D)
      else .ok (addToken s w slot t (v.extractLsb' 0 8)) (newRegion (writeKq c d 0 true))

/-- TOKEN (R91). -/
def execToken (f : GA) (s : State) : Host.Outcome State Fault Refusal := runInstr (.token f) (afterOps (bodyToken f)) s

/-- A slot is running and waits on a permit, a token or a retryable fault (R93). -/
def slotWaiting (x : WSlot) : Bool := x.wait.isSome || x.phase == .token || (x.phase == .permit && bf x.blk 32 8 != 0)

/-- The status word of a ticket (R93): none where ESTAT does not know it. -/
def estatWord (s : State) (c : Ctx) (t : Word) : Option Word :=
  if t.getLsbD 31 ∨ t.toNat / 2 ^ 22 ≠ c.core then none
  else
    match mfind (getCore s c.core).tickets (t.toNat % 2 ^ 22) with
    | none => none
    | some x =>
      if x.ctx ≠ c.g.ctx then none
      else
        let waiting := x.state == 1 && match findTicket s (clusterOf c.core) t with
          | some (w, some i, _) => (match mfind (getWalker s w).slots i with | some y => slotWaiting y | none => false)
          | _ => false
        some (BitVec.ofNat 32 (x.state + 4 * waiting.toNat + 8 * x.lapse.toNat + 2 ^ 8 * x.err.toNat + 2 ^ 16 * x.fcode.toNat +
          2 ^ 24 * min x.blocks 127))

/-- ESTAT (R93). -/
def bodyEstat (f : GA) (s : State) (c : Ctx) : Done :=
  match estatWord s c (readK c.g f.a.toNat) with
  | none => .ok s (writeKq c f.d.toNat 0x8000000C false)
  | some v => .ok s (writeKq c f.d.toNat v (v.extractLsb' 0 2 == 2))

/-- ESTAT (R93). -/
def execEstat (f : GA) (s : State) : Host.Outcome State Fault Refusal := runInstr (.estat f) (bodyEstat f) s

/-! ## Slots (R87–R92) -/

/-- A slot that is not held by a record of its own (R283). -/
def slotOf (s : State) (walker i : Nat) : Option WSlot :=
  if waiting s (.slot walker i) then none else mfind (getWalker s walker).slots i

/-- Changes a slot. -/
def setSlot (s : State) (walker i : Nat) (x : WSlot) : State :=
  let w := getWalker s walker
  setWalker s walker { w with slots := mput w.slots i x }

/-- A slot posts a record with its ticket. -/
def postSlot (s : State) (walker i : Nat) (x : WSlot) (code flags va : Nat) : State :=
  post s (.slot walker i) code 1 x.cmd.ctx.toNat flags (locSlot x.cmd.core (walker % 4) i) va x.cmd.ticket.toNat

/-- A command ends (R76, R93): its status is kept at the issuing core, and the pending queue is served. Beats that were read may still
be on their way to their targets (R97). -/
def endCmd (s : State) (walker i : Nat) (x : WSlot) (state err fcode : Nat) : State :=
  let s := onTicket s x.cmd.ticket fun t =>
    { t with state := state, err := BitVec.ofNat 8 err, fcode := BitVec.ofNat 8 fcode }
  let s := setSlot s walker i { x with
    phase := .ended, beats := if err = 0x26 then x.beats else [], wait := none, go := false, cmd := { x.cmd with tokens := [] } }
  servePending s walker

/-- A block ends in error (R90): one record on the context's terminal ring, with the ticket; 0x50 for an uncorrectable error (R303). -/
def errCmd (s : State) (walker i : Nat) (x : WSlot) (err fcode va : Nat) : State :=
  endCmd (postSlot s walker i x (if fcode = 0x50 then 0x50 else err) 0 va) walker i x 3 err fcode

/-- A retryable code leaves the slot waiting (R90); code 0x12 posts nothing (R69). -/
def waitSlot (s : State) (walker i : Nat) (x : WSlot) (code va flags : Nat) : State :=
  let s := if code = 0x12 then s else postSlot s walker i x code flags va
  setSlot s walker i { x with wait := some (va / 4096, code), go := false }

/-- A translation by a walker under a command's context (R77). -/
def walkTr (s : State) (walker : Nat) (x : WSlot) (a : Acc) (align va : Nat) (wr : Bool) : Tr × State :=
  translate s (512 + walker) (walker / 32) x.cmd.ctx.toNat a align va wr

/-- A code met by a slot: it waits or its block ends in error. -/
def slotCode (s : State) (walker i : Nat) (x : WSlot) (code va flags : Nat) : State :=
  if retryable code then waitSlot s walker i x code va flags else errCmd s walker i x 0x21 code va

/-- A counter that a step of a block uses (R82): its place, or the step's end; one that has failed ends the block with 0x50 (R303). -/
def slotCounter (s : State) (walker i : Nat) (x : WSlot) (va : Nat) (wr : Bool) (k : Nat → State → State) : State :=
  if va % 8 ≠ 0 then errCmd s walker i x 0x24 0 va
  else
    match walkTr s walker x .sync 8 va wr with
    | (.code code, s) => if code = 6 then errCmd s walker i x 0x24 0 va else slotCode s walker i x code va wr.toNat
    | (.ok pa _ _, s) =>
      if !kindOk s pa .counter then errCmd s walker i x 0x24 0 va
      else
        match unitBad (carUse s pa) pa 8 x.cmd.core x.cmd.ctx.toNat with
        | (true, s) => errCmd s walker i x 0x21 0x50 va
        | (false, s) => k pa s

/-- BLOCK_FETCH (R87 step 1). -/
def blockFetch (s : State) (walker i : Nat) : State :=
  match slotOf s walker i with
  | none => s
  | some x =>
    if x.phase ≠ .fetch ∨ x.wait.isSome then s
    else
      match walkTr s walker x (.load 128) 128 x.cmd.addr false with
      | (.code code, s) => slotCode s walker i x code x.cmd.addr 0
      | (.ok pa _ _, s) =>
        let (bad, s) := errReadMem (countLines s x.cmd.ctx.toNat false [pa, pa + 64]) pa 128 x.cmd.core x.cmd.ctx.toNat
        let b := BitVec.ofNat 1024 (memRead s.mem pa 128)
        if bad then errCmd s walker i x 0x21 0x50 x.cmd.addr
        else if !blockOk x.cmd.core b then errCmd s walker i x 0x20 0 x.cmd.addr
        else setSlot s walker i { x with blk := b, phase := .permit, next := 0, beats := [], credit := bWeight b, tok := none }

/-- BLOCK_FETCH (R87). -/
def execBlockFetch (walker wslot : Nat) (s : State) : Host.Outcome State Fault Refusal := .next (blockFetch s walker wslot)

/-- The pages of a global range, by fuel: whether all of them lie on a die, or what becomes of the slot (R96). -/
def rangeDie (walker i : Nat) (x : WSlot) (die hi : Nat) (k : Bool → State → State) : Nat → Nat → State → State
  | 0, _, s => k true s
  | n + 1, va, s =>
    if hi ≤ va then k true s
    else
      match walkTr s walker x .store 64 va true with
      | (.code code, s) => slotCode s walker i x code va 1
      | (.ok pa lg _, s) =>
        if homeDie pa = die then rangeDie walker i x die hi k n ((va / 2 ^ lg + 1) * 2 ^ lg) s else k false s

/-- Whether a block's destination lies on a die, translated where it is global (R96). -/
def destOn (s : State) (walker i : Nat) (x : WSlot) (die : Nat) (k : Bool → State → State) : State :=
  let d := bf x.blk 16 8
  if bBeats x.blk = 0 then k true s
  else
    match bits d 63 62 with
    | 1 => k (bits d 33 32 == die) s
    | 2 => k (dieOf x.cmd.core == die) s
    | _ => rangeDie walker i x die (bits d 56 0 + spanOf x.blk (bf x.blk 28 4)) k (spanOf x.blk (bf x.blk 28 4) / 4096 + 2) (bits d 56 0) s

/-- Whether a block's completion counter lies on a die (R96); its alignment and kind are tested by the add alone (R82). -/
def doneOn (s : State) (walker i : Nat) (x : WSlot) (die : Nat) (k : Bool → State → State) : State :=
  let va := bf x.blk 48 8
  if va = 0 then k true s
  else
    match walkTr s walker x .sync 1 va true with
    | (.code code, s) => slotCode s walker i x code va 1
    | (.ok pa _ _, s) => k (homeDie pa == die) s

/-- The domains of a block's scope (R229): those of the team that issued it, from .tm on. -/
def slotDomains (x : WSlot) : List Nat := (domainsOf x.cmd.core x.cmd.team 0 (bScope x.blk)).drop 1

/-- Steps 3 and 4 of R87: with ACQ the slot acquires, and what it had read ahead is read again (R88); then the block moves. -/
def startMove (s : State) (walker i : Nat) (x : WSlot) : State :=
  let x := if bAcq x.blk then { x with vis := seenIn s (slotDomains x) x.vis, next := 0, beats := [] } else x
  setSlot s walker i { x with phase := if bType x.blk = 4 then .token else if bBeats x.blk = 0 then .drain else .move }

/-- The test of R96 on a PUTS that releases at a scope below .dev; then the block moves. -/
def enterMove (s : State) (walker i : Nat) (x : WSlot) : State :=
  if bType x.blk = 3 ∧ bRel x.blk ∧ bScope x.blk < 5 then
    let own := dieOf x.cmd.core
    let bad := fun s => errCmd s walker i x 0x20 0 (bf x.blk 16 8 % 2 ^ 57)
    destOn s walker i x own fun a s => if !a then bad s
      else doneOn s walker i x own fun b s => if b then startMove s walker i x else bad s
  else startMove s walker i x

/-- PERMIT_SATISFIED (R87 steps 2 and 3): a block without a permit goes on at once. -/
def permitSatisfied (s : State) (walker i : Nat) : State :=
  match slotOf s walker i with
  | none => s
  | some x =>
    if x.phase ≠ .permit ∨ x.wait.isSome then s
    else if bf x.blk 32 8 = 0 then enterMove s walker i x
    else slotCounter s walker i x (bf x.blk 32 8) false fun pa s =>
      if bf x.blk 40 8 ≤ unitRead s pa 8 then enterMove s walker i x else s

/-- PERMIT_SATISFIED (R87). -/
def execPermitSatisfied (walker wslot : Nat) (s : State) : Host.Outcome State Fault Refusal :=
  .next (permitSatisfied s walker wslot)

/-! ## Beats (R76, R78, R88, R89) -/

/-- The core and address of a column descriptor for a command. -/
def descCore (core d : Nat) : Nat :=
  if bits d 63 62 = 1 then bits d 28 25 + 16 * (bits d 31 29 + 8 * bits d 33 32) else core

/-- A slot has a beat whose read can be issued (R78). -/
def slotReady (x : WSlot) : Bool :=
  x.phase == .move && x.wait.isNone && (x.cmd.mm || decide (x.next < bBeats x.blk))

/-- A slot may read ahead: it waits on its permit (R88). -/
def slotAhead (x : WSlot) : Bool :=
  x.phase == .permit && x.wait.isNone && bf x.blk 32 8 != 0 && decide (x.next < bBeats x.blk)

/-- A slot holds a command. -/
def slotActive (x : WSlot) : Bool := x.phase != .ended

/-- The slots of a walker in the order of the search of R78. -/
def slotOrder (last : Nat) : List Nat := (List.range 8).map fun i => (last + 1 + i) % 8

/-- The slots that `f` accepts, in the order of the search of R78; one held by a record is none of them (R283). -/
def slotsWith (s : State) (walker : Nat) (f : WSlot → Bool) : List Nat :=
  (slotOrder (getWalker s walker).last).filter fun i => match slotOf s walker i with | some x => f x | none => false

/-- The choice of R78: the slot, and the slots with their credits refilled where there is no credit left. -/
def chooseSlot (s : State) (walker : Nat) : Option (Nat × AMap WSlot) :=
  let w := getWalker s walker
  let rdy := slotsWith s walker slotReady
  match rdy with
  | [] => none
  | r :: _ =>
    match rdy.find? fun i => match mfind w.slots i with | some x => decide (0 < x.credit) | none => false with
    | some i => some (i, w.slots)
    | none => some (r, mmap (fun _ x =>
        if slotActive x then { x with credit := if x.cmd.mm then 8 else bWeight x.blk } else x) w.slots)

/-- A beat has been read. -/
def pushBeat (s : State) (walker i : Nat) (x : WSlot) (v : Nat) : State :=
  setSlot s walker i { x with next := x.next + 1, beats := x.beats ++ [⟨x.next, BitVec.ofNat 512 v⟩] }

/-- The read of a slot's next beat (R89). The beats of a block are read and written in ascending order, where R89 allows any (log entry 22,
DESIGN CHOICE). -/
def readBeat (s : State) (walker i : Nat) (x : WSlot) : State :=
  let b := x.blk
  let d := bf b 8 8
  let off := beatOff b (bf b 24 4) x.next
  if bits d 63 62 = 0 then
    let va := bits d 56 0 + off
    match walkTr s walker x (.load 64) 64 va false with
    | (.code code, s) => slotCode s walker i x code va 0
    | (.ok pa _ _, s) =>
      let (bad, s) := errReadMem (countLines s x.cmd.ctx.toNat false [pa]) pa 64 x.cmd.core x.cmd.ctx.toNat
      if bad then errCmd s walker i x 0x21 0x50 va else pushBeat s walker i x (memRead s.mem pa 64)
  else
    let core := descCore x.cmd.core d
    let a := bits d 24 0 + off
    let s := settleFor s core a
    let col := (getCore s core).col
    let t := s.time.toNat
    if trapExpired col (a / 64) t then errCmd s walker i x 0x23 0 a
    else
      let (bad, s) := colErr s x.cmd.ctx.toNat 64 [⟨0, core, a, a⟩]
      if bad then errCmd s walker i x 0x21 0x50 a
      else
        let s := if lapExpired col (a / 64) t then onTicket s x.cmd.ticket fun t => { t with lapse := true } else s
        pushBeat s walker i x (colReadAt col t a 64)

/-- The words of a range of an array hold no error. -/
def cleanWords (s : State) (kind inst lo n : Nat) : Bool :=
  !(getErr s kind inst).bad.any fun e => decide (lo ≤ e.1 ∧ e.1 < lo + n)

/-- A read ahead of a permit (R88): it writes nothing, raises nothing and charges nothing, and stops where a read of the block would find
a code, a sector that has expired, or an error (log entry 22, DEDUCED). -/
def readAhead (s : State) (walker i : Nat) (x : WSlot) : State :=
  let b := x.blk
  let d := bf b 8 8
  let off := beatOff b (bf b 24 4) x.next
  if bits d 63 62 = 0 then
    match walkTr s walker x (.load 64) 64 (bits d 56 0 + off) false with
    | (.code _, s) => s
    | (.ok pa _ _, s) =>
      let clean := match errOf pa with | some (k, n, w) => cleanWords s k n w 8 | none => true
      if clean then pushBeat (countLines s x.cmd.ctx.toNat false [pa]) walker i x (memRead s.mem pa 64) else s
  else
    let core := descCore x.cmd.core d
    let a := bits d 24 0 + off
    let col := (getCore s core).col
    if expired col (a / 64) s.time.toNat ∨ !cleanWords s 0 core (a / 8) 8 then s
    else pushBeat (settleFor s core a) walker i x (colReadAt col s.time.toNat a 64)

/-- WALKER_BEAT_GRANT (R78): one beat to one slot. A cycle with no slot ready reads ahead for a slot that waits on its permit (R88). -/
def beatGrant (s : State) (walker : Nat) : State :=
  let s := servePending s walker
  let w := getWalker s walker
  match chooseSlot s walker with
  | none =>
    match (slotsWith s walker slotAhead).head? with
    | none => s
    | some i => match mfind w.slots i with
      | none => s
      | some x => readAhead s walker i x
  | some (i, slots) =>
    match mfind slots i with
    | none => s
    | some x =>
      let x := { x with credit := x.credit - 1 }
      let s := setWalker s walker { w with slots := mput slots i x, last := i }
      if x.cmd.mm then s else readBeat s walker i x

/-- WALKER_BEAT_GRANT (R78). -/
def execWalkerBeatGrant (walker : Nat) (s : State) : Host.Outcome State Fault Refusal := .next (beatGrant s walker)

/-- A write of a command is accepted at its target (R295). -/
def slotOwns (s : State) (x : WSlot) (die : Nat) : Bool := ownerOk s die (clusterOf x.cmd.core) x.cmd.part x.cmd.gen

/-- One write of a beat to a column (R89, R295): false where the destination is not owned. -/
def beatColumn (s : State) (x : WSlot) (walker i core a : Nat) (v : BitVec 512) : Bool × State :=
  let s := settleFor s core a
  let k := getCore s core
  if !slotOwns s x (dieOf core) then (true, postSlot s walker i x 0x44 1 a)
  else if !ownedBy k.col x.cmd.ctx a then (false, s)
  else
    let s := setCore s core { k with col := sectorWrite k.col s.time.toNat true a 64 v.toNat }
    let s := (List.range 8).foldl (fun s j => errWrite s 0 core (a / 8 + j)) s
    (true, charge s x.cmd.core x.cmd.ctx.toNat (ewt s x.cmd.core 6))

/-- The cores that a block's column destination names (R81). -/
def destCores (x : WSlot) : List Nat :=
  let mc := bf x.blk 60 2
  if mc = 0 then [descCore x.cmd.core (bf x.blk 16 8)]
  else ((List.range 16).filter fun i => mc.testBit i).map fun i => 16 * clusterOf x.cmd.core + i

/-- A beat of a revoked command that was on its way is dropped at its target, with a record where the owner tags disagree there (R97, R295,
R306). -/
def dropBeat (s : State) (walker i : Nat) (x : WSlot) (b : Beat) (rest : List Beat) : State :=
  let d := bf x.blk 16 8
  let off := beatOff x.blk (bf x.blk 28 4) b.idx
  let s := setSlot s walker i { x with beats := rest }
  if bits d 63 62 = 0 then
    match walkTr s walker x .store 64 (bits d 56 0 + off) true with
    | (.ok pa _ _, s) => if slotOwns s x (homeDie pa) then s else postSlot s walker i x 0x44 1 pa
    | (.code _, s) => s
  else
    (destCores x).foldl (fun s core => if slotOwns s x (dieOf core) then s else postSlot s walker i x 0x44 1 (bits d 24 0 + off)) s

/-- BEAT_WRITE (R89): the oldest beat of a slot. -/
def beatWrite (s : State) (walker i : Nat) : State :=
  match slotOf s walker i with
  | none => s
  | some x =>
    match x.beats with
    | [] => s
    | b :: rest =>
      if x.phase = .ended then dropBeat s walker i x b rest
      else if x.phase ≠ .move ∨ x.wait.isSome then s
      else
        let d := bf x.blk 16 8
        let off := beatOff x.blk (bf x.blk 28 4) b.idx
        let x' := { x with
          beats := rest, phase := if rest.isEmpty && x.next == bBeats x.blk then .drain else .move }
        if bits d 63 62 = 0 then
          let va := bits d 56 0 + off
          match walkTr s walker x .store 64 va true with
          | (.code code, s) => slotCode s walker i x code va 1
          | (.ok pa _ _, s) =>
            if slotOwns s x (homeDie pa) then
              let s1 := storeMem (countLines s x.cmd.ctx.toNat true [pa]) pa 64 b.data.toNat
              setSlot (charge s1 x.cmd.core x.cmd.ctx.toNat (ewt s x.cmd.core 6)) walker i
                { x' with vis := seenJoin x.vis (seenSince s1 s.hist.length) }
            else setSlot (postSlot s walker i x 0x44 1 pa) walker i x'
        else
          let a := bits d 24 0 + off
          let (ok, s) := (destCores x).foldl (fun r core =>
            let (y, s) := beatColumn r.2 x walker i core a b.data
            (r.1 && y, s)) (true, s)
          if ok then setSlot s walker i x' else errCmd s walker i x 0x22 0 a

/-- BEAT_WRITE (R89). -/
def execBeatWrite (walker wslot : Nat) (s : State) : Host.Outcome State Fault Refusal := .next (beatWrite s walker wslot)

/-! ## Tokens, drain, links -/

/-- WAIT_BLOCK_TOKEN (R92): takes the oldest token. -/
def takeToken (s : State) (walker i : Nat) : State :=
  match slotOf s walker i with
  | none => s
  | some x =>
    if x.phase ≠ .token then s
    else
      match x.cmd.tokens with
      | [] => s
      | v :: t =>
        let x := { x with cmd := { x.cmd with tokens := t } }
        if 3 ≤ v.toNat then errCmd s walker i x 0x25 0 0
        else setSlot s walker i { x with tok := some v.toNat, phase := .drain }

/-- WAIT_BLOCK_TOKEN (R92). -/
def execWaitBlockToken (walker wslot : Nat) (s : State) : Host.Outcome State Fault Refusal := .next (takeToken s walker wslot)

/-- A block has been completed; goes on to a next address (R87 step 8). -/
def linkTo (s : State) (walker i : Nat) (x : WSlot) (a : Nat) : State :=
  let s := onTicket s x.cmd.ticket fun t => { t with blocks := min (t.blocks + 1) 127 }
  if a = 0 then endCmd s walker i x 2 0 0
  else if a % 128 ≠ 0 ∨ 2 ^ 57 ≤ a then errCmd s walker i x 0x20 0 a
  else setSlot s walker i { x with phase := .fetch, cmd := { x.cmd with addr := a }, released := false }

/-- The next address of a block that tests no counter: 0 ends the chain (R87 step 8, R92). -/
def nextLink (x : WSlot) : Nat :=
  if bType x.blk = 4 then (match x.tok with | some 1 => bf x.blk 64 8 | some 2 => bf x.blk 72 8 | _ => 0)
  else if bLinkc x.blk = 0 then 0 else bf x.blk 64 8

/-- The condition of a block's link is found faulty before its completion add, which is then not made (R90): the kind of the unit, the
class of its page, the alignment. A page that must be waited for is waited for first (log entry 22, DEDUCED). -/
def condReady (s : State) (walker i : Nat) (x : WSlot) (k : State → State) : State :=
  let va := bf x.blk 80 8
  if va % 8 ≠ 0 then errCmd s walker i x 0x24 0 va
  else
    match walkTr s walker x .sync 8 va false with
    | (.code code, s) => if code = 6 then errCmd s walker i x 0x24 0 va else if retryable code then waitSlot s walker i x code va 0 else k s
    | (.ok pa _ _, s) => if kindOk s pa .counter then k s else errCmd s walker i x 0x24 0 va

/-- Step 7 of R87: the completion add, dropped at its target where the owner tags disagree (R295). -/
def signal (s : State) (walker i : Nat) (x : WSlot) (k : State → State) : State :=
  let done := bf x.blk 48 8
  if done = 0 ∨ x.released then k s
  else slotCounter s walker i x done true fun pa s =>
    k (if slotOwns s x (homeDie pa) then counterAdd (countLines s x.cmd.ctx.toNat true [pa]) pa (bf x.blk 56 4)
      else postSlot s walker i x 0x44 1 pa)

/-- Steps 5 to 8 of R87: release, the completion add, the link. `released` marks a block whose add has been made. -/
def drainComplete (s : State) (walker i : Nat) : State :=
  match slotOf s walker i with
  | none => s
  | some x =>
    if x.phase ≠ .drain ∨ x.wait.isSome then s
    else
      let b := x.blk
      let s := if bRel b then publishIn s (slotDomains x) x.vis else s
      if bType b ≠ 4 ∧ bLinkc b = 2 then
        condReady s walker i x fun s => signal s walker i x fun s =>
          slotCounter s walker i { x with released := true } (bf b 80 8) false fun pa s =>
            linkTo s walker i x (if bf b 88 8 ≤ unitRead s pa 8 then bf b 64 8 else bf b 72 8)
      else signal s walker i x fun s => linkTo s walker i x (nextLink x)

/-- BLOCK_DRAIN_COMPLETE (R87). -/
def execBlockDrainComplete (walker wslot : Nat) (s : State) : Host.Outcome State Fault Refusal :=
  .next (drainComplete s walker wslot)

/-- WALKER_FAULT_RESUME (R90, R285): the slot goes on from where it waited. -/
def faultResume (s : State) (walker i : Nat) : State :=
  match slotOf s walker i with
  | none => s
  | some x => if x.go then setSlot s walker i { x with wait := none, go := false } else s

/-- WALKER_FAULT_RESUME (R90). -/
def execWalkerFaultResume (walker wslot : Nat) (s : State) : Host.Outcome State Fault Refusal :=
  .next (faultResume s walker wslot)

/-- Revokes the commands that `f` selects, in slots and pending queues of a cluster (R97, R288, R294). -/
def revoke (s : State) (cluster : Nat) (f : Cmd → Bool) : State :=
  (List.range 4).foldl (fun s j =>
    let n := 4 * cluster + j
    let w := getWalker s n
    let s := (w.pendq.filter fun c => f c && !c.mm).foldl (fun s c =>
      post (onTicket s c.ticket fun t => { t with state := 3, err := 0x26 }) .device 0x26 1 c.ctx.toNat 0
        (locSlot c.core j 0) 0 c.ticket.toNat) s
    let s := setWalker s n { w with pendq := w.pendq.filter fun c => !(f c && !c.mm) }
    (List.range 8).foldl (fun s i =>
      match mfind (getWalker s n).slots i with
      | some x => if x.phase ≠ .ended && f x.cmd && !x.cmd.mm then errCmd s n i x 0x26 0 0 else s
      | none => s) s) s

end Sys2Proof.Machine
end

