-- ==== Sys2Proof/Machine/Tree.lean ====
section
/-! DEFINITION. The search-tree engine (R342–R355): pools, the six forms of TREE, the steps of the engine and the background
freeing of nodes. -/

namespace Sys2Proof.Machine

/-! ## Pools and nodes (R342–R344) -/

/-- The number that stands for no node. -/
def noNode : Nat := 0xFFFFFFFF

/-- A field of a pool: a free unit reads as zero (R209). -/
def trGet (s : State) (pa n : Nat) : Nat := if (getUnit s pa).kind = .free then 0 else memRead s.mem pa n

/-- Writes a field: its unit takes the kind tree (R342). -/
def trPut (s : State) (pa n v : Nat) : State := storeMem (takeUnit s pa .tree) pa n v

/-- A header field at a byte offset. -/
def hdr (s : State) (pool off n : Nat) : Nat := trGet s (pool + off) n

/-- The offset of a node in its pool. -/
def nodeOff (n : Nat) : Nat := 64 + 32 * n

/-- A node field at a byte offset. -/
def nd (s : State) (pool n off k : Nat) : Nat := trGet s (pool + nodeOff n + off) k

/-- Writes a node field. -/
def ndPut (s : State) (pool n off k v : Nat) : State := trPut s (pool + nodeOff n + off) k v

def hCap (s : State) (p : Nat) : Nat := hdr s p 0 4
def hFree (s : State) (p : Nat) : Nat := hdr s p 4 4
def hRoot (s : State) (p : Nat) : Nat := hdr s p 24 4
def hPend (s : State) (p : Nat) : Nat := hdr s p 30 2
def nFirst (s : State) (p n : Nat) : Nat := nd s p n 16 4
def nCount (s : State) (p n : Nat) : Nat := nd s p n 20 2
def nFlags (s : State) (p n : Nat) : Nat := nd s p n 22 2
def nParent (s : State) (p n : Nat) : Nat := nd s p n 24 4
def nMove (s : State) (p n : Nat) : Nat := nd s p n 28 4
def nVl (s : State) (p n : Nat) : Nat := nd s p n 14 2
def nExpanded (s : State) (p n : Nat) : Bool := (nFlags s p n).testBit 0
def nPending (s : State) (p n : Nat) : Bool := (nFlags s p n).testBit 1
def nTerminal (s : State) (p n : Nat) : Bool := (nFlags s p n).testBit 2
def nFreed (s : State) (p n : Nat) : Bool := (nFlags s p n).testBit 3

/-- Sets and clears flag bits of a node. -/
def ndFlags (s : State) (p n set clr : Nat) : State :=
  ndPut s p n 22 2 ((nFlags s p n ||| (set ||| clr)) ^^^ clr)

/-- Virtual loss lowered, never below zero. -/
def vlDown (s : State) (p n : Nat) : State := ndPut s p n 14 2 (nVl s p n - 1)

/-- A pending flag is cleared and PEND lowered. -/
def pendDown (s : State) (p n : Nat) : State :=
  if nPending s p n then trPut (ndFlags s p n 0 2) (p + 30) 2 (hPend s p - 1) else s

/-- The first unit of some ranges of a pool, as offsets and lengths, that has another kind (R344). -/
def otherKind (s : State) (pool : Nat) (rs : List (Nat × Nat)) : Option Nat :=
  rs.findSome? fun r => ((List.range (r.2 / 8)).find? fun i => !kindOk s (pool + r.1 + 8 * i) .tree).map fun i => r.1 + 8 * i

/-- For whom the engine works: the core, group slot and context of a TREE instruction, its owner tag (R295), the party that waits with
its records (R283), and the domains of its releases (R349). -/
structure TreeFor where
  core : Nat
  slot : Nat
  ctx : BitVec 8
  tag : Nat × Nat
  who : Party
  doms : List Nat
  deriving DecidableEq, Repr

/-- The engine's work for an operation that a group's strand has sent. -/
def treeFor (g : Group) (x : Sent) (pend : Option Nat) : TreeFor :=
  ⟨g.core, g.slot, g.ctx, x.tag, match pend with | some p => .pend g.core g.slot p | none => .device, domainsOf g.core g.team g.idx 5⟩

/-- The record of a step that found a unit of another kind (R344). -/
def treePost (s : State) (t : TreeFor) (l : TreeLane) (off : Nat) : State :=
  post s t.who 9 5 t.ctx.toNat 0 (homeDie l.pool) (l.va + off) 0

/-- A child block that can be scored: not empty, and below CAP (R347). -/
def blockIn (s : State) (p n : Nat) : Bool := decide (0 < nCount s p n ∧ nFirst s p n + nCount s p n ≤ hCap s p)

/-! ## Choosing a child (R348) -/

def rn32 (r : Nat × Word) : Nat := r.1

/-- Float(x) of R348. -/
def natF32 (n : Nat) : Nat := (roundFormat fp32 rmNear false (fvInt n)).1

/-- The score of child `c` under `sq` (R348). -/
def treeScore (s : State) (p sq c : Nat) : Nat :=
  let mul := fun a b => (fmul fp32 rmNear false a b).1
  let div := fun a b => (fdiv fp32 rmNear false a b).1
  let w := rnAdd fp32 (nd s p c 4 4) (nd s p c 8 4)
  let n := nd s p c 0 4 + nVl s p c
  let q := if n = 0 then hdr s p 20 4
    else div (rnSub fp32 w (mul (natF32 (nVl s p c)) (hdr s p 16 4))) (natF32 n)
  let u := div (mul (mul (hdr s p 12 4) (nd s p c 12 2 * 65536)) sq) (natF32 (1 + n))
  rnAdd fp32 q u

/-- One score beats the best so far: a NaN never wins, ties stay with the lower index. -/
def scoreBeats (x best : Nat) : Bool :=
  let a := fdec fp32 x
  let b := fdec fp32 best
  !a.isNaN && (b.isNaN || decide (0 < fvCmp a b))

/-- Choose(p) of R348: the child's node. -/
def treeChoose (s : State) (p n : Nat) : Nat :=
  let sq := (fsqrt fp32 rmNear false (natF32 (nd s p n 0 4 + nVl s p n))).1
  let first := nFirst s p n
  ((List.range (nCount s p n)).foldl (fun (b : Nat × Nat) j =>
    let x := treeScore s p sq (first + j)
    if j = 0 ∨ scoreBeats x b.2 then (first + j, x) else b) (first, 0)).1

/-! ## Appending a leaf (R349) -/

/-- What an access of the engine under a context comes to: a place, a page to wait for with its code, or nothing more. -/
inductive Reach where
  | go (pa : Nat)
  | hold (page : Nat × Nat)
  | drop
  deriving DecidableEq, Repr

/-- Translates an access of the engine; its records carry SRC 5 (R349). -/
def treeReach (s : State) (t : TreeFor) (pool : Nat) (a : Acc) (align va : Nat) : Reach × State :=
  match translate s t.core (homeDie pool) t.ctx.toNat a align va true with
  | (.ok pa _ _, s) => (.go pa, s)
  | (.code code, s) =>
    let s := if code = 0x12 then s else post s t.who code 5 t.ctx.toNat 1 (homeDie pool) va 0
    (if retryable code then .hold (va / 4096, code) else .drop, s)

/-- The counter at an address; a unit of another kind posts 0x09. -/
def treeCounter (s : State) (t : TreeFor) (pool va : Nat) : Reach × State :=
  match treeReach s t pool .sync 8 va with
  | (.go pa, s) =>
    if kindOk s pa .counter then (.go pa, s) else (.drop, post s t.who 9 5 t.ctx.toNat 1 (homeDie pool) va 0)
  | r => r

/-- Append(n) (R349): the page it must wait for, if any. -/
def treeAppend (s : State) (t : TreeFor) (l : TreeLane) : Option (Nat × Nat) × State :=
  let p := l.pool
  if hdr s p 40 8 = 0 then (none, s)
  else
    match treeCounter s t p (hdr s p 40 8) with
    | (.hold page, s) => (some page, s)
    | (.drop, s) => (none, s)
    | (.go pc, s) =>
      let k := unitRead s pc 8
      match treeReach s t p .store 4 (hdr s p 32 8 + 4 * (k % (2 * hdr s p 28 2))) with
      | (.hold page, s) => (some page, s)
      | (.drop, s) => (none, s)
      | (.go pr, s) =>
        let s' := storeMem (countLines s t.ctx.toNat true [pr]) pr 4 l.node
        (none, counterAdd (publishIn s' t.doms (seenSince s' s.hist.length)) pc 1)

/-- An append on a pool waits on a page: later appends wait behind it (R349). -/
def poolHeld (s : State) (pool : Nat) : Bool :=
  s.groups.any fun g => g.2.ops.any fun o =>
    match o.op with
    | .tree _ _ _ _ ls held _ => held.isSome && ls.any fun l => l.mode == 1 && l.pool == pool
    | _ => false

/-! ## Steps of the lanes -/

/-- A partial write to an expired lapsing sector sets the lapse flag of the strand that holds the lane (R110). -/
def lapseLane (s : State) (core slot lane : Nat) : State :=
  onGroup s core slot fun g => { g with strands := g.strands.map fun t => if t.mask.getLsbD lane then { t with lapse := true } else t }

/-- Writes a word of a lane's path buffer (R347): a merged partial write of a granule that is still the context's. -/
def bufferPut (t : TreeFor) (lane : Nat) (s : State) (a v : Nat) : State :=
  let s := settleFor s t.core a
  let k := getCore s t.core
  if ownedBy k.col t.ctx a then
    let s := if lapExpired k.col (a / 64) s.time.toNat then lapseLane s t.core t.slot lane else s
    errWrite (setCore s t.core { k with col := sectorWrite k.col s.time.toNat false a 4 v }) 0 t.core (a / 8)
  else s

/-- The exit of R347: the buffer is written, and the results are known. -/
def descExit (s : State) (t : TreeFor) (l : TreeLane) : State × TreeLane :=
  (l.path.zipIdx.foldl (fun s (n, i) => bufferPut t l.lane s (l.arg + 4 * i) n) s,
    { l with done := true, mode := 0, res := l.node, res2 := 256 * (l.path.length - 1) + l.status })

/-- An end with a status whose virtual loss is rolled back, one step for each node (R347). -/
def descBack (s : State) (t : TreeFor) (l : TreeLane) (status : Nat) : State × TreeLane :=
  let l := { l with status := status, mode := 2, left := l.path.length - 1 }
  if l.left = 0 then descExit s t l else (s, l)

/-- One step of a roll-back (R347): a node of another kind is left alone, with its record, and the lane ends as at an invalid node
(R344). -/
def rollStep (s : State) (t : TreeFor) (l : TreeLane) : State × TreeLane :=
  let n := l.path.getD l.left 0
  let next := { l with left := l.left - 1 }
  let (s, l) :=
    if n < hCap s l.pool then
      match otherKind s l.pool [(nodeOff n, 32)] with
      | some off => (treePost s t l off, { next with status := 5 })
      | none => (vlDown s l.pool n, next)
    else (s, next)
  if l.left = 0 then descExit s t l else (s, l)

/-- One step of a lane of TDESC (R347): the state, the lane, and a page that its append waits for. -/
def descStep (s : State) (t : TreeFor) (l : TreeLane) : State × TreeLane × Option (Nat × Nat) :=
  let p := l.pool
  let n := l.node
  let plain := fun (r : State × TreeLane) => (r.1, { r.2 with steps := l.steps + 1 }, (none : Option (Nat × Nat)))
  if l.mode = 1 then
    match treeAppend s t l with
    | (some page, s) => (s, l, some page)
    | (none, s) => plain (descExit s t l)
  else if l.mode = 2 then plain (rollStep s t l)
  else
    match otherKind s p [(0, 64)] with
    | some off => plain (descBack (treePost s t l off) t l 5)
    | none =>
      if hCap s p ≤ n then plain (descBack s t l 5)
      else
        let kids := if nExpanded s p n ∧ blockIn s p n then [(nodeOff (nFirst s p n), 32 * nCount s p n)] else []
        match otherKind s p ((nodeOff n, 32) :: kids) with
        | some off => plain (descBack (treePost s t l off) t l 5)
        | none =>
          if nFreed s p n then plain (descBack s t l 5)
          else if nTerminal s p n then plain (descExit s t { l with status := 2 })
          else if nExpanded s p n ∧ !blockIn s p n then plain (descBack s t l 5)
          else if !nExpanded s p n then
            if nPending s p n then plain (descBack s t l 1)
            else if hdr s p 40 8 ≠ 0 ∧ 2 * hdr s p 28 2 ≤ hPend s p then plain (descBack s t l 4)
            else if hdr s p 40 8 ≠ 0 ∧ poolHeld s p then (s, l, none)
            else
              let s := trPut (ndFlags s p n 2 0) (p + 30) 2 (hPend s p + 1)
              match treeAppend s t l with
              | (some page, s) => (s, { l with mode := 1 }, some page)
              | (none, s) => plain (descExit s t { l with status := 0 })
          else if l.path.length = 256 then plain (descExit s t { l with status := 3 })
          else
            let c := treeChoose s p n
            plain (ndPut s p c 14 2 (min (nVl s p c + 1) 65535), { l with node := c, path := l.path ++ [c] })

/-- One step of a lane of TBACK (R351). -/
def backStep (s : State) (t : TreeFor) (l : TreeLane) : State × TreeLane :=
  let p := l.pool
  let i := l.left - 1
  let n := l.path.getD i 0
  let next : TreeLane := { l with left := i, steps := l.steps + 1, done := i == 0 }
  match otherKind s p ((0, 64) :: if n < hCap s p then [(nodeOff n, 32)] else []) with
  | some off => (treePost s t l off, { next with done := true })
  | none =>
    if hCap s p ≤ n ∨ nFreed s p n then (s, next)
    else
      let y := if (l.arg - i) % 2 = 0 then l.data else l.data ^^^ 2 ^ 31
      let (w, e) := pairAdd fp32 (nd s p n 4 4) (nd s p n 8 4) y
      let s := ndPut s p n 0 4 (min (nd s p n 0 4 + 1) (2 ^ 32 - 1))
      let s := ndPut (ndPut s p n 4 4 w) p n 8 4 e
      let s := if 1 ≤ i then vlDown s p n else s
      (if i = l.arg then pendDown s p n else s, next)

/-- A finished lane. -/
def laneDone (l : TreeLane) (res res2 : Nat) : TreeLane := { l with done := true, steps := l.steps + 1, res := res, res2 := res2 }

/-- Hands nodes to the background work of a die (R352, log entry 27, DEDUCED). -/
def queueFree (s : State) (j : TreeJob) : State :=
  let d := getDie s (homeDie j.pool)
  setDie s (homeDie j.pool) { d with treeFree := d.treeFree ++ [j] }

/-- The child of the root with the greatest N, the lowest index on a tie (R352). -/
def greatestChild (s : State) (p rt : Nat) : Option Nat :=
  if !blockIn s p rt then none
  else
    let first := nFirst s p rt
    some ((List.range (nCount s p rt)).foldl (fun b j =>
      if nd s p b 0 4 < nd s p (first + j) 0 4 then first + j else b) first)

/-- The step of TROOT (R352). -/
def rootStep (s : State) (t : TreeFor) (l : TreeLane) : State × TreeLane :=
  let p := l.pool
  let rt := hRoot s p
  let kids := if rt < hCap s p ∧ blockIn s p rt then [(nodeOff rt, 32), (nodeOff (nFirst s p rt), 32 * nCount s p rt)] else []
  let pick := if l.node < hCap s p then [(nodeOff l.node, 32)] else []
  match otherKind s p ((0, 64) :: kids ++ pick) with
  | some off => (treePost s t l off, laneDone l noNode 0)
  | none =>
    let c := if l.node = noNode then (if rt < hCap s p then greatestChild s p rt else none) else some l.node
    match c with
    | none => (s, laneDone l noNode 0)
    | some c =>
      if hCap s p ≤ c ∨ hCap s p ≤ rt ∨ nFreed s p c ∨ nParent s p c ≠ rt then (s, laneDone l noNode 0)
      else
        let first := nFirst s p rt
        let n := nCount s p rt
        let kids := if first ≤ c ∧ c < first + n ∧ blockIn s p rt then
            [(first, c - first, 2), (c + 1, first + n - (c + 1), 2)] else []
        let runs := ((rt, 1, 0) :: kids).filter fun r => r.2.1 != 0
        let s := ndPut (trPut s (p + 24) 4 c) p c 24 4 noNode
        (queueFree s ⟨p, l.va, t.ctx, t.core, t.tag, runs, none⟩, laneDone l c (nMove s p c))

/-- The step of TFREE (R352). -/
def freeStep (s : State) (t : TreeFor) (l : TreeLane) : State × TreeLane :=
  let p := l.pool
  let n := l.node
  match otherKind s p ((0, 64) :: if n < hCap s p then [(nodeOff n, 32)] else []) with
  | some off => (treePost s t l off, laneDone l noNode 0)
  | none =>
    if hCap s p ≤ n ∨ nFreed s p n ∨ !nExpanded s p n then (s, laneDone l noNode 0)
    else
      let runs := if blockIn s p n then [(nFirst s p n, nCount s p n, 1)] else []
      let s := ndFlags (ndPut (ndPut s p n 16 4 noNode) p n 20 2 0) p n 0 1
      (queueFree s ⟨p, l.va, t.ctx, t.core, t.tag, runs, none⟩, laneDone l n 0)

/-- A field of a header image. -/
def img (v off n : Nat) : Nat := v / 2 ^ (8 * off) % 2 ^ (8 * n)

/-- A header image keeps the limits of R342 and R346, its counters apart. -/
def imageOk (v lg pool : Nat) : Bool :=
  let cap := img v 0 4
  let fin := fun x => !(fdec fp32 x).isOdd
  decide (2 ≤ cap ∧ cap ≤ 2 ^ 24) && fin (img v 12 4) && fin (img v 16 4) && fin (img v 20 4) &&
    decide (1 ≤ img v 28 2 ∧ img v 28 2 ≤ 16384) && img v 32 8 % 4 == 0 && img v 40 8 % 8 == 0 && img v 48 8 % 8 == 0 &&
    img v 56 8 == 0 && decide (pool % 2 ^ lg + 64 + 32 * cap ≤ 2 ^ lg) && ((img v 32 8 == 0) == (img v 40 8 == 0))

/-- Whether an address is a counter in a sync page homed at the pool's die (R346); zero passes. -/
def imageCounter (s : State) (t : TreeFor) (pool va : Nat) : Bool × State :=
  if va = 0 then (true, s)
  else
    match translate s t.core (homeDie pool) t.ctx.toNat .sync 8 va false with
    | (.ok pa _ _, s) => (homeDie pa == homeDie pool && kindOk s pa .counter, s)
    | (.code _, s) => (false, s)

/-- The step of TNEW (R346). -/
def newStep (s : State) (t : TreeFor) (l : TreeLane) : State × TreeLane :=
  let p := l.pool
  let v := l.data
  let (okB, s) := imageCounter s t p (img v 40 8)
  let (okT, s) := imageCounter s t p (img v 48 8)
  if !(imageOk v l.lg p && okB && okT) then (s, laneDone l noNode 0)
  else
    match otherKind s p [(0, 128)] with
    | some off => (treePost s t l off, laneDone l noNode 0)
    | none =>
      let put := fun (s : State) (off n x : Nat) => trPut s (p + off) n x
      let s := [(0, 4, img v 0 4), (4, 4, 1), (8, 4, 1), (12, 4, img v 12 4), (16, 4, img v 16 4), (20, 4, img v 20 4),
        (24, 4, 0), (28, 2, img v 28 2), (30, 2, 0), (32, 8, img v 32 8), (40, 8, img v 40 8), (48, 8, img v 48 8),
        (56, 8, 0), (64, 8, 0), (72, 8, 0), (80, 8, noNode), (88, 8, noNode), (96, 8, 0), (104, 8, 0),
        (112, 8, noNode + 2 ^ 48 * 8), (120, 8, 2 ^ 32 * (img v 0 4 - 1))].foldl (fun s x => put s x.1 x.2.1 x.2.2) s
      (s, laneDone l 0 0)

/-! ## TEXPAND (R350) -/

/-- What a search of the free runs comes to: a run with the one before it, none, or a unit of another kind in a run's head (R344). -/
inductive Found where
  | run (prev : Option Nat) (h : Nat)
  | none
  | other (off : Nat)
  deriving DecidableEq, Repr

/-- The first free run of at least `m` nodes. -/
def findRun (s : State) (p m : Nat) : Nat → Option Nat → Nat → Found
  | 0, _, _ => .none
  | fuel + 1, prev, h =>
    if hCap s p ≤ h then .none
    else
      match otherKind s p [(nodeOff h, 32)] with
      | some off => .other off
      | none => if m ≤ nMove s p h then .run prev h else findRun s p m fuel (some h) (nFirst s p h)

/-- Makes the link that named a run name `x`. -/
def relink (s : State) (p : Nat) (prev : Option Nat) (x : Nat) : State :=
  match prev with
  | none => trPut s (p + 4) 4 x
  | some h => ndPut s p h 16 4 x

/-- Takes `m` nodes from the low end of a run; the remainder stays at its place (R350). -/
def takeRun (s : State) (p m : Nat) (prev : Option Nat) (h : Nat) : State :=
  let len := nMove s p h
  let next := nFirst s p h
  if len = m then relink s p prev next
  else
    let r := h + m
    let s := ndFlags (ndPut (ndPut s p r 16 4 next) p r 28 4 (len - m)) p r 8 0
    relink s p prev r

/-- Child `j` of a new block, from its record. -/
def newChild (p n h : Nat) (recs : Nat) (s : State) (j : Nat) : State :=
  let x := recs / 2 ^ (64 * j) % 2 ^ 64
  let a := p + nodeOff (h + j)
  let s := trPut (trPut s a 8 0) (a + 8) 8 (2 ^ 32 * bits x 47 32)
  trPut (trPut s (a + 16) 8 (noNode + 2 ^ 48 * (4 * bits x 48 48))) (a + 24) 8 (n + 2 ^ 32 * bits x 31 0)

/-- What one lane of TEXPAND does: none when no run is long enough. `s0` is the state before the instruction: R350 writes no child
before every lane has been judged, so a node is free as it was then; that an earlier lane has expanded a node counts (log entry 27,
DEDUCED). -/
def expandLane (s0 s : State) (t : TreeFor) (l : TreeLane) : Option (State × TreeLane) :=
  let p := l.pool
  let n := l.node
  let m := l.left
  let badRec := (List.range m).any fun j => bits (l.data / 2 ^ (64 * j)) 63 49 != 0
  match otherKind s p ((0, 64) :: if n < hCap s p then [(nodeOff n, 32)] else []) with
  | some off => some (treePost s t l off, laneDone l noNode 0)
  | none =>
    if hCap s p ≤ n ∨ nFreed s0 p n ∨ 4096 < m ∨ badRec then some (s, laneDone l noNode 0)
    else if nExpanded s0 p n || nExpanded s p n then some (s, laneDone l (noNode - 1) 0)
    else if m = 0 then some (pendDown (ndFlags s p n 4 0) p n, laneDone l (noNode - 2) 0)
    else
      match findRun s p m (min (hCap s p) (2 ^ 24)) none (hFree s p) with
      | .none => none
      | .other off => some (treePost s t l off, laneDone l noNode 0)
      | .run prev h =>
        let rest := if nMove s p h = m then [] else [(nodeOff (h + m), 32)]
        match otherKind s p ((nodeOff h, 32 * m) :: rest) with
        | some off => some (treePost s t l off, laneDone l noNode 0)
        | none =>
          let s := takeRun s p m prev h
          let s := (List.range m).foldl (newChild p n h l.data) s
          let s := ndFlags (ndPut (ndPut s p n 16 4 h) p n 20 2 m) p n 1 0
          let s := trPut s (p + 8) 4 (hdr s p 8 4 + m)
          some (pendDown s p n, laneDone l h 0)

/-- What a step leaves when the owner tag that its writes carry is no longer that of its cluster (R295): its writes are dropped. -/
def treeOwned (t : TreeFor) (pool : Nat) (s s' : State) : State :=
  if s'.hist.length = s.hist.length ∨ ownerOk s (homeDie pool) (clusterOf t.core) t.tag.1 t.tag.2 then s'
  else post s t.who 0x44 5 t.ctx.toNat 1 (homeDie pool) pool 0

/-- Every lane in ascending order, or the lane that finds no run with its count (R350). -/
def expandAll (t : TreeFor) (s0 : State) : State → List TreeLane → List TreeLane → State × List TreeLane ⊕ Nat × Nat
  | s, [], acc => .inl (s, acc.reverse)
  | s, l :: ls, acc =>
    match expandLane s0 (carUse s l.pool) t l with
    | none => .inr (l.lane, l.left)
    | some (s', l') => expandAll t s0 (treeOwned t l.pool s s') ls (l' :: acc)

/-! ## TREE_STEP (R344, R353) -/

/-- One step of a lane of a form other than TEXPAND. -/
def laneStep (form : Nat) (s : State) (t : TreeFor) (l : TreeLane) : State × TreeLane × Option (Nat × Nat) :=
  let s := carUse s l.pool
  let one := fun (r : State × TreeLane) => (r.1, r.2, (none : Option (Nat × Nat)))
  let r := match form with
    | 0 => descStep s t l
    | 2 => one (backStep s t l)
    | 3 => one (rootStep s t l)
    | 4 => one (freeStep s t l)
    | _ => one (newStep s t l)
  (treeOwned t l.pool s r.1, r.2)

/-- The lane whose step comes next: the round it has reached, then its number (R353). -/
def nextLane (ls : List TreeLane) : Option TreeLane :=
  (ls.filter fun l => !l.done).foldl (fun b l =>
    match b with
    | none => some l
    | some x => if l.steps < x.steps ∨ (l.steps = x.steps ∧ l.lane < x.lane) then some l else b) none

/-- The values that a form writes when every lane has ended. -/
def treeWords (form d : Nat) (ls : List TreeLane) : List (Nat × Nat × Word) :=
  ls.flatMap fun l =>
    if form = 0 ∨ form = 3 then [(l.lane, d, BitVec.ofNat 32 l.res), (l.lane, d + 1, BitVec.ofNat 32 l.res2)]
    else [(l.lane, d, BitVec.ofNat 32 l.res)]

/-- Puts a TREE operation back into its place, or ends it and fills its result. -/
def treeStore (s : State) (core slot ix : Nat) (x : Sent) (form d : Nat) (pc : Dword) (pend : Option Nat) (ls : List TreeLane)
    (held : Option (Nat × Nat)) : State :=
  onGroup s core slot fun g =>
    if ls.all (·.done) then
      let g := { g with ops := g.ops.eraseIdx ix }
      match pend with
      | some p => fillPend g p (treeWords form d ls) [] none
      | none => g
    else { g with ops := g.ops.set ix { x with op := .tree form d pc pend ls held none } }

/-- An earlier TREE operation still holds one of the lanes of the operation at `ix`, whichever strand of theirs issued it: a lane's
operations keep their order across splits and merges (R210, log entry 27, DEDUCED). -/
def treeBehind (g : Group) (ix : Nat) (ls : List TreeLane) : Bool :=
  (g.ops.take ix).any fun x => x.op.lanes &&& maskOf (ls.map fun l => l.lane) != 0

/-- A TEXPAND that traps has performed nothing: its strand's region start is again the one before it (R350, R354). -/
def giveBack (back : Option (Region × List Nat)) (t : Strand) : Strand :=
  match back with
  | some (r, ids) => { t with region := r, slog := t.slog.map fun x => { x with young := x.young || ids.contains x.id } }
  | none => t

/-- A TEXPAND that found no run: its result is dropped and its strand traps (R350). -/
def treeTrap (s : State) (core slot ix sid : Nat) (pc : Dword) (pend : Option Nat) (back : Option (Region × List Nat))
    (lane m : Nat) : State :=
  let s := onGroup s core slot fun g =>
    let g := { g with ops := g.ops.eraseIdx ix }
    match pend with | some p => dropPend g p | none => g
  trapAt (onStrand s core slot sid (giveBack back)) core slot sid pc 10 0 (BitVec.ofNat 64 (65536 * lane + m))

/-- One step of the oldest TREE operation of a strand; one whose record waits for the reporting port waits with it (R283). -/
def treeStep (s : State) (core slot sid : Nat) : State :=
  match getGroup s core slot with
  | none => s
  | some g =>
    match opIndex g sid MemOp.isTree with
    | none => s
    | some ix =>
      match g.ops[ix]? with
      | none => s
      | some x =>
        match x.op with
        | .tree form d pc pend ls held back =>
          let t := treeFor g x pend
          if held.isSome || treeBehind g ix ls || (t.who != .device && waiting s t.who) then s
          else if form = 1 then
            match expandAll t s s ls [] with
            | .inl (s, ls) => treeStore s core slot ix x form d pc pend ls none
            | .inr (lane, m) => treeTrap s core slot ix sid pc pend back lane m
          else
            match nextLane ls with
            | none => treeStore s core slot ix x form d pc pend ls none
            | some l =>
              let (s, l', page) := laneStep form s t l
              treeStore s core slot ix x form d pc pend (ls.map fun y => if y.lane = l.lane then l' else y) page
        | _ => s

/-- TREE_STEP (R344). -/
def execTreeStep (core slot sid : Nat) (s : State) : Host.Outcome State Fault Refusal := .next (treeStep s core slot sid)

/-! ## TREE_BACKGROUND_FREE (R352) -/

/-- A node whose child block is still its own and not yet freed. -/
def ownBlock (s : State) (p n : Nat) : Bool :=
  nExpanded s p n && blockIn s p n && !nFreed s p (nFirst s p n) && nParent s p (nFirst s p n) == n

/-- Frees a block as one run at the front of FREE (R352, log entry 27, DEDUCED). -/
def freeBlock (s : State) (p h len : Nat) : State :=
  let pending := (List.range len).countP fun i => nPending s p (h + i)
  let s := ndFlags (ndPut (ndPut s p h 16 4 (hFree s p)) p h 28 4 len) p h 8 0
  let s := trPut (trPut s (p + 4) 4 h) (p + 8) 4 (hdr s p 8 4 - len)
  trPut s (p + 30) 2 (hPend s p - pending)

/-- The blocks that hang below the nodes of a run, each to be freed in the given order. -/
def blocksBelow (s : State) (p h len ord : Nat) : List (Nat × Nat × Nat) :=
  ((List.range len).filter fun i => ownBlock s p (h + i)).map fun i => (nFirst s p (h + i), nCount s p (h + i), ord)

/-- Puts the blocks below the first run before it, as far as that is their order, by fuel. -/
def openRuns (s : State) (p : Nat) : Nat → List (Nat × Nat × Nat) → List (Nat × Nat × Nat)
  | n + 1, (h, len, 1) :: rest =>
    match blocksBelow s p h len 1 with
    | [] => (h, len, 0) :: rest
    | kids => openRuns s p n (kids ++ (h, len, 0) :: rest)
  | _, runs => runs

/-- For whom the background work goes on. -/
def jobFor (j : TreeJob) : TreeFor := ⟨j.core, 0, j.asid, j.tag, .device, []⟩

/-- Frees a block of a job's pool: one that holds a unit of another kind is left with its record (R344), and one whose owner tag has
gone is left (R295). -/
def freeOne (s : State) (j : TreeJob) (h len : Nat) : State :=
  match otherKind s j.pool [(0, 64), (nodeOff h, 32 * len)] with
  | some off => post s .device 9 5 j.asid.toNat 0 (homeDie j.pool) (j.va + off) 0
  | none => treeOwned (jobFor j) j.pool s (freeBlock s j.pool h len)

/-- The end of a job: TCNT advances by 1, or the page that it waits for (R352). -/
def freeFinish (s : State) (j : TreeJob) : Option (Nat × Nat) × State :=
  let t := hdr s j.pool 48 8
  if t = 0 then (none, s)
  else
    match treeCounter s (jobFor j) j.pool t with
    | (.hold page, s) => (some page, s)
    | (.drop, s) => (none, s)
    | (.go pa, s) => (none, treeOwned (jobFor j) pa s (counterAdd s pa 1))

/-- One block of a job is freed: the job that is left, or none once it has ended (R352). -/
def freeStepOf (s : State) (j : TreeJob) : Option TreeJob × State :=
  let close := fun (s : State) (runs : List (Nat × Nat × Nat)) =>
    if runs.isEmpty then
      match freeFinish s j with
      | (none, s) => (none, s)
      | (some page, s) => (some { j with runs := [], held := some page }, s)
    else (some { j with runs := runs }, s)
  match openRuns s j.pool (min (hCap s j.pool) (2 ^ 24)) j.runs with
  | [] => close s []
  | (h, len, k) :: runs => close (freeOne s j h len) (runs ++ if k = 2 then blocksBelow s j.pool h len 2 else [])

/-- One block of the oldest job that waits for no page is freed (R352). -/
def backgroundFree (s : State) (die : Nat) : State :=
  let jobs := (getDie s die).treeFree
  match jobs.findIdx? fun j => j.held.isNone with
  | none => s
  | some i =>
    match jobs[i]? with
    | none => s
    | some j =>
      let (r, s) := freeStepOf s j
      setDie s die { (getDie s die) with treeFree := match r with | some j' => jobs.set i j' | none => jobs.eraseIdx i }

/-- TREE_BACKGROUND_FREE (R352). -/
def execTreeBackgroundFree (die : Nat) (s : State) : Host.Outcome State Fault Refusal := .next (backgroundFree s die)

/-! ## The issue of the six forms (R345) -/

/-- The column bytes of a lane: address, length and element size (R345–R351). -/
def treeCols (form : Nat) (f : GA) (c : Ctx) (l : Nat) : Option (Nat × Nat × Nat) :=
  let b := (readV c.g l f.b.toNat).toNat
  let b1 := (readV c.g l (f.b.toNat + 1)).toNat
  let m := (readV c.g l f.d.toNat).toNat
  match form with
  | 0 => some (b1, 1024, 4)
  | 1 => if 1 ≤ m ∧ m ≤ 4096 then some (b1, 8 * m, 8) else none
  | 2 => some (b, 4 * (bits b1 15 8 + 1), 4)
  | 5 => some (b, 64, 4)
  | _ => none

/-- The subcode of R100 for a lane's column bytes, 0 when they pass (log entry 27, DEDUCED). -/
def treeColFault (s : State) (c : Ctx) (x : Nat × Nat × Nat) : Nat :=
  if bits x.1 30 30 = 1 then 1
  else
    let col := (getCore s c.core).col
    ((least (((List.range (x.2.1 / x.2.2)).map fun i => colFault col c.g.ctx (x.1 + x.2.2 * i) x.2.2).filter (· != 0)))).getD 0

/-- The lanes' state as it stands at issue. -/
def treeLanes (form : Nat) (f : GA) (s : State) (c : Ctx) : List TreeLane :=
  let col := (getCore s c.core).col
  let t := s.time.toNat
  (lanesOf c.st.mask).map fun l =>
    let b := (readV c.g l f.b.toNat).toNat
    let b1 := (readV c.g l (f.b.toNat + 1)).toNat
    let dv := (readV c.g l f.d.toNat).toNat
    let rd := match treeCols form f c l with
      | some (a, n, _) => readLE (fun i => if lapExpired col (i / 64) t then 0 else mget 0 col.bytes i) a n
      | none => 0
    let va := (readV c.g l f.a.toNat).toNat + 2 ^ 32 * (readV c.g l (f.a.toNat + 1)).toNat
    let dep := bits b1 15 8
    match form with
    | 0 => { lane := l, va := va, node := b, arg := b1, path := [b] }
    | 1 => { lane := l, va := va, node := b, arg := 0, data := rd, left := dv }
    | 2 => {
      lane := l, va := va, node := 0, arg := dep, data := dv, left := dep + 1
      path := (List.range (dep + 1)).map fun i => rd / 2 ^ (32 * i) % 2 ^ 32 }
    | 5 => { lane := l, va := va, node := 0, arg := 0, data := rd }
    | _ => { lane := l, va := va, node := b, arg := 0 }

/-- The result a form leaves pending; `now` says it is performed and not logged (R354). -/
def treePend (form d : Nat) (now : Bool) (c : Ctx) : Option Pend :=
  if form = 2 then none
  else some {
    id := c.g.nextId, lanes := c.st.mask, vregs := if form = 0 ∨ form = 3 then [d, d + 1] else [d], tree := now, car := true }

/-- Lanes with the places that their pools translate to. -/
def placeLanes (ls : List TreeLane) (ts : List LaneTr) : List TreeLane :=
  ls.map fun l => match ts.find? fun t => t.lane == l.lane with
    | some t => { l with pool := t.pa, lg := t.lg }
    | none => l

/-- The region start of a strand and the stores made since (R350). -/
def backOf (t : Strand) : Region × List Nat := (t.region, (t.slog.filter (·.young)).map (·.id))

/-- Sends a TREE operation to the engine: TEXPAND parks its strand until the operation has been made, for its trap is
precise (R350). -/
def treeGo (form d : Nat) (ls : List TreeLane) (s : State) (c : Ctx) : Done :=
  let p := treePend form d true c
  let back := if form = 1 then some (backOf c.st) else none
  let c := newRegion (queueOp s (withPend c p) (ls.map (·.pool)) (.tree form d c.pc0 (p.map (·.id)) ls none back))
  if form = 1 then .gone (parkWith s c (.retry { vregs := [d] })) else .ok s c

/-- A TREE instruction whose column operands have passed (R345, R385). -/
def treeReached (form d : Nat) (ls : List TreeLane) (s : State) (c : Ctx) : Done :=
  let eas := ls.map fun l => (l.lane, l.va)
  let stop := fun (s : State) (code va : Nat) => Done.gone (terminalFault s c code 5 (BitVec.ofNat 64 va))
  match preCodes 64 eas with
  | some (code, va) => stop s code va
  | none =>
    match trLanes s c.core c.g.ctx.toNat .sync 64 true eas with
    | (ts, none, s) => treeGo form d (placeLanes ls ts) s c
    | (_, some (code, va), s) =>
      if retryable code then
        let p := treePend form d false c
        let rg := (regionAt c.st).region
        let c := withPend c p
        let (s, _) := logAdd s c.core c.slot c.st.sid c.g.ctx.toNat code 5 va c.pc0
          (.tree form d (p.map (·.id)) ls c.pc0) (some (rg, c.g.nextId))
        .ok s c
      else stop s code va

/-- The issue of a TREE form (R345). -/
def bodyTree (form : Nat) (f : GA) (s : State) (c : Ctx) : Done :=
  let cols := (lanesOf c.st.mask).filterMap fun l => (treeCols form f c l).map fun x => (l, x)
  let s := cols.foldl (fun s x => settleFor (settleFor s c.core x.2.1) c.core (x.2.1 + x.2.2.1 - 1)) s
  let bad := (cols.map fun x => (treeColFault s c x.2, x.2.1)).filter fun x => x.1 != 0
  match bad with
  | x :: _ => .trap 5 ((least (bad.map Prod.fst)).getD 0) (BitVec.ofNat 64 x.2)
  | [] =>
    let col := (getCore s c.core).col
    let secs := cols.flatMap fun x => sectorsOf x.2.1 x.2.2.1
    match least (secs.filter fun x => trapExpired col x s.time.toNat) with
    | some x => .trap 6 0 (BitVec.ofNat 64 (64 * x))
    | none =>
      let reads := form != 0
      match if reads then colErr s c.g.ctx.toNat 8 ((cols.flatMap fun x => (List.range ((x.2.2.1 + 7) / 8)).map fun i =>
          (⟨x.1, c.core, x.2.1 + 8 * i, x.2.1 + 8 * i⟩ : CReq))) else (false, s) with
      | (true, s) => .gone (colStop s c c.core)
      | (false, s) =>
        let lapsed := secs.any fun x => lapExpired col x s.time.toNat
        treeReached form f.d.toNat (treeLanes form f s c) s { c with st := { c.st with lapse := c.st.lapse || lapsed } }

/-- TDESC (R347). -/
def execTdesc (f : GA) (s : State) : Host.Outcome State Fault Refusal := runInstr (.tdesc f) (afterOps (bodyTree 0 f)) s
/-- TEXPAND (R350). -/
def execTexpand (f : GA) (s : State) : Host.Outcome State Fault Refusal := runInstr (.texpand f) (afterOps (bodyTree 1 f)) s
/-- TBACK (R351). -/
def execTback (f : GA) (s : State) : Host.Outcome State Fault Refusal := runInstr (.tback f) (afterOps (bodyTree 2 f)) s
/-- TROOT (R352). -/
def execTroot (f : GA) (s : State) : Host.Outcome State Fault Refusal := runInstr (.troot f) (afterOps (bodyTree 3 f)) s
/-- TFREE (R352). -/
def execTfree (f : GA) (s : State) : Host.Outcome State Fault Refusal := runInstr (.tfree f) (afterOps (bodyTree 4 f)) s
/-- TNEW (R346). -/
def execTnew (f : GA) (s : State) : Host.Outcome State Fault Refusal := runInstr (.tnew f) (afterOps (bodyTree 5 f)) s

end Sys2Proof.Machine
end

