-- ==== Sys2Proof/Machine/Place.lean ====
section
/-! DEFINITION. Queue banks and overflow rings (R262–R264), the choice of a cluster, and the placement of teams (R122, R222, R268,
R292, R322). -/

namespace Sys2Proof.Machine

/-! ## Front ends, launches, records -/

/-- The owner register of a global cluster as its own die holds it (R293). -/
def cownOf (s : State) (g : Nat) : Cown := mget {} (getDie s (g / 8)).cown g

/-- The clusters of a front end's partition, but those that are changing their owner (R293, R294). -/
def feClusters (s : State) (f : Nat) : List Nat :=
  (List.range 32).filter fun g => let w := cownOf s g; !w.none_ && !w.moving && w.part.toNat == f

/-- A launch number (R259). -/
def launchNum (f slot : Nat) : Nat := 2048 * f + slot

/-- LREF of a task. -/
def taskFe (t : Task) : Nat := tfield t.rcd 0 2 / 2048
def taskSlot (t : Task) : Nat := tfield t.rcd 0 2 % 2048
def taskTeam (t : Task) : Nat := tfield t.rcd 2 3
def taskAge (t : Task) : Nat := tfield t.rcd 5 1
def taskBudget (t : Task) : Nat := tfield t.rcd 6 2
def taskDeadline (t : Task) : Nat := tfield t.rcd 8 8

/-- The launch in a slot. -/
def getLaunch (s : State) (f slot : Nat) : Option Launch := mfind (getFe s f).slots slot

/-- Changes a launch. -/
def setLaunch (s : State) (f slot : Nat) (l : Launch) : State :=
  let fe := getFe s f
  setFe s f { fe with slots := mput fe.slots slot l }

/-- Changes a launch where its slot holds one. -/
def onLaunch (s : State) (f slot : Nat) (k : Launch → Launch) : State :=
  match getLaunch s f slot with
  | some l => setLaunch s f slot (k l)
  | none => s

/-- The launch of a task. -/
def taskLaunch (s : State) (t : Task) : Option Launch := getLaunch s (taskFe t) (taskSlot t)

/-- The context of a launch: its record's CTX. -/
def lctx (l : Launch) : Nat := lrec l 44 1

/-- Writes a byte field of a task record. -/
def setTfield (r : BitVec 512) (off n v : Nat) : BitVec 512 :=
  BitVec.ofNat 512 (r.toNat - tfield r off n * 2 ^ (8 * off) + v % 2 ^ (8 * n) * 2 ^ (8 * off))

/-- Sets AGE. -/
def withAge (t : Task) (a : Nat) : Task := { t with rcd := setTfield t.rcd 5 1 (min a 255) }

/-- A launch fault of a task or a launch (R258, R281). -/
def postLaunch (s : State) (who : Party) (f slot : Nat) (l : Launch) (code : Nat) : State :=
  post s who code 2 (if l.rcd = 0 then l.asid.toNat else lctx l) 0 (locFe f) l.va.toNat (launchNum f slot)

/-- A condition template (R257): base, stride, target. -/
def condBase (l : Launch) (i : Nat) : Nat := lrec l (144 + 16 * i) 8
def condStride (l : Launch) (i : Nat) : Nat := lrec l (152 + 16 * i) 2
def condTarget (l : Launch) (i : Nat) : Nat := lrec l (154 + 16 * i) 6

/-- DEADLINE, 0 read as the greatest (R257). -/
def deadlineOf (x : Nat) : Nat := if x = 0 then 2 ^ 64 - 1 else x

/-- The head of a task record (R262). -/
def recHead (f slot team : Nat) (l : Launch) : Nat :=
  launchNum f slot + 2 ^ 16 * team + 2 ^ 48 * lrec l 40 2 + 2 ^ 64 * deadlineOf (lrec l 32 8)

/-- The record of team `t` of a launch (R262). -/
def teamRecord (f slot t : Nat) (l : Launch) : BitVec 512 :=
  BitVec.ofNat 512 ((List.range 4).foldl (fun r i =>
    if condBase l i = 0 then r
    else r + 2 ^ (128 + 96 * i) * ((condBase l i + condStride l i * t) / 8 % 2 ^ 54 + 2 ^ 54 * condTarget l i)) (recHead f slot t l))

/-- The counter address and target of a task's condition, 0 for none. -/
def taskCond (s : State) (t : Task) (i : Nat) : Nat × Nat :=
  match taskLaunch s t with
  | none => (0, 0)
  | some l =>
    if lflag l 2 then (0, 0)
    else if lflag l 3 then
      let x := tfield t.rcd (16 + 12 * i) 12
      (8 * (x % 2 ^ 54), x / 2 ^ 54)
    else if condBase l i = 0 then (0, 0)
    else (condBase l i + condStride l i * taskTeam t, condTarget l i)

/-- A record is ready when every condition holds (R263). -/
def taskReady (s : State) (t : Task) : Bool :=
  !t.faulted && (List.range 4).all fun i => (taskCond s t i).1 == 0 || t.held.getLsbD i

/-! ## Banks and overflow rings (R262–R264) -/

/-- The units of a list of records, in order of their first records. -/
def unitsOf (l : List Task) : List (List Task) := (l.map (·.unit)).eraseDups.map fun u => l.filter fun t => t.unit == u

/-- The SEQ of a unit's first record. -/
def unitSeq (u : List Task) : Nat := match u with | t :: _ => t.seq.getD 0 | [] => 0

/-- Inserts a unit in SEQ order. -/
def insertUnit (u : List Task) : List (List Task) → List (List Task)
  | [] => [u]
  | x :: t => if unitSeq u < unitSeq x then u :: x :: t else x :: insertUnit u t

/-- Units in SEQ order. -/
def sortUnits (l : List (List Task)) : List (List Task) := l.foldl (fun r u => insertUnit u r) []

/-- Records that a cluster's overflow ring can hold (R264). -/
def ringCap (b : Bank) : Nat := if bits b.qovf.toNat 56 52 = 0 then 0 else 2 ^ bits b.qovf.toNat 56 52 * 1024

/-- Where an entry of the ring stands (R264). -/
def ringAddr (b : Bank) (i : Nat) : Nat := bits b.qovf.toNat 51 12 * 4096 + 128 * ((b.ringHead + i) % ringCap b)

/-- The context of a record's launch, or 0xFF. -/
def taskCtx (s : State) (t : Task) : Nat := match taskLaunch s t with | some l => lctx l | none => 0xFF

/-- Writes one entry of a ring; a place that is no memory refuses it (R43, log entry 44). -/
def ringPut (b : Bank) (s : State) (t : Task) (i : Nat) : State :=
  if physOk s (ringAddr b i) 128 then storeMem s (ringAddr b i) 128 (t.rcd.toNat + 2 ^ 512 * t.seq.getD 0)
  else refused s (taskCtx s t) 1 (locFe (taskFe t)) (ringAddr b i)

/-- Sets a bank's ring contents, writing its entries to memory. -/
def setRing (s : State) (cluster : Nat) (b : Bank) (l : List Task) : State :=
  l.zipIdx.foldl (fun s (t, i) => ringPut b s t i) (setBank s cluster { b with ringMeta := l, ringLen := l.length })

/-- A record is written to a place of a bank, which takes an injection that is armed for it (R305). Its place is its position in the
bank (log entry 21, DEDUCED). -/
def bankPut (cluster : Nat) (s : State) (t : Task) : State :=
  let b := getBank s cluster
  let e := getErr s 2 cluster
  let hit := e.armed.bind fun x => if x.1 = b.tasks.length then some x.2 else none
  let s := if hit.isSome then setErr s 2 cluster { e with armed := none } else s
  setBank s cluster { b with tasks := b.tasks ++ [{ t with err := hit, staged := false }] }

/-- Records queued at a cluster, bank and ring together. -/
def queuedAt (s : State) (cluster : Nat) : Nat := (getBank s cluster).tasks.length + (getBank s cluster).ringLen

/-- Units of the highest SEQ until 1,024 records or more: those that go, in SEQ order (R264). -/
def spillUnits (l : List (List Task)) : List (List Task) :=
  (((sortUnits l).reverse.foldl (fun (r : List (List Task) × Nat) u =>
    if 1024 ≤ r.2 then r else (u :: r.1, r.2 + u.length)) ([], 0))).1

/-- Gives SEQ numbers to records that hold none (R262). -/
def giveSeq (n : Nat) : List Task → List Task × Nat
  | [] => ([], n)
  | t :: l =>
    match t.seq with
    | some _ => let (r, n) := giveSeq n l; (t :: r, n)
    | none => let (r, m) := giveSeq (n + 1) l; ({ t with seq := some n } :: r, m)

/-- Puts a unit into a cluster's bank or ring: none where no room is left (R264). -/
def putUnit (s : State) (cluster : Nat) (u : List Task) : Option State :=
  let b := getBank s cluster
  let (u, n) := giveSeq b.nextSeq u
  let b := { b with nextSeq := n, pass := true }
  if b.ringLen ≠ 0 then
    if b.ringLen + u.length ≤ ringCap b then some (setRing s cluster b (insertUnit u (unitsOf b.ringMeta)).flatten) else none
  else if b.tasks.length + u.length ≤ 8192 then some (u.foldl (bankPut cluster) (setBank s cluster b))
  else
    let out := spillUnits (unitsOf b.tasks)
    let ids := out.map fun u => (u.head?.map (·.unit)).getD 0
    let ring := (insertUnit u out).flatten
    if ring.length ≤ ringCap b then
      some (setRing s cluster { b with tasks := b.tasks.filter fun t => !ids.contains t.unit } ring)
    else none

/-- The cluster that R262 chooses: the fewest records, the lowest number on a tie. -/
def chooseCluster (s : State) (f : Nat) : Option Nat :=
  (feClusters s f).foldl (fun b g =>
    match b with
    | none => some g
    | some x => if queuedAt s g < queuedAt s x then some g else some x) none

/-- The number of a unit. -/
def unitId (u : List Task) : Nat := match u with | t :: _ => t.unit | [] => 0

/-- The spawned records in staging as the tasks that they will be, each a unit of its own (R262, R270). -/
def stagedTasks (s : State) (f : Nat) : List Task :=
  (getFe s f).staging.zipIdx.map fun (r, i) =>
    { id := s.nextUid + i, rcd := r, unit := s.nextUid + i, staged := true
      q := match getLaunch s f (tfield r 0 2 % 2048) with | some l => (lflag l 4).toNat | none => 0 }

/-- How many spawned records stand in staging (R270). -/
def stagedCount (fe : FrontEnd) : Nat := fe.staging.length + fe.held.countP (·.staged)

/-- Enqueues the units that a front end keeps, in their order, until one finds no room; by fuel (R262, R264). -/
def drainGo (f : Nat) : Nat → State → State
  | 0, s => s
  | n + 1, s =>
    let fe := getFe s f
    match unitsOf fe.held, chooseCluster s f with
    | u :: _, some g =>
      match putUnit (setFe s f { fe with held := fe.held.filter fun t => t.unit != unitId u }) g u with
      | some s => drainGo f n s
      | none => s
    | _, _ => s

/-- The records that a front end keeps, those in staging after those that it holds, are enqueued in order as far as there is room (R262,
R270). -/
def drainHeld (s : State) (f : Nat) : State :=
  let fe := getFe s f
  if fe.held.isEmpty && fe.staging.isEmpty then s
  else
    let s := setFe { s with nextUid := s.nextUid + fe.staging.length } f { fe with held := fe.held ++ stagedTasks s f, staging := [] }
    drainGo f (fe.held.length + fe.staging.length) s

/-- A front end keeps a unit behind the records that it would enqueue before it (R262). -/
def holdUnit (s : State) (f : Nat) (u : List Task) : State :=
  let s := drainHeld s f
  let fe := getFe s f
  setFe s f { fe with held := fe.held ++ u }

/-- Enqueues a unit of a front end after all that it keeps; it is held there while the partition has no cluster (R262), and there is no room
for it while an earlier record finds none. -/
def enqueueUnit (s : State) (f : Nat) (u : List Task) : Option State :=
  let s := drainHeld s f
  match chooseCluster s f with
  | none => some (holdUnit s f u)
  | some g => if (getFe s f).held.isEmpty then putUnit s g u else none

/-- Returns units from the head of the ring until the bank holds 4,096 more or the ring is empty; none that would take it past its 8,192
records (R264). `n` counts those returned, `b` those in the bank before. -/
def unspillGo (b : Nat) : List (List Task) → Nat → List Task × List Task
  | [], _ => ([], [])
  | u :: l, n =>
    if 4096 ≤ n ∨ 8192 < b + n + u.length then ([], (u :: l).flatten)
    else
      let (x, y) := unspillGo b l (n + u.length)
      (u ++ x, y)

/-- A record as the ring in memory holds it. -/
def ringRead (s : State) (b : Bank) (i : Nat) (t : Task) : Task :=
  let v := memRead s.mem (ringAddr b i) 72
  { t with rcd := BitVec.ofNat 512 v, seq := some (v / 2 ^ 512 % 2 ^ 64) }

/-- The records of a ring, read from it; one whose place is no memory is refused and lost (R43, log entry 44). -/
def ringTake (s : State) (b : Bank) : List Task × State :=
  b.ringMeta.zipIdx.foldl (fun (r : List Task × State) (t, i) =>
    if physOk s (ringAddr b i) 128 then (r.1 ++ [ringRead s b i t], r.2)
    else (r.1, refused r.2 (taskCtx s t) 0 (locFe (taskFe t)) (ringAddr b i))) ([], s)

/-- QUEUE_UNSPILL (R264). -/
def unspill (s : State) (cluster : Nat) : State :=
  let b := getBank s cluster
  if b.ringLen = 0 ∨ 4096 < b.tasks.length then s
  else
    let (l, s) := ringTake s b
    let (back, rest) := unspillGo b.tasks.length (unitsOf l) 0
    back.foldl (bankPut cluster) (setBank s cluster { b with
      ringMeta := rest, ringLen := rest.length, ringHead := b.ringHead + (b.ringLen - rest.length), pass := true })

/-- QUEUE_UNSPILL (R264). -/
def execQueueUnspill (cluster : Nat) (s : State) : Host.Outcome State Fault Refusal := .next (unspill s cluster)

/-! ## Resources (R222, R268) -/

/-- Granules of a group's registers (R122). -/
def regGranules (n w : Nat) : Nat := (4 * n * w + 511) / 256

/-- Static allocation `i` of a launch (R257): bytes, class, lifetime. -/
def statBytes (l : Launch) (i : Nat) : Nat := lrec l (80 + 8 * i) 4
def statCls (l : Launch) (i : Nat) : Nat := lrec l (84 + 8 * i) 1 % 4
def statLife (l : Launch) (i : Nat) : Nat := lrec l (86 + 8 * i) 2

/-- Granules of all static allocations of a team. -/
def statGranules (l : Launch) : Nat := ((List.range (lrec l 27 1)).map fun i => (statBytes l i + 255) / 256).sum

/-- Accumulator entries of a team, in units of 4 KiB (R186). -/
def accUnitsOf (l : Launch) : Nat := (lrec l 28 4 + 4095) / 4096

/-- A 4 KiB unit of a core's accumulator memory is taken. -/
def accTaken (s : State) (core u : Nat) : Bool :=
  s.teams.any fun e =>
    let a := mget 0 e.2.accBases core
    e.2.cores.contains core && decide (a ≤ 1024 * u ∧ 1024 * u < a + e.2.accSize)

/-- The lowest run of free units on a core. -/
def accRun (s : State) (core n : Nat) : Option Nat :=
  if n = 0 then some 0
  else (List.range 64).find? fun u => decide (u + n ≤ 64) && (List.range n).all fun i => !accTaken s core (u + i)

/-- A reservation of `n` units on each core of a team: its first entry by core (R186). -/
def accRuns (s : State) (n : Nat) (cores : List Nat) : Option (AMap Nat) :=
  cores.foldl (fun (r : Option (AMap Nat)) c => r.bind fun m => (accRun s c n).map fun u => mput m c (1024 * u)) (some [])

/-- The lowest run of free granules on every core of a team (R268). -/
def runOn (s : State) (cores : List Nat) (n : Nat) : Option Nat :=
  if n = 0 then some 0
  else
    let tags := fun c => (getCore s c).col.tags
    least ((cores.flatMap fun c => runStarts (tags c) 0).filter fun g =>
      decide (g + n ≤ colGranules) && cores.all fun c => runFree (tags c) g n)

/-- Physical gong lines bound to launches (R222). -/
def boundLines (s : State) : List Nat := s.fes.flatMap fun e => e.2.slots.flatMap fun x => x.2.lines

/-- Binds a launch's lines: its own when they are bound already, else the lowest free ones of its partition (R222, log entry 28, DEDUCED). -/
def bindLines (s : State) (f : Nat) (l : Launch) : Option (List Nat) :=
  let n := lrec l 26 1
  if l.resident ≠ 0 then some l.lines
  else
    let fe := getFe s f
    let taken := boundLines s
    let free := (List.range 128).filter fun i =>
      (if i < 64 then fe.lines0.getLsbD i else fe.lines1.getLsbD (i - 64)) && !taken.contains i
    if n ≤ free.length then some (free.take n) else none

/-- The lowest free group slot of a core (R268). -/
def freeGroupSlot (s : State) (core : Nat) : Option Nat := (List.range 1024).find? fun i => (getGroup s core i).isNone

/-- A core takes no placement (R373). -/
def isOff (s : State) (core : Nat) : Bool := (getDie s (dieOf core)).coreoff.getLsbD (core % 128)

/-! ## Tiles of a bounds task (R322, R335) -/

/-- Fields of an open-tile entry (R334). -/
def entIx (e : Nat) : Nat := bits e 19 0
def entIy (e : Nat) : Nat := bits e 39 20
def entEl (e : Nat) : Nat := bits e 43 40
def entPt (e : Nat) : Bool := bits e 44 44 == 1

/-- How many children an entry has (R335). -/
def childCount (e : Nat) : Nat := if entPt e then 4 ^ entEl e else 4

/-- Child `j` of an entry (R335). -/
def childTile (e j : Nat) : Tile :=
  if entPt e then
    let n := 2 ^ entEl e
    ⟨entIx e + j % n, entIy e + j / n, 0, true⟩
  else
    let h := 2 ^ (entEl e - 1)
    ⟨entIx e + j % 2 * h, entIy e + j / 2 * h, entEl e - 1, false⟩

/-- The next children in list order. -/
def takeChildren (list : List Nat) : Nat → Nat → Nat → List Tile
  | 0, _, _ => []
  | n + 1, i, j =>
    match list[i]? with
    | none => []
    | some e => childTile e j :: (if j + 1 < childCount e then takeChildren list n i (j + 1) else takeChildren list n (i + 1) 0)

/-- Initial tile `n` (R322). -/
def initTile (l : Launch) (n : Nat) : Tile :=
  let be := lrec l 232 1
  let per := lrec l 224 4 / 2 ^ be
  ⟨n % per * 2 ^ be, n / per * 2 ^ be, be, false⟩

/-- The tiles of a bounds task (R335). -/
def taskTiles (l : Launch) (t : Task) : List Tile :=
  let first := tfield t.rcd 16 8
  let n := tfield t.rcd 24 2
  if tfield t.rcd 26 1 = 0 then (List.range n).map fun i => initTile l (first % 2 ^ 40 + i)
  else takeChildren l.list n (first % 2 ^ 40) (first / 2 ^ 40 % 2 ^ 16)

/-- A coordinate of the grid, exact before rounding: origin + (half / 2)·width (R322). -/
def gridCoord (rm org width half : Nat) : Nat :=
  let x := (fvMul (fdec fp32 width) (.fin false half (-1))).1
  (roundFormat fp32 rm false (fvAdd rm (fdec fp32 org) x).1).1

/-- The registers that a lane with a tile starts with (R322). -/
def tileRegs (l : Launch) (t : Tile) : List Nat :=
  let axis := fun (org width i : Nat) =>
    if t.point then
      let m := gridCoord rmNear org width (2 * i + 1)
      [m, m]
    else [gridCoord rmDown org width (2 * i), gridCoord rmUp org width (2 * (i + 2 ^ t.el))]
  axis (lrec l 208 4) (lrec l 216 4) t.ix ++ axis (lrec l 212 4) (lrec l 220 4) t.iy ++
    [t.ix, t.iy, if t.point then 1 else 2 ^ t.el, if t.point then 1 else 0]

/-- Gives a group its tiles. -/
def withTiles (l : Launch) (ts : List Tile) (g : Group) : Group :=
  ts.zipIdx.foldl (fun g (t, i) =>
    let g := { g with tiles := mput g.tiles i t }
    (tileRegs l t).zipIdx.foldl (fun g (x, r) => writeV g i r (BitVec.ofNat 32 x)) g) g

/-! ## Placing a team (R268) -/

/-- A group at dispatch (R122, R322): its one strand performs the acquire of R230. -/
def newGroup (s : State) (l : Launch) (t : Task) (core slot uid idx base : Nat) : State :=
  let w := 16 * 2 ^ (lrec l 8 1 % 4)
  let bnd := lflag l 2
  let ts := if bnd then taskTiles l t else []
  let st : Strand := {
    sid := 0, pc := BitVec.ofNat 64 (lrec l 0 8), mask := if bnd then fullMask ts.length else fullMask w
    fmt := if bnd then 0x10000 else 0 }
  let g : Group := {
    core := core, slot := slot, ctx := BitVec.ofNat 8 (lctx l), team := uid, idx := idx, width := w, nregs := lrec l 9 1
    bounds := bnd, age := s.ageCtr, nextSid := 1, regBase := base }
  let (s, st) := acquireSt s g 6 (regionAt st)
  setGroup s { withTiles l ts g with strands := [st] }

/-- A saved group on its new core: each strand performs step 4 of R289 (R292). -/
def oldGroup (s : State) (g : Group) (core slot base : Nat) : State :=
  let g := { g with core := core, slot := slot, regBase := base, age := s.ageCtr }
  let (s, ts) := g.strands.foldl (fun (r : State × List Strand) t =>
    let (s, t) := acquireSt r.1 g 6 t
    (s, r.2 ++ [t])) (s, [])
  setGroup s { g with strands := ts }

/-- Places one group: the lowest slot, the lowest run for its registers at or above the statics' run. -/
def placeGroup (s : State) (l : Launch) (t : Task) (core uid idx lo : Nat) (old : Option Group) : Option State :=
  let n := regGranules (lrec l 9 1) (16 * 2 ^ (lrec l 8 1 % 4))
  match freeGroupSlot s core, lowestRun (getCore s core).col.tags lo n with
  | some slot, some base =>
    let s := tagRun s core base n (.reg slot) (lctx l)
    some (match old with
      | some g => oldGroup s g core slot base
      | none => newGroup s l t core slot uid idx base)
  | _, _ => none

/-- The core of group `idx` of a team (R268). -/
def groupCore (cores : List Nat) (n idx : Nat) : Nat :=
  match cores with
  | [a, b] => if idx < (n + 1) / 2 then a else b
  | a :: _ => a
  | [] => 0

/-- Makes the static allocations of a team on a core (R114). -/
def placeStatics (s : State) (l : Launch) (uid core base : Nat) : State :=
  ((List.range (lrec l 27 1)).foldl (fun (r : State × Nat) i =>
    let n := (statBytes l i + 255) / 256
    let al : Alloc := {
      base := 256 * r.2, size := statBytes l i, cls := clsOf (statCls l i), life := statLife l i, ctx := BitVec.ofNat 8 (lctx l)
      team := uid, num := 0, static := true, born := r.1.time.toNat, root := 256 * r.2 }
    (errWrites (allocate r.1 core al) 0 core fun w => decide (al.base ≤ 8 * w ∧ 8 * w < al.base + al.size), r.2 + n)) (s, base)).1

/-- Recreates a saved allocation with its contents and stamps (R119). -/
def restoreAlloc (img : Image) (ix core : Nat) (s : State) (al : Alloc) : State :=
  let t := s.time.toNat
  if al.cls = .lap then allocate s core { al with born := (t : Int) - 64 * al.life - 1 }
  else
    let s := allocate s core al
    let k := getCore s core
    let inR := fun a => decide (al.base ≤ a ∧ a < al.base + al.size)
    let bytes := (mget [] img.bytes ix).filter fun e => inR e.1
    let stamps := (mget [] img.stamps ix).filter fun e => inR (64 * e.1)
    setCore s core { k with col := { k.col with
      bytes := bytes.foldl (fun m e => mput m e.1 e.2) k.col.bytes
      stamps := stamps.foldl (fun m e => mput m e.1 e.2) k.col.stamps } }

/-- The saved runs are free on the new cores (R292). -/
def imageFits (s : State) (img : Image) (cores : List Nat) : Bool :=
  img.allocs.all fun e => runFree (getCore s (cores.getD e.1 0)).col.tags (e.2.base / 256) (e.2.size / 256)

/-- The accumulator entries of a reservation, as zeros or as saved. -/
def placeAcc (s : State) (core base n : Nat) (old : AMap Word) : State :=
  let k := getCore s core
  let acc := mkeep (fun a => !decide (base ≤ a ∧ a < base + n)) k.acc
  setCore s core { k with acc := old.foldl (fun m e => mput m (base + e.1) e.2) acc }

/-- Places a team on one core or one pair (R268, R292), or not at all. -/
def placeOn (s : State) (cluster : Nat) (l : Launch) (t : Task) (cores : List Nat) : Option State :=
  let n := lrec l 10 1
  let w := cownOf s cluster
  if cores.any (isOff s) then none
  else
    match bindLines s (taskFe t) l, runOn s cores (if t.img.isSome then 0 else statGranules l), accRuns s (accUnitsOf l) cores with
    | some lines, some stat, some accs =>
      if !(match t.img with | some img => imageFits s img cores | none => true) then none
      else
        let uid := match t.img with | some img => img.team.uid | none => s.nextUid
        let fresh : Team := {
          uid := uid, ctx := BitVec.ofNat 8 (lctx l), fe := taskFe t, lslot := taskSlot t, rcd := t.rcd, seq := t.seq.getD 0
          cluster := cluster, cores := cores, statBase := 256 * stat, accBases := accs, accSize := 1024 * accUnitsOf l
          groups := n, left := none }
        let tm := match t.img with
          | some img => { img.team with cluster := cluster, cores := cores, accBases := accs, moving := false, yieldTo := none }
          | none => fresh
        let tm := { tm with
          rcd := (withAge t 0).rcd, left := if taskBudget t = 0 then none else some (65536 * taskBudget t), budgetStop := false
          part := w.part.toNat, gen := w.gen.toNat }
        let s := setTeam { s with nextUid := if t.img.isSome then s.nextUid else s.nextUid + 1 } tm
        let s := match t.img with
          | some img => img.allocs.foldl (fun s e => restoreAlloc img e.1 (cores.getD e.1 0) s e.2) s
          | none => cores.foldl (fun s c => placeStatics s l uid c stat) s
        let s := cores.zipIdx.foldl (fun s (c, i) =>
          placeAcc s c (mget 0 accs c) (1024 * accUnitsOf l) (match t.img with | some img => mget [] img.acc i | none => [])) s
        let lo := tm.statBase / 256
        let r := (List.range n).foldl (fun (r : Option State) idx =>
          r.bind fun s => placeGroup s l t (groupCore cores n idx) uid idx lo
            (t.img.bind fun img => img.grps.find? fun g => g.idx == idx)) (some s)
        r.map fun s => setLaunch s (taskFe t) (taskSlot t) { l with lines := lines, resident := l.resident + 1 }
    | _, _, _ => none

/-- Places a team on the first core of a cluster, or the first pair, where it fits (R268). -/
def placeAt (s : State) (cluster : Nat) (l : Launch) (t : Task) : Option State :=
  if lflag l 1 then (List.range 8).findSome? fun p => placeOn s cluster l t [16 * cluster + 2 * p, 16 * cluster + 2 * p + 1]
  else (List.range 16).findSome? fun k => placeOn s cluster l t [16 * cluster + k]

/-- Places a team on a cluster that takes its partition's tasks: it is not changing its owner (R294), and the context is not stopped
(R280). -/
def placeTeam (s : State) (cluster : Nat) (t : Task) : Option State :=
  match taskLaunch s t with
  | none => none
  | some l =>
    let c := cownOf s cluster
    if c.moving || c.scrub || c.none_ || c.part.toNat != taskFe t || (ctxBlock s (cluster / 8) (lctx l)).stop then none
    else placeAt s cluster l t

/-- Places a unit's teams in ascending order, each on the first of some clusters where `place` finds that it fits, or none of them. -/
def placeAll (place : State → Nat → Task → Option State) (s : State) (clusters : List Nat) (u : List Task) : Option State :=
  u.foldl (fun (r : Option State) t => r.bind fun s => clusters.findSome? fun c => place s c t) (some s)

/-- Place (R268). -/
def placeUnit (s : State) (clusters : List Nat) (u : List Task) : Option State := placeAll placeTeam s clusters u

/-! ## Releasing a team -/

/-- The groups of a team. -/
def teamGroups (s : State) (uid : Nat) : List Group := (s.groups.map Prod.snd).filter fun g => g.team == uid

/-- Releases a team's register reservations and group slots. -/
def freeGroups (s : State) (uid : Nat) : State :=
  (teamGroups s uid).foldl (fun s g =>
    let s := freeRun s g.core g.regBase (regGranules g.nregs g.width) g.ctx.toNat
    { s with groups := mdel s.groups (gkey g.core g.slot) }) s

/-- Releases all that a team holds on its cores (R112, R114, R186), and its launch's lines with its last resident team
(R222). -/
def freeTeam (s : State) (t : Team) : State :=
  let s := t.cores.foldl (fun s c =>
    let s := ((getCore s c).col.allocs.filter fun a => a.team == t.uid).foldl (fun s a => release s c a) s
    placeAcc s c (mget 0 t.accBases c) t.accSize []) s
  let s := freeGroups s t.uid
  let s := { s with teams := mdel s.teams t.uid }
  let s := onLaunch s t.fe t.lslot fun l =>
    { l with resident := l.resident - 1, lines := if l.resident ≤ 1 then [] else l.lines }
  askPass s t.cluster

end Sys2Proof.Machine
end

