-- ==== Sys2Proof/Machine/Teams.lean ====
section
/-! DEFINITION. What the resident kernel does to teams (R284–R292): resuming, renewing, restarting, moving and ending them, the
save of an image, the budget trap (R269), and the control of a context (R280, R288). -/

namespace Sys2Proof.Machine

/-! ## Restarting (R289) -/

/-- What a restart leaves of a group's results in flight: those of the strand's lanes are dropped, but for the results of TREE
(R289, R354, log entry 35, DEDUCED). -/
def dropFlight (mask : Dword) (l : List Pend) : List Pend :=
  (l.map fun p => if p.tree then p else { p with lanes := p.lanes &&& ~~~mask }).filter fun p => p.lanes != 0

/-- The state of R125 and R274 as the region record holds it. -/
def atRegion (t : Strand) : Strand :=
  let r := t.region
  { t with
    pc := r.pc, mask := r.mask, fmt := r.fmt, fx := r.fx, lapse := r.lapse, cause := r.cause, epc := r.epc
    value := r.value, fpc := r.fpc, hnd := r.hnd
    status := .ready, slot := false, kept := none, paid := false
    slog := t.slog.filter fun x => !x.young }

/-- Ends the run of a strand that is not at its end, keeping any other run in progress. -/
def cutRun (s : State) (c : Ctx) : State × Ctx :=
  let cur := s.cur
  let (s, c) := endRun s c
  (if cur = some (c.core, c.slot, c.st.sid) then s else { s with cur := cur }, c)

/-- An MMAP or MMAX at which a strand waits for its engine leaves the queue: the strand issues it again, and its partners wait until
they time out (R199, R205). -/
def dropPaired (s : State) (core slot sid : Nat) : State :=
  let k := getCore s core
  let mine := fun (o : MOp) => o.grp == slot && o.sid == sid && !o.started && (wOp o.word == 0x21 || wOp o.word == 0x22)
  if k.mq.any mine then
    setCore s core { k with mq := k.mq.filter fun o => !mine o, hold := if k.mq.head?.any mine then none else k.hold }
  else s

/-- Steps 1 to 3 of R289; the acquire of step 4 comes before the strand's next run. -/
def restartStrand (s : State) (core slot sid : Nat) : State :=
  match ctxAt s core slot sid with
  | none => s
  | some c =>
    let (s, c) := cutRun s c
    let k := getCore s core
    let s := setCore s core { k with olog := k.olog.filter fun e => !(e.grp == slot && e.sid == sid) }
    let keep := fun (x : Sent) => match x.op with
      | .cread _ _ _ _ _ _ => x.sid != sid
      | _ => true
    putCtx (dropPaired s core slot sid) { c with
      g := { c.g with pend := dropFlight c.st.mask c.g.pend, ops := c.g.ops.filter keep }
      st := { atRegion c.st with acqNext := true } }

/-- Restarts every strand of a team; those parked at a REGANG stay there, and their merge acquires (R253). -/
def restartTeam (s : State) (uid : Nat) : State :=
  (teamGroups s uid).foldl (fun s g =>
    let s := g.strands.foldl (fun s t => restartStrand s g.core g.slot t.sid) s
    onGroup s g.core g.slot fun g => { g with join := g.join.map fun e => if e.arrived = 0 then e else { e with acq := true } }) s

/-! ## Resuming (R286) -/

/-- A wait kept while stopped goes on as its outcome gives: a barrier may have been released meanwhile (R269). -/
def takeUp (s : State) (c : Ctx) (w : Wait) : Ctx :=
  match w with
  | .bar kind scope line gen =>
    if gen < barGen s c.g scope line then
      let t := { c.st with bars := barSet c.st.bars scope line none }
      if kind = 1 then { c with st := { t with pc := t.pc - 4, status := .ready } }
      else { c with st := { (if kind = 0 then regionAt t else t) with status := .parked (.acquire scope false) } }
    else { c with st := { c.st with status := .parked w } }
  | w => { c with st := { c.st with status := .parked w } }

/-- Goes on at the kept wait, or ready. -/
def goOn (s : State) (c : Ctx) : Ctx :=
  match c.st.kept with
  | some w => takeUp s { c with st := { c.st with kept := none } } w
  | none => { c with st := { c.st with status := .ready } }

/-- OP 0 on one stopped strand, by its cause (R286). -/
def resumeStrand (s : State) (core slot sid : Nat) : State :=
  match ctxAt s core slot sid with
  | none => s
  | some c =>
    match c.st.status with
    | .stopped cause log =>
      if cause = 19 ∨ cause = 20 then restartStrand s core slot sid
      else if cause = 17 then putCtx s (goOn s { c with st := { c.st with pc := c.st.epc } })
      else
        match log with
        | none => putCtx s { c with st := { c.st with pc := c.st.fpc, status := .ready } }
        | some i =>
          let k := getCore s core
          let s := setCore s core { k with olog := k.olog.map fun e => if e.idx = i then { e with go := true } else e }
          let g := { c.g with pend := c.g.pend.map fun p =>
            match p.bad with | some (_, j) => if j = i then { p with bad := none } else p | none => p }
          putCtx s (goOn s { c with g := g })
    | _ => s

/-- Resumes each stopped strand of a team. -/
def resumeTeam (s : State) (uid : Nat) : State :=
  (teamGroups s uid).foldl (fun s g => g.strands.foldl (fun s t => resumeStrand s g.core g.slot t.sid) s) s

/-! ## Ending (R288) -/

/-- Discards what a group's strands have not released, and the strands. -/
def endGroup (s : State) (g : Group) : State :=
  let rel := fun (x : Sent) => match x.op with | .release _ _ => false | _ => true
  let dropLog := fun (s : State) =>
    let k := getCore s g.core
    setCore s g.core { k with olog := k.olog.filter fun e => e.grp != g.slot }
  let s := setGroup (dropLog s) { g with
    ops := g.ops.filter rel, left := []
    strands := g.strands.map fun t => { t with slog := [] } }
  let s := dropLog ((g.ops.map (·.sid)).eraseDups.foldl (fun s sid => drainOps s g.core g.slot sid g.ops.length) s)
  let s := match s.cur with
    | some (c, sl, _) => if c = g.core ∧ sl = g.slot then { s with cur := none } else s
    | none => s
  onGroup s g.core g.slot fun g => { g with strands := [], join := [], left := [], ended := true }

/-- Steps 1 to 3 of R288; the rest follows when its matrix operations have completed. -/
def endTeam (s : State) (uid : Nat) : State :=
  match getTeam s uid with
  | none => s
  | some tm =>
    if tm.ending then s
    else
      let s := (teamGroups s uid).foldl endGroup s
      let s := revoke s tm.cluster fun c => c.team == uid
      match getTeam s uid with
      | some tm => setTeam s { tm with ending := true, moving := false }
      | none => s

/-! ## Draining and saving (R97, R205, R290, R291) -/

/-- Matrix operations of a team's groups still in a queue. -/
def teamMops (s : State) (uid : Nat) : Bool :=
  (teamGroups s uid).any fun g => (getCore s g.core).mq.any fun m => m.grp == g.slot

/-- Operations that a team's strands have sent and that are not yet performed; those of TREE among them, which are performed in full
whatever happens to the strand (R354). -/
def teamOps (s : State) (uid : Nat) : Bool := (teamGroups s uid).any fun g => !g.ops.isEmpty

/-- Chains of a team that wait for a token end in error, for nobody can send one (R290). -/
def endTokenWaits (s : State) (tm : Team) : State :=
  (List.range 4).foldl (fun s j =>
    let n := 4 * tm.cluster + j
    (List.range 8).foldl (fun s i =>
      match mfind (getWalker s n).slots i with
      | some x => if x.cmd.team == tm.uid && x.phase == .token && x.cmd.tokens.isEmpty then errCmd s n i x 0x26 0 0 else s
      | none => s) s) s

/-- The bytes of an image (R291). -/
def imageBytes (s : State) (tm : Team) : Nat :=
  let gs := teamGroups s tm.uid
  let al := tm.cores.map fun c =>
    (((getCore s c).col.allocs.filter fun a => a.team == tm.uid && a.cls != .lap).map (·.size)).sum
  let lines := (gs.map fun g => (g.strands.map fun t => (linesOf t.slog).length).sum + (linesOf g.left).length +
    (g.join.map fun e => (linesOf e.slog).length).sum).sum
  4096 + (gs.map fun g => 4 * g.nregs * g.width + 2304).sum + (9 * al.sum + 7) / 8 + 4 * tm.accSize * tm.cores.length +
    80 * min lines 8192

/-- The lowest clear bit of a save area's bitmap, below a count. -/
def clearBit (m : List Host.Cell) (base n : Nat) : Option Nat :=
  (List.range n).find? fun i => !(memByte m (base + i / 8)).getLsbD (i % 8)

/-- Sets or clears a bit of the bitmap, with an atomic of the Carillon. -/
def putBit (s : State) (base i : Nat) (x : Bool) : State :=
  let a := base + i / 8
  storeMem (carUse s a) a 1 (setBit (memByte s.mem a) (i % 8) x).toNat

/-- The base of a team's save area, and the log2 of a slot's MiB (R280). -/
def saveBase (s : State) (tm : Team) : Nat := bits (ctxBlock s (tm.cluster / 8) tm.ctx.toNat).savebase.toNat 51 12 * 4096
def saveLg (s : State) (tm : Team) : Nat := min (bits (ctxBlock s (tm.cluster / 8) tm.ctx.toNat).savecfg.toNat 19 16) 9

/-- The address of a save slot (R291). -/
def slotAddr (s : State) (tm : Team) (i : Nat) : Nat := saveBase s tm + 8192 + i * (2 ^ saveLg s tm * 2 ^ 20)

/-- The save slot that an image takes, by number (R280, R291). -/
def saveSlot (s : State) (tm : Team) : Option Nat :=
  if imageBytes s tm ≤ 2 ^ saveLg s tm * 2 ^ 20 then
    clearBit s.mem (saveBase s tm) (min (bits (ctxBlock s (tm.cluster / 8) tm.ctx.toNat).savecfg.toNat 15 0) 65536)
  else none

/-- The bitmap and a slot of a save area are memory (R43, log entry 44, DEDUCED). -/
def saveOk (s : State) (tm : Team) (i : Nat) : Bool :=
  physOk s (saveBase s tm) 8192 && physOk s (slotAddr s tm i) (imageBytes s tm)

/-- The image of a team (R291, log entry 13, DESIGN CHOICE). -/
def imageOf (s : State) (tm : Team) (slot : Nat) : Image :=
  let col := fun c => (getCore s c).col
  let mine := fun c => (col c).allocs.filter fun a => a.team == tm.uid
  let inA := fun (c a : Nat) => (mine c).any fun x => decide (x.base ≤ a ∧ a < x.base + x.size) && x.cls != .lap
  { team := tm
    grps := teamGroups s tm.uid
    allocs := tm.cores.zipIdx.flatMap fun (c, i) => (mine c).map fun a => (i, a)
    bytes := tm.cores.zipIdx.map fun (c, i) => (i, mkeep (inA c) (col c).bytes)
    stamps := tm.cores.zipIdx.map fun (c, i) => (i, mkeep (fun x => inA c (64 * x)) (col c).stamps)
    acc := tm.cores.zipIdx.map fun (c, i) => (i,
      let base := mget 0 tm.accBases c
      ((getCore s c).acc.filter fun e => decide (base ≤ e.1 ∧ e.1 < base + tm.accSize)).map fun e => (e.1 - base, e.2))
    base := saveBase s tm
    slot := slot
    at_ := slotAddr s tm slot
    size := imageBytes s tm
    text := s.nextUid }

/-- The record of a moved team (R290): AGE + 1, its SEQ, and its image; conditions that held hold still. -/
def movedTask (tm : Team) (img : Image) (q unit : Nat) : Task :=
  let t : Task := { id := img.text, rcd := tm.rcd, seq := some tm.seq, q := q, unit := unit, held := 0xF, img := some img }
  withAge t (taskAge t + 1)

/-- The image is written to its slot. -/
def saveImage (s : State) (img : Image) : State :=
  { storeMem (putBit s img.base img.slot true) img.at_ img.size (Config.imageText img.text) with nextUid := s.nextUid + 1 }

/-- Saves one team and releases what it held: none where no slot takes its image. -/
def saveOne (s : State) (q unit : Nat) (tm : Team) : Option (State × Task) :=
  (saveSlot s tm).bind fun i =>
    if saveOk s tm i then
      let img := imageOf s tm i
      some (freeTeam (saveImage s img) tm, movedTask tm img q unit)
    else none

/-- Marks TEAMCMD done on the die of a team that it acted on (R286). -/
def cmdDone (s : State) (tm : Team) : State :=
  if tm.byCmd then setDie s (tm.cluster / 8) { (getDie s (tm.cluster / 8)) with tcDone := true } else s

/-- A team whose image fits nowhere stays stopped in place (R290); a save area that is no memory refuses it (R43). -/
def saveFailed (s : State) (tm : Team) : State :=
  let s := match saveSlot s tm with
    | some i => if saveOk s tm i then s else refused s tm.ctx.toNat 1 0 (slotAddr s tm i)
    | none => s
  let s := cmdDone (setTeam s { tm with moving := false, stopping := true, byCmd := false }) tm
  match teamGroups s tm.uid with
  | g :: _ => post s (.team tm.uid) 0x42 0 tm.ctx.toNat 0 (locStrand g.core g.slot 0) 0 0
  | [] => s

/-- The queue that a launch's CLASS names. -/
def classQ (s : State) (f slot : Nat) : Nat := match getLaunch s f slot with | some l => (lflag l 4).toNat | none => 0

/-- Re-queues a unit through its front end, which holds it where no room is left (R262, R290, log entry 28, DEDUCED). -/
def requeue (s : State) (f : Nat) (u : List Task) : State := (enqueueUnit s f u).getD (holdUnit s f u)

/-- The teams that are saved together: all of a cooperative launch, else the one (R296). -/
def savedWith (s : State) (tm : Team) : List Team :=
  match getLaunch s tm.fe tm.lslot with
  | some l => if lflag l 0 then (s.teams.map Prod.snd).filter fun x => x.fe == tm.fe && x.lslot == tm.lslot else [tm]
  | none => [tm]

/-- A unit belongs to a cooperative launch. -/
def unitCoop (s : State) (u : List Task) : Bool :=
  match u with
  | t :: _ => (match taskLaunch s t with | some l => lflag l 0 | none => false)
  | [] => false

/-- The clusters over which Place tries a unit for a cluster: all of the partition for a cooperative launch (R268). -/
def unitClusters (s : State) (cluster : Nat) (u : List Task) : List Nat :=
  if unitCoop s u then feClusters s (cownOf s cluster).part.toNat else [cluster]

/-- Removes a unit from a bank. -/
def dropUnit (s : State) (cluster u : Nat) : State :=
  let b := getBank s cluster
  setBank s cluster { b with tasks := b.tasks.filter fun t => t.unit != u }

/-- The unit for which YIELD gave up a team's place is placed (R269). -/
def placeYielded (s : State) (cluster : Nat) (y : Option Nat) : State :=
  match y with
  | none => s
  | some u =>
    let ts := (getBank s cluster).tasks.filter fun t => t.unit == u
    match placeUnit s (unitClusters s cluster ts) ts with
    | some s => dropUnit s cluster u
    | none => s

/-- TEAM_SAVE (R290, R291): the drain has ended; the images are saved, the resources released, the records re-queued. -/
def teamSave (s : State) (uid : Nat) : State :=
  match getTeam s uid with
  | none => s
  | some tm =>
    if !tm.moving then s
    else
      let l := savedWith s tm
      let s := l.foldl endTokenWaits s
      if !l.all (fun x => x.moving) || l.any (fun x => teamBusy s x.cluster x.uid || teamMops s x.uid || teamOps s x.uid) then s
      else
        let unit := s.nextUid
        let q := classQ s tm.fe tm.lslot
        let r := l.foldl (fun (r : Option (State × List Task)) x =>
          r.bind fun (s, ts) => (saveOne s q unit x).map fun (s, t) => (s, ts ++ [t])) (some ({ s with nextUid := s.nextUid + 1 }, []))
        match r with
        | none => l.foldl saveFailed s
        | some (s, ts) => placeYielded (l.foldl cmdDone (requeue s tm.fe ts)) tm.cluster tm.yieldTo

/-- TEAM_SAVE (R291). -/
def execTeamSave (team : Nat) (s : State) : Host.Outcome State Fault Refusal := .next (teamSave s team)

/-- Begins a move (R290): the restart of R289 on every strand; a cooperative launch moves whole (R296). -/
def moveTeam (s : State) (uid : Nat) (yieldTo : Option Nat) (byCmd : Bool) : State :=
  match getTeam s uid with
  | none => s
  | some tm =>
    (savedWith s tm).foldl (fun s x =>
      if x.moving || x.ending then s
      else
        let s := restartTeam s x.uid
        match getTeam s x.uid with
        | some y => setTeam s { y with
            moving := true, stopping := false, budgetStop := false
            yieldTo := if x.uid = uid then yieldTo else none, byCmd := byCmd && decide (x.uid = uid) }
        | none => s) s

/-! ## The end of a team (R239, R265, R288) -/

/-- A context's KILL is done on every die when none of its teams is still being ended (R280). -/
def killDone (s : State) (ctx : Nat) : State :=
  if s.teams.any fun e => e.2.ctx.toNat == ctx && e.2.ending then s
  else (List.range 4).foldl (fun s d =>
    let x := getDie s d
    let b := mget {} x.ctxs ctx
    if b.done then s else setDie s d { x with ctxs := mput x.ctxs ctx { b with done := true } }) s

/-- The completion scope of a launch: .sys where it has no completion counter (R230, R239). -/
def endScope (s : State) (f slot : Nat) : Nat :=
  match getLaunch s f slot with
  | some l => if lrec l 48 8 = 0 then 6 else lrec l 45 1
  | none => 6

/-- The release of an ended group: the stores of its strands are performed, and these and all that its strands have seen are published
(R232, R239). -/
def endRelease (s : State) (g : Group) (scope : Nat) : State :=
  let (s, g, w) := flush s g g.left g.seen
  setGroup (publishIn s (domainsOf g.core g.team g.idx scope) w) g

/-- Tiles that an ended team's lanes have sent stand before its end (R334, R335). -/
def tilesPending (s : State) (f slot : Nat) : Bool := (getFe s f).tiles.any fun t => t.lslot == slot

/-- TEAM_END_RELEASE (R239): every group has ended and everything the team sent has been performed; its stores are published,
its resources released. A team that the resident kernel ended publishes nothing (R288). -/
def teamEndRelease (s : State) (uid : Nat) : State :=
  match getTeam s uid with
  | none => s
  | some tm =>
    let gs := teamGroups s uid
    if !gs.all (·.ended) || teamBusy s tm.cluster uid || teamMops s uid || teamOps s uid then s
    else if !tm.ending && tilesPending s tm.fe tm.lslot then s
    else
      let loc := match gs with | g :: _ => locStrand g.core g.slot 0 | [] => 0
      let s := if tm.ending then s else gs.foldl (fun s g => endRelease s g (endScope s tm.fe tm.lslot)) s
      let s := freeTeam s tm
      let s := onLaunch s tm.fe tm.lslot fun l => { l with ntasks := l.ntasks - 1, noAdd := l.noAdd || tm.ending }
      if tm.ending then killDone (cmdDone (post s .device 0x45 0 tm.ctx.toNat 0 loc 0 0) tm) tm.ctx.toNat else s

/-- TEAM_END_RELEASE (R239). -/
def execTeamEndRelease (team : Nat) (s : State) : Host.Outcome State Fault Refusal := .next (teamEndRelease s team)

/-! ## TEAMCMD (R286) -/

/-- The core that TEAMCMD names. -/
def cmdCore (die cluster core : Nat) : Nat := 128 * (die % 4) + 16 * (cluster % 8) + core % 16

/-- The fields of TEAMCMD; a command that names no UNITS leaves them as they are (R6). -/
def cmdWord (cluster core grp op units : Nat) : Dword :=
  BitVec.ofNat 64 (cluster % 8 + 8 * (core % 16) + 2 ^ 7 * (grp % 1024) + 2 ^ 17 * (op % 8) + 2 ^ 20 * (units % 2 ^ 16))

/-- A GO of TEAMCMD (R286): refused with ERR where the slot holds no group; while an OP is in progress it sets the fields and no more (log
entry 35, DEDUCED). -/
def teamCmd (s : State) (die cluster core grp op : Nat) (units : Option Nat) (k : Team → State → State) : State :=
  let d := getDie s (die % 4)
  let d := { d with teamcmd := cmdWord cluster core grp op (units.getD (bits d.teamcmd.toNat 35 20)) }
  if !d.tcDone then setDie s (die % 4) d
  else
    let set := fun (err : Bool) (done : Bool) => setDie s (die % 4) { d with tcErr := err, tcDone := done }
    match getGroup s (cmdCore die cluster core) (grp % 1024) with
    | none => set true true
    | some g =>
      match getTeam s g.team with
      | none => set true true
      | some tm =>
        let later := op == 3 || (op == 2 && !tm.moving && !tm.ending)
        k tm (set false (!later))

/-- TEAM_RESUME (R286). -/
def execTeamResume (die cluster core grp : Nat) (s : State) : Host.Outcome State Fault Refusal :=
  .next (teamCmd s die cluster core grp 0 none fun tm s => resumeTeam s tm.uid)

/-- TEAM_RENEW (R286). -/
def execTeamRenew (die cluster core grp : Nat) (units : BitVec 16) (s : State) : Host.Outcome State Fault Refusal :=
  .next (teamCmd s die cluster core grp 1 (some units.toNat) fun tm s =>
    resumeTeam (setTeam s { tm with left := if units = 0 then none else some (65536 * units.toNat), budgetStop := false }) tm.uid)

/-- TEAM_MOVE (R290). -/
def execTeamMove (die cluster core grp : Nat) (s : State) : Host.Outcome State Fault Refusal :=
  .next (teamCmd s die cluster core grp 2 none fun tm s => moveTeam s tm.uid none true)

/-- TEAM_END (R288). -/
def execTeamEnd (die cluster core grp : Nat) (s : State) : Host.Outcome State Fault Refusal :=
  .next (teamCmd s die cluster core grp 3 none fun tm s => endTeam (setTeam s { tm with byCmd := true }) tm.uid)

/-- TEAM_RESTART (R289). -/
def execTeamRestart (die cluster core grp : Nat) (s : State) : Host.Outcome State Fault Refusal :=
  .next (teamCmd s die cluster core grp 4 none fun tm s =>
    restartTeam (if tm.moving then s else setTeam s { tm with stopping := false }) tm.uid)

/-- TEAMCMD_RESERVED_OP (R286): the fields are kept, ERR is set. -/
def execTeamcmdReservedOp (die : Nat) (val : BitVec 64) (s : State) : Host.Outcome State Fault Refusal :=
  let d := { (getDie s (die % 4)) with teamcmd := val &&& 0xFFFFFFFFF }
  .next (setDie s (die % 4) (if d.tcDone then { d with tcErr := true } else d))

/-! ## Contexts (R280, R288) -/

/-- Changes a context's block on every die. -/
def onCtxBlocks (s : State) (ctx : Nat) (f : CtxBlock → CtxBlock) : State :=
  (List.range 4).foldl (fun s d =>
    let x := getDie s d
    setDie s d { x with ctxs := mput x.ctxs ctx (f (mget {} x.ctxs ctx)) }) s

/-- CONTEXT_STOP (R280). -/
def execContextStop (ctx : BitVec 8) (stop : Bool) (s : State) : Host.Outcome State Fault Refusal :=
  .next (onCtxBlocks s ctx.toNat fun b => { b with stop := stop })

/-- Gives back the save slots of records that leave. -/
def dropImages (s : State) (l : List Task) : State :=
  l.foldl (fun s t => match t.img with | some i => putBit s i.base i.slot false | none => s) s

/-- Removes a context's records from every bank and overflow ring. -/
def killBanks (s : State) (mine : Task → Bool) : State :=
  (s.banks.map Prod.fst).foldl (fun s c =>
    let b := getBank s c
    let s := dropImages s ((b.tasks ++ b.ringMeta).filter mine)
    let ring := b.ringMeta.filter fun t => !mine t
    let b := { b with tasks := b.tasks.filter fun t => !mine t }
    if ring.length = b.ringMeta.length then setBank s c b else setRing s c b ring) s

/-- Removes a context's staged and held records and faults its unplaced launches. -/
def killFe (ctx : Nat) (mine : Task → Bool) (s : State) (f : Nat) : State :=
  let fe := getFe s f
  let ours := fun (x : Launch) => (if x.rcd = 0 then x.asid.toNat else lctx x) == ctx
  let slotOurs := fun i => match mfind fe.slots i with | some l => ours l | none => false
  let s := dropImages s (fe.held.filter mine)
  let dead := fe.slots.filter fun e => ours e.2 && e.2.resident == 0
  let wait := match fe.tiles with | t :: _ => if slotOurs t.lslot then none else fe.tileWait | [] => none
  let s := setFe s f { fe with
    staging := fe.staging.filter fun r => !slotOurs (tfield r 0 2 % 2048)
    held := fe.held.filter fun t => !mine t
    queue := fe.queue.filter fun i => !slotOurs i
    tiles := fe.tiles.filter fun t => !slotOurs t.lslot
    tileWait := wait
    slots := (fe.slots.filter fun e => !(ours e.2 && e.2.resident == 0)).map fun e =>
      if ours e.2 then (e.1, { e.2 with ntasks := e.2.resident, noAdd := true, phase := .faulted }) else e }
  dead.foldl (fun s e => postLaunch s .device f e.1 e.2 0x45) s

/-- CONTEXT_KILL (R288). -/
def contextKill (s : State) (ctx : Nat) : State :=
  if !(ctxBlock s 0 ctx).done then s
  else
    let mine := fun t => match taskLaunch s t with | some l => lctx l == ctx | none => false
    let s := onCtxBlocks s ctx fun b => { b with done := false }
    let s := killBanks s mine
    let s := (s.fes.map Prod.fst).foldl (killFe ctx mine) s
    let s := (s.teams.filter fun e => e.2.ctx.toNat == ctx).foldl (fun s e => endTeam s e.1) s
    killDone s ctx

/-- CONTEXT_KILL (R288). -/
def execContextKill (ctx : BitVec 8) (s : State) : Host.Outcome State Fault Refusal := .next (contextKill s ctx.toNat)

/-! ## The budget trap (R269) -/

/-- The wait that a strand keeps when its team's budget stops it: one that its instruction has begun (log entry 35, DEDUCED). -/
def keptWait (st : Status) : Option Wait :=
  match st with
  | .parked (.retry b) => if b.fence then some (.retry b) else none
  | .parked (.fetch _) => none
  | .parked w => some w
  | _ => none

/-- Stops a strand for its team's budget: cause 17, EPC the next instruction, no record of its own. -/
def budgetStopped (t : Strand) : Strand :=
  match t.status with
  | .running _ => t
  | .stopped _ _ => t
  | st => { t with
      cause := 17, epc := t.pc, value := 0, fpc := t.pc, kept := keptWait st, status := .stopped 17 none, slot := false }

/-- BUDGET_EXHAUSTED (R269): strands in no run stop; when the last run has ended, the team takes its one trap. -/
def budgetExhausted (s : State) (uid : Nat) : State :=
  match getTeam s uid with
  | none => s
  | some tm =>
    if !tm.budgetStop then s
    else
      let s := (teamGroups s uid).foldl (fun s g => setGroup s { g with strands := g.strands.map budgetStopped }) s
      let gs := teamGroups s uid
      if gs.any fun g => g.strands.any fun t => match t.status with | .running _ => true | _ => false then s
      else
        let s := setTeam s { tm with budgetStop := false }
        match gs.foldl (fun (b : Option Group) g => match b with
            | none => some g
            | some x => if g.idx < x.idx then some g else some x) none with
        | some g => post s (.team uid) 0x40 0 tm.ctx.toNat 0 (locStrand g.core g.slot 0) 0
            (((g.strands.head?).map fun t => t.fpc.toNat).getD 0)
        | none => s

/-- BUDGET_EXHAUSTED (R269). -/
def execBudgetExhausted (team : Nat) (s : State) : Host.Outcome State Fault Refusal := .next (budgetExhausted s team)

end Sys2Proof.Machine
end

