-- ==== Sys2Proof/Machine/Sched.lean ====
section
/-! DEFINITION. Arrival conditions (R263), the dispatcher's pass (R266, R267), LAUNCH (R259), TSPAWN (R270) and YIELD (R269). -/

namespace Sys2Proof.Machine

/-! ## Conditions (R263) -/

/-- Translation by a front end or a dispatcher, which keep no translation cache (R55, R56, log entry 29, DEDUCED). -/
def feTr (s : State) (ctx : Nat) (a : Acc) (align va : Nat) (wr : Bool) : Tr := (translate s 700 0 ctx a align va wr).1

/-- Changes a record of a bank. -/
def onTask (s : State) (cluster id : Nat) (f : Task → Task) : State :=
  let b := getBank s cluster
  setBank s cluster { b with tasks := b.tasks.map fun t => if t.id = id then f t else t }

/-- A record faults with launch fault 0x35: it is never placed, and its launch never completes (R263, log entry 28, DEDUCED). -/
def condFault (s : State) (cluster : Nat) (t : Task) (l : Launch) : State :=
  postLaunch (onTask s cluster t.id fun t => { t with faulted := true }) (.task t.id) (taskFe t) (taskSlot t) l 0x35

/-- Tests one condition of one record of a bank. -/
def testOne (cluster cond : Nat) (s : State) (t : Task) : State :=
  match taskLaunch s t with
  | none => s
  | some l =>
    let (a, target) := taskCond s t cond
    if 4 ≤ cond ∨ a = 0 ∨ t.faulted ∨ t.held.getLsbD cond ∨ t.wait.contains (a / 4096) ∨ waiting s (.task t.id) then s
    else if a % 8 ≠ 0 then condFault s cluster t l
    else
      match feTr s (lctx l) .sync 8 a false with
      | .ok pa _ _ =>
        if !kindOk s pa .counter then condFault s cluster t l
        else if target ≤ unitRead s pa 8 then
          let s := onTask s cluster t.id fun t => { t with held := t.held ||| (1#4 <<< cond) }
          askPass s cluster
        else s
      | .code code =>
        if retryable code then
          onTask (post s (.task t.id) code 2 (lctx l) 0 (locFe (taskFe t)) a (launchNum (taskFe t) (taskSlot t))) cluster t.id fun t =>
            { t with wait := (a / 4096) :: t.wait }
        else condFault s cluster t l

/-- CONDITION_TEST (R263): one condition of the records of a bank that hold a SEQ; records that were moved to it keep theirs (R294), so that
there may be several. -/
def conditionTest (s : State) (cluster seq cond : Nat) : State :=
  ((getBank s cluster).tasks.filter fun t => t.seq == some seq).foldl (testOne cluster cond) s

/-- CONDITION_TEST (R263). -/
def execConditionTest (cluster seq cond : Nat) (s : State) : Host.Outcome State Fault Refusal :=
  .next (conditionTest s cluster seq cond)

/-! ## The pass (R266, R267) -/

/-- The deadline of a unit after ageing (R266), under a bank's QAGE. -/
def unitEdl (b : Bank) (u : List Task) : Nat :=
  match u with
  | t :: _ => taskDeadline t - taskAge t * bits b.qage.toNat 15 0 * 1024
  | [] => 0

/-- The key (EDL, SEQ) of a unit: that of its own bank, which serves in every pass (R268). -/
def unitKey (s : State) (x : Nat × List Task) : Nat × Nat := (unitEdl (getBank s x.1) x.2, unitSeq x.2)

/-- A smaller key comes first. -/
def keyLess (x y : Nat × Nat) : Bool := decide (x.1 < y.1) || (x.1 == y.1 && decide (x.2 < y.2))

/-- Inserts a unit, with the cluster of its bank, in key order. -/
def insertKey (s : State) (x : Nat × List Task) : List (Nat × List Task) → List (Nat × List Task)
  | [] => [x]
  | y :: t => if keyLess (unitKey s x) (unitKey s y) then x :: y :: t else y :: insertKey s x t

/-- A unit can be placed: each record ready, its launch live and its context not stopped (R263, R280). -/
def unitReady (s : State) (cluster : Nat) (u : List Task) : Bool :=
  u.all fun t => taskReady s t && match taskLaunch s t with
    | some l => l.phase != .faulted && !(ctxBlock s (cluster / 8) (lctx l)).stop
    | none => false

/-- The ready units of a queue that take part in a cluster's pass, in key order: those of its bank, and the cooperative
launches of its partition (R268). -/
def passUnits (s : State) (cluster q : Nat) : List (Nat × List Task) :=
  let part := (cownOf s cluster).part.toNat
  let all := s.banks.flatMap fun e => (unitsOf e.2.tasks).map fun u => (e.1, u)
  let mine := all.filter fun x =>
    (x.1 == cluster || (unitCoop s x.2 && x.2.any fun t => taskFe t == part)) && x.2.any (fun t => t.q == q) &&
      unitReady s cluster x.2
  mine.foldl (fun r x => insertKey s x r) []

/-- The state of a pass: units that have failed, as bank and unit, and whether one of them holds the cluster. -/
structure Pass where
  s : State
  failed : List (Nat × Nat) := []
  hold : Bool := false

/-- AGE of a unit rises by 1 (R266). -/
def ageUnit (s : State) (x : Nat × Nat) : State :=
  let b := getBank s x.1
  setBank s x.1 { b with tasks := b.tasks.map fun t => if t.unit = x.2 then { (withAge t (taskAge t + 1)) with err := none } else t }

/-- The check code of an image holds: its bytes are those that were written, with no uncorrectable error among them (R291, R292). -/
def imageWhole (s : State) (i : Image) : Bool × State :=
  let (bad, s) := errReadMem s i.at_ i.size (i.team.cores.headD 0) i.team.ctx.toNat
  (!bad && memRead s.mem i.at_ i.size == Config.imageText i.text % 2 ^ (8 * i.size), s)

/-- A restored team whose image fails its check is ended (R292). -/
def checkImages (s : State) (u : List Task) : State :=
  u.foldl (fun s t => match t.img with
    | some i =>
      match imageWhole s i with
      | (true, s) => s
      | (false, s) =>
        endTeam (match teamGroups s i.team.uid with
          | g :: _ => post s .device 0x43 0 g.ctx.toNat 0 (locStrand g.core g.slot 0) 0 0
          | [] => s) i.team.uid
    | none => s) s

/-- What follows a successful Place: the records leave the bank, and save slots are given back (R291). -/
def placedUnit (s : State) (bank : Nat) (u : List Task) : State := dropImages (checkImages (dropUnit s bank (unitId u)) u) u

/-- A bounds launch, and any launch one of whose records is lost, places nothing more and never completes (R303, R334). -/
def boundsFault (s : State) (who : Party) (f slot : Nat) (l : Launch) (code : Nat) : State :=
  let mine := fun (t : Task) => taskFe t == f && taskSlot t == slot
  let s := killBanks s mine
  let fe := getFe s f
  let head := match fe.tiles with | t :: _ => t.lslot == slot | [] => false
  let s := setFe s f { fe with
    held := fe.held.filter fun t => !mine t
    tiles := fe.tiles.filter fun t => t.lslot != slot
    tileWait := if head then none else fe.tileWait }
  postLaunch (setLaunch s f slot { l with phase := .faulted, noAdd := true, ntasks := l.resident }) who f slot l code

/-- The record of a bank that is lost to an uncorrectable error: launch fault 0x36 (R303, log entry 21, DEDUCED). -/
def recordLost (s : State) (t : Task) : State :=
  match taskLaunch s t with
  | none => s
  | some l => boundsFault (post s .device 0x50 2 (lctx l) 0 (locFe (taskFe t)) 0 (launchNum (taskFe t) (taskSlot t))) .device
      (taskFe t) (taskSlot t) l 0x36

/-- The dispatcher reads a unit's records, and with them the errors that an injection has left in them (R302, R305): one bit is corrected,
two lose the record. -/
def readRecords (s : State) (x : Nat × List Task) : Bool × State :=
  x.2.foldl (fun (r : Bool × State) t =>
    match t.err with
    | none => r
    | some u =>
      let i := (getBank r.2 x.1).tasks.findIdx fun y => y.id == t.id
      let s := errLog r.2 2 x.1 u (taskCtx r.2 t) 0 i (16 * x.1)
      if u then (true, recordLost s t) else (r.1, s)) (false, s)

/-- Tries one unit (R267), where the pass has not lost it. -/
def passUnit (cluster : Nat) (p : Pass) (x : Nat × List Task) : Pass :=
  if p.hold || !((getBank p.s x.1).tasks.any fun t => t.unit == unitId x.2) then p
  else
    match readRecords p.s x with
    | (true, s) => { p with s := s }
    | (false, s) =>
      match placeUnit s (unitClusters s cluster x.2) x.2 with
      | some s => { s := p.failed.foldl ageUnit (placedUnit s x.1 x.2) }
      | none =>
        let h := bits (getBank s cluster).qage.toNat 23 16
        let age := match x.2 with | t :: _ => taskAge t | [] => 0
        { s := s, failed := p.failed ++ [(x.1, unitId x.2)], hold := unitCoop s x.2 || decide ((if h = 0 then 1 else h) ≤ age) }

/-- One pass of a cluster's dispatcher (R267): queue 0, then queue 1. -/
def passGo (s : State) (cluster : Nat) : State :=
  let p := (passUnits s cluster 0).foldl (passUnit cluster) { s := s }
  ((passUnits p.s cluster 1).foldl (passUnit cluster) p).s

/-- DISPATCH_PASS (R267): where something has happened that calls for a pass. The events of one tick share the pass at its end (log entry
28, DEDUCED). -/
def dispatchPass (s : State) (cluster : Nat) : State :=
  let b := getBank s cluster
  if b.pass then passGo (setBank s cluster { b with pass := false }) cluster else s

/-- DISPATCH_PASS (R267). -/
def execDispatchPass (cluster : Nat) (s : State) : Host.Outcome State Fault Refusal := .next (dispatchPass s cluster)

/-! ## LAUNCH (R259) -/

/-- The lowest free launch slot of a front end. -/
def freeLaunchSlot (s : State) (f : Nat) : Option Nat := (List.range 2048).find? fun i => (getLaunch s f i).isNone

/-- Accepts a launch: the number it receives (R256, R259). -/
def acceptLaunch (s : State) (f slot : Nat) (l : Launch) : State :=
  let fe := getFe s f
  setFe s f { fe with queue := fe.queue ++ [slot], slots := mput fe.slots slot l }

/-- LAUNCH (R259). -/
def bodyLaunch (f : GA) (s : State) (c : Ctx) : Done :=
  let v := readJ c.g f.a.toNat
  let d := f.d.toNat
  let fe := ctxPart s (dieOf c.core) c.g.ctx.toNat
  if v.extractLsb' 0 8 ≠ 0 ∨ v.extractLsb' 57 7 ≠ 0 then .ok s (refuse c d 1)
  else if 64 ≤ (getFe s fe).queue.length ∨ feClusters s fe = [] then .ok s (refuse c d 4)
  else
    match freeLaunchSlot s fe with
    | none => .ok s (refuse c d 6)
    | some slot =>
      .ok (acceptLaunch s fe slot { asid := c.g.ctx, va := v, by_ := some (c.core, c.g.team, c.g.idx), seen := c.st.vis }) (newRegion (writeKq c d (BitVec.ofNat 32 (launchNum fe slot)) true))

/-- LAUNCH (R259). -/
def execLaunch (f : GA) (s : State) : Host.Outcome State Fault Refusal := runInstr (.launch f) (afterOps (bodyLaunch f)) s

/-! ## TSPAWN (R270) -/

/-- The stream that a launch number names for a context: none where it is unknown, not a stream, or closed (log entry 28, DEDUCED). -/
def streamOf (s : State) (ctx : BitVec 8) (id : Nat) : Option Launch :=
  match if id < 65536 then getLaunch s (id / 2048) (id % 2048) else none with
  | none => none
  | some l =>
    let known := match l.phase with | .queued => false | .waiting _ _ _ => decide (l.rcd ≠ 0) | .faulted => false | _ => true
    if known && lctx l == ctx.toNat && lflag l 3 && decide (l.eos < lrec l 42 2) then some l else none

/-- A spawned record as the front end takes it (R262, R270). -/
def spawned (id : Nat) (l : Launch) (r : BitVec 512) : BitVec 512 :=
  let r := setTfield (setTfield r 0 2 id) 6 2 (lrec l 40 2)
  if tfield r 8 8 = 0 then setTfield r 8 8 (deadlineOf (lrec l 32 8)) else r

/-- LREF, AGE and BUDGET of a spawned record are zero (R270). -/
def spawnOk (r : BitVec 512) : Bool := tfield r 0 2 == 0 && tfield r 5 1 == 0 && tfield r 6 2 == 0

/-- What TSPAWN does once its records are read: EOS counts after them (R270). -/
def spawnGo (f : GA) (id : Nat) (l : Launch) (rs : List (BitVec 512)) (s : State) (c : Ctx) : Done :=
  let fe := getFe s (id / 2048)
  let n := rs.length
  if !rs.all spawnOk then .ok s (refuse c f.d.toNat 3)
  else if 4096 < stagedCount fe + n then .ok s (refuse c f.d.toNat 7)
  else
    let l' := { l with ntasks := l.ntasks + n, eos := if f.x.getLsbD 0 then l.eos + 1 else l.eos }
    let s := setFe s (id / 2048) { fe with
      staging := fe.staging ++ rs.map (spawned id l), slots := mput fe.slots (id % 2048) l' }
    .ok s (newRegion (writeKq c f.d.toNat (BitVec.ofNat 32 n) true))

/-- TSPAWN (R270). -/
def bodyTspawn (f : GA) (s : State) (c : Ctx) : Done :=
  let d := f.d.toNat
  let a := (readK c.g f.b.toNat).toNat
  let id := (readK c.g f.a.toNat).toNat
  if a = 0xFFFFFFFF ∧ !f.x.getLsbD 0 then .ok s (refuse c d 1)
  else
    match streamOf s c.g.ctx id with
    | none => .ok s (refuse c d 8)
    | some l =>
      if a = 0xFFFFFFFF then spawnGo f id l [] s c
      else if bits a 31 25 ≠ 0 ∨ colBytes ≤ a ∨ a % 64 ≠ 0 then .ok s (refuse c d 1)
      else
        let n := (lanesOf c.st.mask).length
        recordRead (64 * n) a (fun v s c =>
          spawnGo f id l ((List.range n).map fun i => BitVec.ofNat 512 (v / 2 ^ (512 * i))) s c) s c

/-- TSPAWN (R270). -/
def execTspawn (f : GA) (s : State) : Host.Outcome State Fault Refusal := runInstr (.tspawn f) (afterOps (bodyTspawn f)) s

/-- TSPAWN.EOS (R270). -/
def execTspawnEos (f : GA) (s : State) : Host.Outcome State Fault Refusal := runInstr (.tspawnEos f) (afterOps (bodyTspawn f)) s

/-! ## YIELD (R269) -/

/-- The first ready unit of the bank that has a key before the team's own, fails Place now, and would succeed with the
team's resources free. -/
def yieldUnit (s : State) (tm : Team) : Option Nat :=
  let l := passUnits s tm.cluster 0 ++ passUnits s tm.cluster 1
  let l := (l.filter fun x => x.1 == tm.cluster).foldl (fun r x => insertKey s x r) []
  (l.find? fun x =>
    let on := unitClusters s tm.cluster x.2
    keyLess (unitKey s x) (tfield tm.rcd 8 8, tm.seq) && (placeUnit s on x.2).isNone &&
      (placeUnit (freeTeam s tm) on x.2).isSome).map fun x => unitId x.2

/-- YIELD (R269): the budget is renewed; the team gives up its place only for such a unit. -/
def bodyYield (s : State) (c : Ctx) : Done :=
  match getTeam s c.g.team with
  | none => .ok s (newRegion c)
  | some tm =>
    let n := tfield tm.rcd 6 2
    let tm := { tm with left := if n = 0 then none else some (65536 * n), budgetStop := false }
    let s := setTeam s tm
    let c := newRegion c
    match yieldUnit (putCtx s c) tm with
    | none => .ok s c
    | some u =>
      let (s, c) := endRun s c
      .gone (moveTeam (putCtx s c) tm.uid (some u) false)

/-- YIELD (R269). -/
def execYield (f : GA) (s : State) : Host.Outcome State Fault Refusal := runInstr (.yield f) (afterOps fun s c => bodyYield s c) s

end Sys2Proof.Machine
end

