-- ==== Sys2Proof/Machine/Launch.lean ====
section
/-! DEFINITION. The front ends (R256–R265): the steps of a launch, range lists and page moves (R65–R70), completion, and the
open-tile list of bounds launches (R334, R335). -/

namespace Sys2Proof.Machine

/-! ## The launch record (R257, R321) -/

/-- FP32 finite. -/
def f32Fin (x : Nat) : Bool := !(fdec fp32 x).isOdd

/-- FP32 positive, finite and normal. -/
def f32PosNormal (x : Nat) : Bool := f32Fin x && decide (x < 2 ^ 31) && bits x 30 23 != 0

/-- The bounds fields (R321). -/
def boundsOk (l : Launch) : Bool :=
  let be := lrec l 232 1
  let n := fun (x : Nat) => decide (1 ≤ x ∧ x ≤ 2 ^ 20) && x % 2 ^ be == 0
  f32Fin (lrec l 208 4) && f32Fin (lrec l 212 4) && f32PosNormal (lrec l 216 4) && f32PosNormal (lrec l 220 4) &&
    decide (be ≤ 15) && n (lrec l 224 4) && n (lrec l 228 4) && decide (lrec l 233 1 ≤ min be 4) &&
    decide (4 ≤ lrec l 234 1 ∧ lrec l 234 1 ≤ 32) && lrec l 235 5 == 0 && lrec l 240 8 % 64 == 0 &&
    decide (lrec l 240 8 < 2 ^ 57) && lrec l 248 8 == 0 && lrec l 10 1 == 1 && decide (8 ≤ lrec l 9 1) &&
    !lflag l 0 && !lflag l 1 && !lflag l 3 && lrec l 24 2 == 0 && lrec l 26 1 == 0 &&
    (List.range 4).all fun i => condBase l i == 0

/-- Static entry `i` keeps the limits of R257, its class and lifetime apart. -/
def statOk (l : Launch) (i : Nat) : Bool :=
  if i < lrec l 27 1 then
    decide (1 ≤ statBytes l i ∧ statBytes l i ≤ 0x1800000) && bits (lrec l (84 + 8 * i) 2) 15 2 == 0
  else lrec l (80 + 8 * i) 8 == 0

/-- The fields of R257: launch fault 0x31 where one breaks it. No launch runs under 0xFF (R54). -/
def recordOk (s : State) (l : Launch) : Bool :=
  let teams := lrec l 12 4 * lrec l 16 4 * lrec l 20 4
  let zero := lrec l 12 4 == 0 && lrec l 16 4 == 0 && lrec l 20 4 == 0
  let done := lrec l 48 8
  let ds := lrec l 45 1
  lrec l 0 8 % 4 == 0 && decide (lrec l 0 8 < 2 ^ 57) && decide (lrec l 8 1 < 3) &&
    decide (1 ≤ lrec l 9 1 ∧ lrec l 9 1 ≤ 96) && decide (1 ≤ lrec l 10 1 ∧ lrec l 10 1 ≤ 32) && decide (lrec l 11 1 < 32) &&
    decide (teams ≤ 2 ^ 24) && (!(lflag l 3 || lflag l 2) || zero) && decide (lrec l 24 2 ≠ 1 ∧ lrec l 24 2 ≤ 256) &&
    decide (lrec l 26 1 ≤ 8) && decide (lrec l 27 1 ≤ 8) && decide (lrec l 28 4 ≤ 262144) &&
    (lflag l 3 == (lrec l 42 2 != 0)) && lctx l != 0xFF &&
    (lctx l == l.asid.toNat || ctxPriv s 0 l.asid.toNat) &&
    (if done = 0 then ds == 0 else decide (2 ≤ ds ∧ ds ≤ 6) && lrec l 56 4 != 0) && done % 8 == 0 &&
    decide (lrec l 46 2 ≤ 64) && lrec l 60 4 == 0 && lrec l 64 8 % 32 == 0 && (List.range 8).all (statOk l) &&
    (List.range 4).all (fun i => condStride l i % 8 == 0 && decide (condTarget l i < 2 ^ 42)) &&
    (if lflag l 2 then boundsOk l else lrec l 208 48 == 0)

/-- Step 2 of R258: the static allocations' classes and lifetimes (R107, R114). -/
def staticsOk (l : Launch) : Bool :=
  (List.range (lrec l 27 1)).all fun i => statCls l i != 3 && lifeOk (statCls l i) (statLife l i)

/-! ## Faults and waits of a launch (R258) -/

/-- Takes a launch out of the queue of its front end. -/
def leaveQueue (s : State) (f slot : Nat) : State :=
  let fe := getFe s f
  setFe s f { fe with queue := fe.queue.filter (· != slot), rlist := [], rpos := 0, rva := 0 }

/-- Frees a launch slot. -/
def freeSlotOf (s : State) (f slot : Nat) : State :=
  let fe := getFe s f
  setFe s f { fe with slots := mdel fe.slots slot }

/-- A launch fault before any team has been enqueued: the launch ends (R258). -/
def launchFault (s : State) (f slot : Nat) (l : Launch) (code : Nat) : State :=
  postLaunch (freeSlotOf (leaveQueue s f slot) f slot) (.fe f) f slot l code

/-- A retryable code at step 1 or 3: the launch waits for the page (R258). -/
def launchWait (s : State) (f slot : Nat) (l : Launch) (step ctx code va : Nat) : State :=
  setLaunch (post s (.fe f) code 2 ctx 0 (locFe f) va (launchNum f slot)) f slot { l with phase := .waiting ctx (va / 4096) step }

/-! ## Steps 1 to 3 -/

/-- One entry of a range list: first byte, end, disposition (R65), or none. -/
def rangeOf (v : Nat) : Option (Nat × Nat × Nat) :=
  let base := v % 2 ^ 64
  let len := v / 2 ^ 64 % 2 ^ 64
  let disp := v / 2 ^ 128
  if base % 4096 = 0 ∧ base < 2 ^ 57 ∧ len % 4096 = 0 ∧ disp < 3 then some (base, base + len, disp) else none

/-- Reads a range list from entry `i` on: the ranges, a fault, or a page to wait for. -/
def readRanges (s : State) (ctx addr : Nat) : Nat → List (Nat × Nat × Nat) ⊕ Option (Nat × Nat)
  | 0 => .inl []
  | n + 1 =>
    match feTr s ctx (.load 32) 32 addr false with
    | .code code => .inr (if retryable code then some (code, addr) else none)
    | .ok pa _ _ =>
      match rangeOf (memRead s.mem pa 32), readRanges s ctx (addr + 32) n with
      | some r, .inl l => .inl (r :: l)
      | some _, .inr e => .inr e
      | none, _ => .inr none

/-- Step 3 of R258: the list is read; its pages follow one by one. -/
def launchRanges (s : State) (f slot : Nat) (l : Launch) : State :=
  match readRanges s (lctx l) (lrec l 64 8) (lrec l 46 2) with
  | .inl rs =>
    let s := setLaunch s f slot { l with phase := .ranges }
    setFe s f { (getFe s f) with rlist := rs, rpos := 0, rva := match rs with | r :: _ => r.1 | [] => 0 }
  | .inr (some (code, va)) => launchWait s f slot l 3 (lctx l) code va
  | .inr none => launchFault s f slot l 0x33

/-- Steps 1 and 2 once the record has been read (R258). A record that breaks R257 has no context of its own yet, so its fault goes
to the launching context (log entry 28, DEDUCED). -/
def launchChecks (s : State) (f slot : Nat) (l : Launch) : State :=
  if !recordOk s l then launchFault s f slot { l with rcd := 0 } 0x31
  else
    let go := fun (_ : Unit) => if staticsOk l then launchRanges s f slot l else launchFault s f slot l 0x32
    if lrec l 48 8 = 0 then go ()
    else
      match feTr s (lctx l) .sync 8 (lrec l 48 8) true with
      | .ok _ _ _ => go ()
      | .code code =>
        if retryable code then launchWait s f slot l 1 (lctx l) code (lrec l 48 8)
        else launchFault s f slot l (if code = 6 then 0x31 else 0x30)

/-- Step 1 of R258: the record is read from memory as it stands (R257). -/
def launchRead (s : State) (f slot : Nat) (l : Launch) : State :=
  match feTr s l.asid.toNat (.load 256) 256 l.va.toNat false with
  | .code code =>
    if retryable code then launchWait s f slot l 1 l.asid.toNat code l.va.toNat else launchFault s f slot l 0x30
  | .ok pa _ _ => launchChecks s f slot { l with rcd := BitVec.ofNat 2048 (memRead s.mem pa 256) }

/-! ## Steps 4 to 6 -/

/-- Teams of a launch. -/
def teamCount (l : Launch) : Nat := lrec l 12 4 * lrec l 16 4 * lrec l 20 4

/-- Lanes of a group. -/
def laneCount (l : Launch) : Nat := 16 * 2 ^ (lrec l 8 1 % 4)

/-- Initial tiles of a bounds launch (R322). -/
def tileCount (l : Launch) : Nat := lrec l 224 4 / 2 ^ lrec l 232 1 * (lrec l 228 4 / 2 ^ lrec l 232 1)

/-- A bounds task (R335): first, count, source, form. -/
def boundsRecord (f slot : Nat) (l : Launch) (first count src : Nat) (pt : Bool) : BitVec 512 :=
  BitVec.ofNat 512 (recHead f slot 0 l + 2 ^ 128 * first + 2 ^ 192 * count + 2 ^ 208 * src + 2 ^ 216 * pt.toNat)

/-- A record as enqueued: the `i`th of its unit. -/
def taskOf (l : Launch) (unit i : Nat) (r : BitVec 512) : Task := { id := unit + i, rcd := r, q := (lflag l 4).toNat, unit := unit }

/-- The unit that begins at task `i` of a launch (R262, R268, R322): empty past the last. -/
def unitAt (f slot : Nat) (l : Launch) (unit i : Nat) : List Task :=
  if lflag l 2 then
    let w := laneCount l
    let n := min w (tileCount l - w * i)
    if n = 0 then [] else [taskOf l unit 0 (boundsRecord f slot l (w * i) n 0 false)]
  else
    let size := if lflag l 0 then teamCount l else max 1 (lrec l 24 2)
    (List.range (min size (teamCount l - i))).map fun j => taskOf l unit j (teamRecord f slot (i + j) l)

/-- Enqueues units until none is left or no room is found (R262, R264): true when all have been enqueued. -/
def enqueueAll (f slot : Nat) : Nat → State → Bool × State
  | 0, s => (true, s)
  | n + 1, s =>
    match getLaunch s f slot with
    | none => (true, s)
    | some l =>
      match unitAt f slot l s.nextUid l.next with
      | [] => (true, s)
      | u =>
        match enqueueUnit { s with nextUid := s.nextUid + u.length } f u with
        | none => (false, s)
        | some s =>
          enqueueAll f slot n (onLaunch s f slot fun l => { l with next := l.next + u.length, ntasks := l.ntasks + u.length })

/-- A partition with every resource free, for the test of step 5. -/
def emptied (s : State) (f : Nat) : State :=
  let cl := feClusters s f
  { s with
    groups := s.groups.filter fun e => !cl.contains (e.1 / 16384)
    teams := s.teams.filter fun e => !cl.contains e.2.cluster
    cores := mmap (fun n k => if cl.contains (n / 16) then { k with col := {}, acc := [] } else k) s.cores
    fes := mmap (fun _ x => { x with slots := mmap (fun _ l => { l with lines := [] }) x.slots }) s.fes }

/-- Step 5 of R258: a cooperative launch fits in the empty partition, whatever keeps its clusters from taking tasks now. -/
def coopFits (s : State) (f slot : Nat) (l : Launch) : Bool :=
  (placeAll (fun s c t => (taskLaunch s t).bind fun l => placeAt s c l t) (emptied s f) (feClusters s f) (unitAt f slot l 0 0)).isSome

/-- Steps 4 to 6 of R258. -/
def launchEnqueue (s : State) (f slot : Nat) (l : Launch) : State :=
  let active := fun (s : State) => leaveQueue (onLaunch s f slot fun l => { l with phase := .active }) f slot
  if waiting s (.fe f) then s
  else if lflag l 3 ∨ (teamCount l = 0 ∧ !lflag l 2) then active s
  else if l.phase = .ranges ∧ lflag l 0 ∧ !coopFits s f slot l then launchFault s f slot l 0x34
  else
    match enqueueAll f slot (teamCount l + tileCount l + 1) (setLaunch s f slot { l with phase := .enqueue }) with
    | (true, s) => active s
    | (false, s) => s

/-- LAUNCH_PROCESS (R258): the launch at the head of the queue goes on. -/
def launchProcess (s : State) (f : Nat) : State :=
  let s := drainHeld s f
  let fe := getFe s f
  match fe.queue with
  | [] => s
  | slot :: _ =>
    match getLaunch s f slot with
    | none => leaveQueue s f slot
    | some l =>
      if waiting s (.fe f) then s
      else
      match l.phase with
      | .queued => launchRead s f slot l
      | .resumed => launchRanges s f slot l
      | .ranges => if fe.job.isSome ∨ fe.rpos < fe.rlist.length then s else launchEnqueue s f slot l
      | .enqueue => launchEnqueue s f slot l
      | _ => s

/-- LAUNCH_PROCESS (R258). -/
def execLaunchProcess (fe : Nat) (s : State) : Host.Outcome State Fault Refusal := .next (launchProcess s fe)

/-! ## Rings of frames (R67, R261) -/

/-- The address of ring header `h` of a front end. -/
def ringHdr (s : State) (f h : Nat) : Nat := bits (getFe s f).fertab.toNat 51 12 * 4096 + 32 * h

/-- Draws a frame, or none from an empty ring: one whose header or entries are no memory gives none (log entry 44, DEDUCED). The bytes
12–15 of the header and the bits [11:0] and [63:52] of the entry, which R261 gives as zero, are ignored (log entry 29, DESIGN CHOICE). -/
def drawFrame (s : State) (f h : Nat) : Option (Nat × State) :=
  let a := ringHdr s f h
  let head := memRead s.mem (a + 16) 8
  let size := memRead s.mem (a + 8) 4
  let at_ := memRead s.mem a 8 + 8 * (head % size)
  if head = memRead s.mem (a + 24) 8 ∨ size = 0 ∨ !physOk s a 32 ∨ !physOk s at_ 8 then none
  else some (bits (memRead s.mem at_ 8) 51 12 * 4096, storeMem s (a + 16) 8 (head + 1))

/-- Appends a frame to the release ring; none when it is full. -/
def releaseFrame (s : State) (f frame size : Nat) : Option State :=
  let a := ringHdr s f 72
  let n := memRead s.mem (a + 8) 4
  let head := memRead s.mem (a + 16) 8
  let tail := memRead s.mem (a + 24) 8
  let at_ := memRead s.mem a 8 + 8 * (tail % n)
  if n = 0 ∨ n ≤ (tail + 2 ^ 64 - head) % 2 ^ 64 ∨ !physOk s a 32 ∨ !physOk s at_ 8 then none
  else some (storeMem (storeMem s at_ 8 (frame + size)) (a + 24) 8 (tail + 1))

/-! ## Waiters for a page (R285) -/

/-- Who waits on a page: context, page and code. -/
abbrev PageSel := Nat → Nat → Nat → Bool

/-- Marks the log entries of a core that wait on a page, in place (R285). -/
def wakeLog (p : PageSel) (s : State) (core : Nat) : State :=
  let k := getCore s core
  let f := fun (e : LogEntry) =>
    match getGroup s core e.grp with
    | some g => if retryable e.code && (entryPages e).any (fun x => p g.ctx.toNat x e.code) then { e with go := true } else e
    | none => e
  if k.olog.isEmpty then s else setCore s core { k with olog := k.olog.map f }

/-- Marks the walker slots that wait on a page. -/
def wakeSlots (p : PageSel) (w : Walker) : Walker :=
  { w with slots := mmap (fun _ x => match x.wait with
    | some (page, code) => if p x.cmd.ctx.toNat page code then { x with go := true } else x
    | none => x) w.slots }

/-- A tree operation that waits for a page goes on. -/
def wakeOp (p : PageSel) (ctx : Nat) (o : MemOp) : MemOp :=
  match o with
  | .tree f d pc pend ls (some (page, code)) back =>
    .tree f d pc pend ls (if p ctx page code then none else some (page, code)) back
  | o => o

/-- The operations that a group has sent. -/
def wakeOps (p : PageSel) (g : Group) : Group := { g with ops := g.ops.map fun x => { x with op := wakeOp p g.ctx.toNat x.op } }

/-- Background frees of the tree engines. -/
def wakeJob (p : PageSel) (j : TreeJob) : TreeJob :=
  match j.held with
  | some (page, code) => if p j.asid.toNat page code then { j with held := none } else j
  | none => j

/-- Those of a die. -/
def wakeJobs (p : PageSel) (d : Die) : Die := { d with treeFree := d.treeFree.map (wakeJob p) }

/-- The order of pages for a move that rewrites an entry: those of code 0x12 (R69). -/
def movedSel (asid va lg : Nat) : PageSel := fun c page code => code == 0x12 && c == asid && page / 2 ^ (lg - 12) == va / 2 ^ lg

/-- What waits with code 0x12 on a page whose entry has been rewritten goes on, an append of the tree engine too (R69, R285, R349). -/
def wakeMoved (s : State) (asid va lg : Nat) : State :=
  let p := movedSel asid va lg
  let s := (s.cores.map Prod.fst).foldl (wakeLog p) s
  { s with
    walkers := mmap (fun _ w => wakeSlots p w) s.walkers
    groups := mmap (fun _ g => wakeOps p g) s.groups
    dies := mmap (fun _ d => wakeJobs p d) s.dies }

/-! ## Moving a page (R66–R69) -/

/-- An invalidation names a page (R62). -/
def invNames (asid : BitVec 8) (scope : BitVec 2) (va : Nat) (a : Nat) (page lg : Nat) : Bool :=
  scope == 2 || (a == asid.toNat && (scope == 1 || page / 2 ^ lg == va / 2 ^ lg))

/-- Starts an invalidation: every unit drops the entries it names, so that an access translated from now on uses the walk,
and accesses translated up to now have still to be performed (R62). -/
def startInval (s : State) (die : Nat) (asid : BitVec 8) (scope : BitVec 2) (va : Nat) : State :=
  { s with
    tlbs := mmap (fun _ l => l.filter fun t => !invNames asid scope va t.asid.toNat t.page t.lg) s.tlbs
    invs := s.invs ++ [⟨die, asid, scope, BitVec.ofNat 64 va, s.epoch⟩]
    epoch := s.epoch + 1 }

/-- The ring that a move draws from (R67, R261): disposition, destination die, page size and selector. -/
def ringFor (disp die lg hsel : Nat) : Nat :=
  match disp with
  | 1 => (if lg = 12 then 0 else 32) + 8 * die + hsel
  | 2 => 64 + hsel
  | _ => (if lg = 12 then 73 else 105) + 8 * die + hsel

/-- The entry of a moved page: HSEL, W, X and CLASS kept; a replica has W = 0 (R66). -/
def movedEntry (j : Job) : Nat :=
  let e := j.ent
  let flags := bits e 3 0 - (if j.disp = 2 ∧ peW e then 4 else 0)
  flags + 16 * (if j.disp = 3 then 1 else 0) + 64 * peClass e + 256 * peHsel e + (if j.disp = 2 then 2048 else 0) + j.frame

/-- Loads a page's translation into the caches of cores (R66, R70). -/
def mapPage (s : State) (cores : List Nat) (asid va e lg : Nat) : State := cores.foldl (fun s c => tlbFill s c asid va e lg) s

/-- The cores of a front end's partition. -/
def feCores (s : State) (f : Nat) : List Nat := (feClusters s f).flatMap fun g => (List.range 16).map (16 * g + ·)

/-- Step 1 of R68 on a page, with the frame drawn: what happens where it is treated as map, and where a move begins. -/
def beginMove (s : State) (f asid va e lg ent disp die : Nat) (mapped : State → State) : State :=
  if peMig e then mapped s
  else
    match drawFrame s f (ringFor disp die lg (peHsel e)) with
    | none => mapped (post s (.fe f) 0x13 2 asid 0 (locFe f) va 0)
    | some (frame, s) =>
      let s := storeMem s ent 8 (e + 2 ^ 52)
      setFe s f { (getFe s f) with job := some ⟨BitVec.ofNat 8 asid, va, lg, disp, 1, e, ent, frame, false, false⟩ }

/-- Step 3 of R68: the page is copied, for a replica into the Tier H of all four dies (R66), and its beats are counted for the context. -/
def pageCopies (s : State) (j : Job) : State :=
  let n := 2 ^ j.lg
  (if j.disp = 2 then (List.range 4).map fun d => j.frame + d * 0x2000000000 else [j.frame]).foldl (fun s dst =>
    countPage (copyFrame s (peFrame j.ent) dst n) j.asid.toNat true dst n) (countPage s j.asid.toNat false (peFrame j.ent) n)

/-- The steps of R68 after the first. What has met MIG = 1 goes on when the new entry is written, and again when the last stale copy of the
old one is gone (R69). -/
def moveStep (s : State) (f : Nat) (j : Job) : State :=
  let put := fun (s : State) (j : Job) => setFe s f { (getFe s f) with job := some j }
  if j.inv ∨ j.full then s
  else
    match j.step with
    | 1 => put (startInval s (4 + f) j.asid 0 j.va) { j with step := 2, inv := true }
    | 2 => put (pageCopies s j) { j with step := 3 }
    | 3 => put (wakeMoved (storeMem s j.entPa 8 (movedEntry j)) j.asid.toNat j.va j.lg) { j with step := 4 }
    | 4 => put (startInval s (4 + f) j.asid 0 j.va) { j with step := 5, inv := true }
    | n =>
      let s := if n = 5 then wakeMoved s j.asid.toNat j.va j.lg else s
      match releaseFrame s f (peFrame j.ent) (if peRepl j.ent then 2 else if j.lg = 12 then 0 else 1) with
      | some s => setFe s f { (getFe s f) with job := none }
      | none => put s { j with step := 6, full := true }

/-- RELEASE_RING_ROOM (R261): a front end that waits before step 6 finds room. -/
def releaseRingRoom (s : State) (f : Nat) : State :=
  match (getFe s f).job with
  | some j => if j.full then moveStep s f { j with full := false } else s
  | none => s

/-- RELEASE_RING_ROOM (R261). -/
def execReleaseRingRoom (fe : Nat) (s : State) : Host.Outcome State Fault Refusal := .next (releaseRingRoom s fe)

/-- The entry of a page by a walk: entry, log2 of the size, where it stands (R59). A page whose walk ends in a code is none: V = 0 leaves
it to fault when it is used (R66, R70), and the terminal codes do as well (log entry 29, DESIGN CHOICE). -/
def pageEntry (s : State) (asid va : Nat) : Option (Nat × Nat × Nat) × State :=
  match ctxEntry s 0 asid with
  | none => (none, s)
  | some ce => match walk s 0 asid ce.root va with
    | (.leaf e lg ent, s) => (some (e, lg, ent), s)
    | (.code _, s) => (none, s)

/-- A page that every disposition treats as map (R66). -/
def onlyMap (e lg : Nat) : Bool := lg == 35 || peTier e == 2 || peClass e != 0

/-- The die of a Tier H frame. -/
def tierHDie (pa : Nat) : Option Nat := match place pa with | .tierH d _ => some d | _ => none

/-- The die of a Tier L frame. -/
def tierLDie (pa : Nat) : Option Nat := match place pa with | .tierL d _ => some d | _ => none

/-- Advances a launch to the page at `va`, or to its next range. -/
def nextPage (s : State) (f va : Nat) : State :=
  let fe := getFe s f
  match fe.rlist[fe.rpos]? with
  | none => s
  | some (_, stop, _) =>
    if va < stop then setFe s f { fe with rva := va }
    else setFe s f { fe with
      rpos := fe.rpos + 1, rva := match fe.rlist[fe.rpos + 1]? with | some (b, _, _) => b | none => 0 }

/-- One page of the ranges of the launch in progress (R66). A range that runs past the virtual space ends with it (log entry 29,
DEDUCED). -/
def rangePage (s : State) (f slot : Nat) (l : Launch) : State :=
  let fe := getFe s f
  match fe.rlist[fe.rpos]? with
  | none => s
  | some (_, stop, disp) =>
    let va := fe.rva
    if min stop (2 ^ 57) ≤ va then nextPage s f (max va stop)
    else
      match pageEntry s (lctx l) va with
      | (none, s) => nextPage s f (va + 4096)
      | (some (e, lg, ent), s) =>
        let page := va / 2 ^ lg * 2 ^ lg
        let s := nextPage s f (page + 2 ^ lg)
        let seen := (fe.rlist.take fe.rpos).any fun r => decide (r.1 < r.2.1 ∧ r.1 < page + 2 ^ lg ∧ page < r.2.1)
        let mapped := fun s => mapPage s (feCores s f) (lctx l) page e lg
        let dies := ((feClusters s f).map (· / 8)).eraseDups
        if seen then s
        else if disp = 0 ∨ onlyMap e lg then mapped s
        else if disp = 1 then
          if (tierHDie (peFrame e)).any dies.contains ∨ dies = [] then s
          else
            let s' := beginMove s f (lctx l) page e lg ent 1 (dies.getD (l.moved % dies.length) 0) mapped
            if (getFe s' f).job.isSome then onLaunch s' f slot fun l => { l with moved := l.moved + 1 } else s'
        else beginMove s f (lctx l) page e lg ent 2 0 mapped

/-- PAGE_MOVE (R68): the next step of the page in progress, else the next page of the launch at the head of the queue. -/
def pageMove (s : State) (f : Nat) : State :=
  let fe := getFe s f
  if waiting s (.fe f) then s
  else
    match fe.job with
    | some j => moveStep s f j
    | none =>
      match fe.queue with
      | [] => s
      | slot :: _ =>
        match getLaunch s f slot with
        | some l => if l.phase = .ranges then rangePage s f slot l else s
        | none => s

/-- PAGE_MOVE (R68). -/
def execPageMove (fe : Nat) (s : State) : Host.Outcome State Fault Refusal := .next (pageMove s fe)

/-! ## Hints (R70) -/

/-- Advances the oldest hint of a core; a finished one is gone. -/
def nextHintPage (s : State) (core va : Nat) : State :=
  let k := getCore s core
  match k.hints with
  | [] => s
  | h :: t =>
    if va < h.va + h.len then setCore s core { k with hints := { h with pos := va - h.va } :: t }
    else setCore s core { k with hints := t }

/-- MHINT_REQUEST (R70): one page of the oldest hint of a core. As under R66, a page whose frame lies in the Tier H that code 0 asks for is
left where it lies, a replicated one as well (log entry 29, DEDUCED). -/
def mhintRequest (s : State) (core : Nat) : State :=
  match (getCore s core).hints with
  | [] => s
  | h :: _ =>
    let f := ctxPart s (dieOf core) h.asid.toNat
    let va := h.va + h.pos
    if (getFe s f).job.isSome ∨ waiting s (.fe f) then s
    else if h.len ≤ h.pos ∨ 2 ^ 57 ≤ va then nextHintPage s core (h.va + h.len)
    else
      match pageEntry s h.asid.toNat va with
      | (none, s) => nextHintPage s core (va + 4096)
      | (some (e, lg, ent), s) =>
        let page := va / 2 ^ lg * 2 ^ lg
        let s := nextHintPage s core (page + 2 ^ lg)
        let start := fun disp => beginMove s f h.asid.toNat page e lg ent disp (dieOf core) id
        if h.code = 3 then mapPage s [core] h.asid.toNat page e lg
        else if onlyMap e lg then s
        else if h.code = 0 then (if tierHDie (peFrame e) = some (dieOf core) then s else start 1)
        else if h.code = 1 then start 2
        else if tierLDie (peFrame e) = some (dieOf core) then s
        else start 3

/-- MHINT_REQUEST (R70). -/
def execMhintRequest (core : Nat) (s : State) : Host.Outcome State Fault Refusal := .next (mhintRequest s core)

/-! ## Completion (R265) -/

/-- Whether the condition for a launch's kind holds. -/
def launchOver (s : State) (f slot : Nat) (l : Launch) : Bool :=
  l.ntasks == 0 && l.resident == 0 &&
    if lflag l 3 then decide (lrec l 42 2 ≤ l.eos) || l.noAdd
    else if lflag l 2 then decide (l.list.length ≤ l.child) && !tilesPending s f slot
    else true

/-- The completion release of a front end (R265): it publishes what the launching strand had seen and the list of a bounds launch (R334).
A launch of the resident kernel has no narrower domain than .dev (log entry 5, DEDUCED). -/
def launchRelease (s : State) (f slot : Nat) (l : Launch) : State :=
  let n := endScope s f slot
  publishIn s (match l.by_ with | some (c, t, i) => domainsOf c t i n | none => (domainsOf 0 0 0 n).drop 4) l.seen

/-- LAUNCH_COMPLETION (R265): the completion add, then the slot is free. -/
def launchCompletion (s : State) (f slot : Nat) : State :=
  match getLaunch s f slot with
  | none => s
  | some l =>
    let free := fun s => freeSlotOf s f slot
    if waiting s (.fe f) then s
    else if l.phase = .faulted then (if l.resident = 0 then free s else s)
    else if l.phase ≠ .active ∨ l.addWait.isSome ∨ !launchOver s f slot l then s
    else
      let s := launchRelease s f slot l
      let done := lrec l 48 8
      let drop := fun (s : State) (code : Nat) => free (post s (.fe f) code 2 (lctx l) 1 (locFe f) done (launchNum f slot))
      if l.noAdd ∨ done = 0 then free s
      else
        match feTr s (lctx l) .sync 8 done true with
        | .code code =>
          if retryable code then
            setLaunch (post s (.fe f) code 2 (lctx l) 1 (locFe f) done (launchNum f slot)) f slot { l with addWait := some (done / 4096) }
          else drop s code
        | .ok pa _ _ =>
          if !kindOk s pa .counter then drop s 9
          else
            match unitBad (carUse s pa) pa 8 0 (lctx l) with
            | (true, s) => drop s 0x50
            | (false, s) => free (counterAdd (countLines (countLines s (lctx l) false [pa]) (lctx l) true [pa]) pa (lrec l 56 4))

/-- LAUNCH_COMPLETION (R265). -/
def execLaunchCompletion (fe lslot : Nat) (s : State) : Host.Outcome State Fault Refusal := .next (launchCompletion s fe lslot)

/-! ## Bounds launches (R334, R335) -/

/-- An entry of the open-tile list (R334). -/
def entryOf (t : TileMsg) : Nat := t.ix + 2 ^ 20 * t.iy + 2 ^ 40 * t.el + (if t.point then 2 ^ 44 else 0)

/-- BOUNDS_TILE_APPEND (R334): the oldest tile goes to index COUNT, then COUNT advances; a tile of a launch that has faulted is dropped. -/
def tileAppend (s : State) (f : Nat) : State :=
  let fe := getFe s f
  match fe.tiles with
  | [] => s
  | t :: rest =>
    let pop := fun (s : State) => setFe s f { (getFe s f) with tiles := rest }
    match getLaunch s f t.lslot with
    | none => pop s
    | some l =>
      if l.phase = .faulted then pop s
      else if fe.tileWait.isSome ∨ waiting s (.fe f) then s
      else
        let hdr := lrec l 240 8
        let stop := fun (code va : Nat) =>
          if retryable code then
            let s := post s (.fe f) code 2 (lctx l) 1 (locFe f) va (launchNum f t.lslot)
            setFe s f { (getFe s f) with tileWait := some (va / 4096) }
          else boundsFault s (.fe f) f t.lslot l 0x30
        match feTr s (lctx l) .store 8 hdr true with
        | .code code => stop code hdr
        | .ok pa _ _ =>
          let n := memRead s.mem pa 8
          if 2 ^ lrec l 234 1 ≤ n then boundsFault s (.fe f) f t.lslot l 0x37
          else
            match feTr s (lctx l) .store 8 (hdr + 64 + 8 * n) true with
            | .code code => stop code (hdr + 64 + 8 * n)
            | .ok pe _ _ =>
              let s' := storeMem (storeMem s pe 8 (entryOf t)) pa 8 (n + 1)
              onLaunch (pop s') f t.lslot fun l =>
                { l with list := l.list ++ [entryOf t], seen := seenJoin l.seen (seenSince s' s.hist.length) }

/-- BOUNDS_TILE_APPEND (R334). -/
def execBoundsTileAppend (fe : Nat) (s : State) : Host.Outcome State Fault Refusal := .next (tileAppend s fe)

/-- Children from a place in the list on, of entries of one form, up to `w`: their number, and whether an entry of the
other form follows (R335). -/
def pendingChildren (pt : Bool) (w : Nat) : List Nat → Nat → Nat → Nat × Bool
  | [], _, n => (n, false)
  | e :: t, j, n =>
    if w ≤ n then (w, false)
    else if entPt e != pt then (n, true)
    else pendingChildren pt w t 0 (n + (childCount e - j))

/-- The place after `n` children. -/
def skipChildren : List Nat → Nat → Nat → Nat → Nat × Nat
  | [], i, j, _ => (i, j)
  | e :: t, i, j, n => if n < childCount e - j then (i, j + n) else skipChildren t (i + 1) 0 (n - (childCount e - j))

/-- BOUNDS_TASK_ISSUE (R335): a task of children, when one is to be issued; every tile that has been sent is appended before the launch is
taken to have no task left. -/
def taskIssue (s : State) (f slot : Nat) : State :=
  match getLaunch s f slot with
  | none => s
  | some l =>
    let todo := l.list.drop l.child
    match todo with
    | [] => s
    | e :: _ =>
      let w := laneCount l
      let (n, other) := pendingChildren (entPt e) w todo l.childIx 0
      let n := min n w
      if l.phase ≠ .active ∨ n = 0 ∨ waiting s (.fe f) ∨ !(n == w || other || (l.ntasks == 0 && !tilesPending s f slot)) then s
      else
        let r := boundsRecord f slot l (l.child + 2 ^ 40 * l.childIx) n 1 (entPt e)
        match enqueueUnit { s with nextUid := s.nextUid + 1 } f [taskOf l s.nextUid 0 r] with
        | none => s
        | some s =>
          let (i, j) := skipChildren todo l.child l.childIx n
          onLaunch s f slot fun l => { l with child := i, childIx := j, ntasks := l.ntasks + 1 }

/-- BOUNDS_TASK_ISSUE (R335). -/
def execBoundsTaskIssue (fe lslot : Nat) (s : State) : Host.Outcome State Fault Refusal := .next (taskIssue s fe lslot)

end Sys2Proof.Machine
end

