-- ==== Sys2Proof/Machine/Runs.lean ====
section
/-! DEFINITION. What happens to strands between their instructions: slots and arbitration (R241, R271), results (R131), deliveries
that were delayed (R275), releases, acquires and Carillon operations as they are performed (R210, R221, R230), the ends of
waits (R218, R372), decks (R116), fetches, walks, and the replay of the operand log (R75, R385). -/

namespace Sys2Proof.Machine

/-! ## Ready strands (R131, R241) -/

/-- A result or matrix operation that the instruction waits for has been lost: it issues again and meets the loss (R303). -/
def lostFor (s : State) (g : Group) (t : Strand) (b : Block) : Bool :=
  (g.pend.any fun p => p.bad.isSome && pendHits p t.mask b.vregs b.kregs b.q7) ||
    (b.mmDone && (lostMop g t.mask).isSome && mopsOf (getCore s g.core) g.slot t.mask == 0)

/-- A strand whose parked instruction may be issued again rejoins arbitration (R131). -/
def rejoin (s : State) (g : Group) (t : Strand) : Strand :=
  match t.status with
  | .parked (.retry b) => if unblocked s g t b || lostFor s g t b then { t with status := .ready } else t
  | _ => t

/-- The older of two strands (R253, R271). -/
def older (a b : Group × Strand) : Bool :=
  if a.1.age ≠ b.1.age then decide (a.1.age < b.1.age)
  else if a.2.rank / 64 = b.2.rank / 64 ∧ a.2.rank ≠ b.2.rank then decide (a.2.rank < b.2.rank)
  else decide (lowest a.2.mask < lowest b.2.mask)

/-- The first of a list by an order. -/
def firstBy {α : Type} (lt : α → α → Bool) : List α → Option α
  | [] => none
  | x :: t => match firstBy lt t with
    | some y => some (if lt y x then y else x)
    | none => some x

/-- Gives free slots of a group to its oldest ready strands, by fuel (R241, log entry 41, DEDUCED). -/
def fillSlots : Nat → Group → Group
  | 0, g => g
  | n + 1, g =>
    if 16 ≤ g.strands.countP (·.slot) then g
    else
      match firstBy (fun a b => older (g, a) (g, b)) (g.strands.filter fun t => t.status == .ready && !t.slot) with
      | none => g
      | some t => fillSlots n (setStrand g { t with slot := true })

/-- Rejoining strands and slots of a group. -/
def readied (s : State) (g : Group) : Group := fillSlots 16 { g with strands := g.strands.map (rejoin s g) }

/-- A release among the operations that a strand has sent. -/
def MemOp.isRelease : MemOp → Bool
  | .release _ _ => true
  | _ => false

/-- Whether an acquire of the strand may be performed: the Carillon operations that it, or its lanes before a split or a merge, has sent
have been performed and have returned (R221, R230), and its log is empty (R74). Only PHASE puts the acquire after the strand's own
releases (`after`). -/
def canAcquire (s : State) (g : Group) (t : Strand) (after : Bool) : Bool :=
  !(g.ops.any fun x => (x.sid == t.sid || x.op.lanes &&& t.mask != 0) && (after || !x.op.isRelease)) &&
    !(g.pend.any fun p => p.car && p.lanes &&& t.mask != 0) && (logOf (getCore s g.core) g.slot t.sid).isEmpty

/-- The compute dies answer: powered, not held in reset (R364, R367, R369, log entry 32, DEDUCED). In minimal mode, in P4 and after a trip
they are held. -/
def diesUp (s : State) : Bool :=
  s.powered && s.mg.state != 4 && s.mg.state != 7 && s.mg.mode != 2 && s.mg.mode != 3

/-- The module lets strands issue: the dies are up, in P0 to P2, in no transition (R364). -/
def issuing (s : State) : Bool := diesUp s && decide (s.mg.state ≤ 2) && !s.mg.busy

/-- A strand that can win arbitration (R116, R241, R269, R280): neither it nor its team waits with a record (R283). -/
def eligible (s : State) (g : Group) (t : Strand) : Bool :=
  t.status == .ready && t.slot && t.deck == 1 && (!t.acqNext || canAcquire s g t false) &&
    !waiting s (.strand g.core g.slot t.sid) && !waiting s (.team g.team) &&
    !(ctxBlock s (dieOf g.core) g.ctx.toNat).stop &&
    match getTeam s g.team with
    | some tm => !(tm.stopping || tm.moving || tm.ending || tm.budgetStop)
    | none => false

/-! ## Arbitration (R271) -/

/-- The weight of a context on a core's die. -/
def weightOf (s : State) (core c : Nat) : Nat := (mget 1 (getDie s (dieOf core)).weights c).toNat

/-- The first of some contexts with dc > 0, searching from the one after `ptr`. -/
def firstCtx (dc : AMap Int) (cs : List Nat) (ptr : Nat) : Option Nat :=
  ((List.range 256).map fun i => (ptr + 1 + i) % 256).find? fun x => cs.contains x && decide (0 < mget 0 dc x)

/-- The rounds of refilling until some context has dc > 0. -/
def refillRounds (w : Nat → Nat) (dc : AMap Int) (cs : List Nat) : Nat :=
  cs.foldl (fun m x => min m ((-(mget 0 dc x)).toNat / w x + 1)) 32769

/-- Refills the counters of contexts, none of which has dc > 0. -/
def refill (w : Nat → Nat) (dc : AMap Int) (cs : List Nat) : AMap Int :=
  let n := refillRounds w dc cs
  cs.foldl (fun m x => mput m x (min (mget 0 dc x + (n : Int) * (w x : Int)) (w x : Int))) dc

/-- The context that a port chooses, with its counters after. -/
def chooseCtx (w : Nat → Nat) (q : Port) (cs : List Nat) : Option (Nat × AMap Int) :=
  match firstCtx q.dc cs q.ptr with
  | some c => some (c, q.dc)
  | none => (firstCtx (refill w q.dc cs) cs q.ptr).map fun c => (c, refill w q.dc cs)

/-- The task DEADLINE of a group's team. -/
def groupDeadline (s : State) (g : Group) : Nat := match getTeam s g.team with | some t => tfield t.rcd 8 8 | none => 0

/-- Earlier in the choice among ready strands of one context. -/
def sooner (s : State) (a b : Group × Strand) : Bool :=
  let x := groupDeadline s a.1
  let y := groupDeadline s b.1
  decide (x < y) || (x == y && older a b)

/-- The groups of a core. -/
def coreGroups (s : State) (core : Nat) : List Group := (s.groups.filter fun e => e.1 / 1024 == core).map Prod.snd

/-- The acquire that follows a restart comes before the first reissued instruction (R289). -/
def acquireFirst (s : State) (g : Group) (t : Strand) : State × Strand :=
  if t.acqNext then acquireSt s g 6 { t with acqNext := false } else (s, t)

/-- The strands of a core that can win arbitration. -/
def candidates (s : State) (core : Nat) : List (Group × Strand) :=
  (coreGroups s core).flatMap fun g => (g.strands.filter (eligible s g)).map fun t => (g, t)

/-- A strand runs on a port. -/
def onPort (s : State) (core port : Nat) : Bool :=
  (coreGroups s core).any fun g => g.strands.any fun t => t.status == .running port

/-- The cycle in which a port can arbitrate next: it is free, a strand is ready, and the core has issued and arbitrated in no later
one. -/
def arbCycle (s : State) (core port : Nat) : Option Nat :=
  if onPort s core port then none
  else
    match (candidates s core).map fun x => x.2.cyc with
    | [] => none
    | x :: t => some (max (max (mget {} (getCore s core).ports port).at_ (nowCycle s core)) (t.foldl min x))

/-- Cycle `a` belongs to the current tick (R3). -/
def inTick (s : State) (a : Nat) : Bool := decide (10 * a < s.clk + cyclesTen s.mg.state)

/-- The strands that run on a core and have no record to wait with: the cycle before which none of them issues, slot and number. -/
def runners (s : State) (core : Nat) : List (Nat × Nat × Nat) :=
  (coreGroups s core).flatMap fun g => g.strands.filterMap fun t => match t.status with
    | .running _ => if waiting s (.strand core g.slot t.sid) then none else some (max t.cyc t.due, g.slot, t.sid)
    | _ => none

/-- A strand may issue before cycle `a`. -/
def issuesBefore (s : State) (core a : Nat) : Bool := (runners s core).any fun x => decide (x.1 < a)

/-- It is a port's turn to arbitrate in cycle `a`: the free ports of a core choose in order of their cycles, and in one cycle in ascending
number (R271); what issues in an earlier cycle has issued. -/
def arbTurn (s : State) (core port a : Nat) : Bool :=
  inTick s a && !issuesBefore s core a &&
    (List.range 4).all fun p => match arbCycle s core p with
      | some b => decide (a < b) || (a == b && decide (port ≤ p))
      | none => true

/-- A strand that a port has chosen in cycle `a` (R129, R168): its run starts in the next, with the port's units. -/
def chosen (q : Port) (port a : Nat) (t : Strand) : Strand :=
  { t with status := .running port, cyc := a + 1, due := 0, sb := mput (mput t.sb 227 q.fp64) 228 q.sfu }

/-- A port of a core picks in cycle `a` among the strands that are ready then: a context, then a strand of it (R271). -/
def pick (s : State) (core port a : Nat) : State :=
  let cands := (candidates s core).filter fun x => decide (x.2.cyc ≤ a)
  let k := getCore s core
  let q : Port := mget {} k.ports port
  match chooseCtx (weightOf s core) q ((cands.map fun x => x.1.ctx.toNat).eraseDups) with
  | none => s
  | some (c, dc) =>
    match firstBy (sooner s) (cands.filter fun x => x.1.ctx.toNat == c) with
    | none => s
    | some (g, t) =>
      let s := setCore s core { k with front := a, ports := mput k.ports port { q with dc := dc, ptr := c } }
      let (s, t) := acquireFirst s g t
      { setGroup s (setStrand g (chosen q port a t)) with cur := some (core, g.slot, t.sid) }

/-- The strands of a core whose waits have ended are ready, and those that may have a slot. -/
def readyCore (s : State) (core : Nat) : State := (coreGroups s core).foldl (fun s g => setGroup s (readied s g)) s

/-- PORT_ARBITRATION (R271): a free port picks a context, then a strand, and its run starts. -/
def arbitrate (s : State) (core port : Nat) : State :=
  let s := readyCore s core
  match arbCycle s core port with
  | some a => if issuing s && decide (port < 4) && arbTurn s core port a then pick s core port a else s
  | none => s

/-- PORT_ARBITRATION (R271). -/
def execPortArbitration (core port : Nat) (s : State) : Host.Outcome State Fault Refusal := .next (arbitrate s core port)

/-! ## Results (R131) -/

/-- The uniform registers that an event writes for a strand take its values at once (R126, log entry 8, DEDUCED). -/
def landed (s : State) (core sid : Nat) (g : Group) : Group := uLand sid (nowCycle s core - 1) g

/-- The strand of a group that a result's lanes belong to. -/
def sidOf (g : Group) (lanes : Dword) : Nat :=
  match g.strands.find? fun t => t.mask &&& lanes != 0 with
  | some t => t.sid
  | none => 0

/-- RESULT_RETURN (R131): a result that has its values is written and is no longer pending. -/
def resultReturn (s : State) (core slot id : Nat) : State :=
  if waiting s (.pend core slot id) then s
  else onGroup s core slot fun g =>
    match g.pend.find? fun p => p.id == id with
    | some p => if p.filled && p.bad.isNone then dropPend (landed s core (sidOf g p.lanes) (applyPend g p)) id else g
    | none => g

/-- RESULT_RETURN (R131). -/
def execResultReturn (core slot id : Nat) (s : State) : Host.Outcome State Fault Refusal := .next (resultReturn s core slot id)

/-! ## Waits that end -/

/-- Acts on a strand that is in no run, leaving the run in progress as it is. -/
def offRun (s : State) (f : State → State) : State := { f s with cur := s.cur }

/-- Acts on a parked strand by its wait; one that waits with a record goes on with nothing (R283). -/
def onWait (s : State) (core slot sid : Nat) (f : Ctx → Wait → State) : State :=
  if waiting s (.strand core slot sid) then s
  else
    match ctxAt s core slot sid with
    | none => s
    | some c => match c.st.status with
      | .parked w => f c w
      | _ => s

/-- The strand is ready. -/
def readySt (c : Ctx) : Ctx := { c with st := { c.st with status := .ready } }

/-- TRAP_DELIVERY (R40, R275): a delivery whose table read was delayed is made once FRRESUME has named the page, and one that waited for
what the strand had issued once that has completed its effects. -/
def trapDelivery (s : State) (core slot sid : Nat) : State :=
  onWait s core slot sid fun c w => match w with
    | .delivery cause sub value epc _ true => offRun s fun s => takeTrap s (readySt c) cause sub value epc
    | .settle cause word => if settled s c.g c.st then offRun s fun s => trapWord s (readySt c) cause 0 word else s
    | _ => s

/-- TRAP_DELIVERY (R275). -/
def execTrapDelivery (core slot sid : Nat) (s : State) : Host.Outcome State Fault Refusal := .next (trapDelivery s core slot sid)

/-- The next operation of a strand is performed, where it is as asked and the strand waits with no record (R283). -/
def performAs (s : State) (core slot sid : Nat) (f : MemOp → Bool) : State :=
  if waiting s (.strand core slot sid) then s else performNext s core slot sid f

/-- RELEASE_PERFORMED (R230): the next operation of the strand is a release, and is performed. -/
def execReleasePerformed (core slot sid : Nat) (s : State) : Host.Outcome State Fault Refusal :=
  .next (performAs s core slot sid MemOp.isRelease)

/-- CARILLON_OPERATION (R210): the next operation of the strand is an atomic, counter or pair operation, and is performed at
its home. -/
def execCarillonOperation (core slot sid : Nat) (s : State) : Host.Outcome State Fault Refusal :=
  .next (performAs s core slot sid fun o => !o.isRelease)

/-- ACQUIRE_PERFORMED (R221): the snapshot of a new phase is taken and the strand rejoins arbitration. -/
def acquirePerformed (s : State) (core slot sid : Nat) : State :=
  onWait s core slot sid fun c w => match w with
    | .acquire scope after =>
      if canAcquire s c.g c.st after then
        let (s, t) := acquireSt s c.g scope c.st
        putCtx s (readySt { c with st := t })
      else s
    | _ => s

/-- ACQUIRE_PERFORMED (R221). -/
def execAcquirePerformed (core slot sid : Nat) (s : State) : Host.Outcome State Fault Refusal :=
  .next (acquirePerformed s core slot sid)

/-- q7 of a timed wait (R218). -/
def waitQ (s : State) (c : Ctx) (limit : Option Nat) (v : Bool) : Ctx :=
  match limit with
  | some _ => { c with g := landed s c.core c.st.sid (writeQ c.g 7 v) }
  | none => c

/-- CWAIT_WAKE (R218): the target has been reached in time: the strand acquires and goes on. -/
def cwaitWake (s : State) (core slot sid : Nat) : State :=
  onWait s core slot sid fun c w => match w with
    | .cwait _ _ _ limit scope true =>
      putCtx s (waitQ s { c with st := { c.st with status := .parked (.acquire scope false) } } limit true)
    | _ => s

/-- CWAIT_WAKE (R218). -/
def execCwaitWake (core slot sid : Nat) (s : State) : Host.Outcome State Fault Refusal := .next (cwaitWake s core slot sid)

/-- CWAIT_TIMEOUT (R218): the limit has passed and the target was not reached by then; no acquire (log entry 40, DEDUCED). -/
def cwaitTimeout (s : State) (core slot sid : Nat) : State :=
  onWait s core slot sid fun c w => match w with
    | .cwait _ (some _) _ (some l) _ false =>
      if l < s.time.toNat then putCtx s (readySt (waitQ s c (some l) false)) else s
    | _ => s

/-- CWAIT_TIMEOUT (R218). -/
def execCwaitTimeout (core slot sid : Nat) (s : State) : Host.Outcome State Fault Refusal := .next (cwaitTimeout s core slot sid)

/-- SLEEP_WAKE (R372). -/
def sleepWake (s : State) (core slot sid : Nat) : State :=
  onWait s core slot sid fun c w => match w with
    | .sleep t => if t ≤ s.time.toNat then putCtx s (readySt c) else s
    | _ => s

/-- SLEEP_WAKE (R372). -/
def execSleepWake (core slot sid : Nat) (s : State) : Host.Outcome State Fault Refusal := .next (sleepWake s core slot sid)

/-- OSWAP_COMPLETE (R118): the exchange of two pages ends. -/
def execOswapComplete (core : Nat) (s : State) : Host.Outcome State Fault Refusal := .next (settle s core)

/-! ## Decks (R116) -/

/-- REGISTER_DECK_MOVE (R116): the registers of a parked strand move to a higher deck. -/
def deckMove (s : State) (core slot sid deck : Nat) : State :=
  onWait s core slot sid fun c _ =>
    if c.st.deck < deck ∧ deck ≤ 6 then putCtx s { c with st := { c.st with deck := deck } } else s

/-- REGISTER_DECK_MOVE (R116). -/
def execRegisterDeckMove (core slot sid deck : Nat) (s : State) : Host.Outcome State Fault Refusal :=
  .next (deckMove s core slot sid deck)

/-- REGISTER_RECALL (R116): the registers return to deck 1. -/
def execRegisterRecall (core slot sid : Nat) (s : State) : Host.Outcome State Fault Refusal :=
  .next (onStrand s core slot sid fun t => { t with deck := 1 })

/-! ## Fetches and walks (R55, R59, R63) -/

/-- INSTRUCTION_FETCH (R63): the word at a strand's PC is fetched; a fault leaves the strand without an instruction, or stops
it. -/
def strandFetch (s : State) (core slot sid : Nat) : State :=
  match ctxAt s core slot sid with
  | none => s
  | some c =>
    let go := fun (s : State) =>
      match fetchWord s c c.pc0 with
      | (.inl _, s) => s
      | (.inr code, s) => fetchFault s c code c.pc0
    match c.st.status with
    | .ready => offRun s go
    | .running _ => if s.cur = some (core, slot, sid) then go s else offRun s go
    | _ => s

/-- INSTRUCTION_FETCH (R63). -/
def execInstructionFetch (core slot sid : Nat) (s : State) : Host.Outcome State Fault Refusal := .next (strandFetch s core slot sid)

/-- PAGE_TABLE_WALK (R59): a unit's walk loads its translation cache; a walk that ends in a code loads nothing (R63). -/
def execPageTableWalk (unit : Nat) (asid : BitVec 8) (va : BitVec 64) (s : State) : Host.Outcome State Fault Refusal :=
  .next (if decide (unit ≤ 641) && decide (va.toNat < 2 ^ 57) then (leafOf s unit asid.toNat va.toNat).2 else s)

/-! ## Replay of the operand log (R75, R385) -/

/-- Changes an entry in place. -/
def onEntry (s : State) (core idx : Nat) (f : LogEntry → LogEntry) : State :=
  let k := getCore s core
  setCore s core { k with olog := k.olog.map fun e => if e.idx = idx then f e else e }

/-- An entry whose replay faults is logged again with the new code (R75). -/
def relog (s : State) (core : Nat) (e : LogEntry) (code flags va : Nat) (pc : Dword) : State :=
  let s := onEntry s core e.idx fun e => { e with code := code, page := va / 4096, go := false }
  match getGroup s core e.grp with
  | some g =>
    if code = 0x12 then s
    else post s (.strand core e.grp e.sid) code 0 g.ctx.toNat flags (locStrand core e.grp e.idx) va pc.toNat
  | none => s

/-- An entry whose replay meets a terminal code stops its strand at the PC that it recorded, and is replayed when the strand is
resumed (R75, R286, log entry 34, DEDUCED). -/
def replayStop (s : State) (core : Nat) (e : LogEntry) (cause code flags : Nat) (va pc : Dword) : State :=
  let s := onEntry s core e.idx fun e => { e with code := if cause = 18 then 0x50 else code, go := false }
  stopAt s core e.grp e.sid cause (if cause = 18 then 3 else code) va pc (if cause = 18 then 0x50 else code) flags va.toNat
    (some e.idx)

/-- A code met at replay. -/
def replayCode (s : State) (core : Nat) (e : LogEntry) (code flags va : Nat) (pc : Dword) : State :=
  if retryable code then relog s core e code flags va pc
  else replayStop s core e 16 code flags (BitVec.ofNat 64 va) pc

/-- The region start of a logged instruction that begins one, recorded as it is performed (R75, R385); stores that were made
before it are no longer young (log entry 34, DEDUCED). -/
def recordRegion (t : Strand) (rg : Option (Region × Nat)) : Strand :=
  match rg with
  | some (r, n) => { t with region := r, slog := t.slog.map fun x => if x.id < n then { x with young := false } else x }
  | none => t

/-- Queues what an entry held, and frees it: an operation that had failed comes before those that wait behind it. -/
def replayQueue (s : State) (core : Nat) (e : LogEntry) (pas : List Nat) (o : MemOp) : State :=
  let s := onGroup s core e.grp fun g =>
    let x : Sent := ⟨e.sid, teamTag s g.team, routes s pas, o⟩
    { g with ops := if e.failed then x :: g.ops else g.ops ++ [x] }
  logDrop (onStrand s core e.grp e.sid fun t => recordRegion t e.rg) core e.idx

/-- A lane access is performed from its entry (R75). -/
def replayAccess (s : State) (c : Ctx) (e : LogEntry) (a : Access) : State :=
  let w := firstWord a.instr
  let op := wOp w
  let eas := a.ea.map fun x => (x.1, x.2.toNat)
  match trLanes s c.core c.g.ctx.toNat (gAcc op) (gSize op) (0x73 ≤ op) eas with
  | (_, some (code, va), s) => replayCode s c.core e code (gFlags op) va a.pc
  | (ls, none, s) =>
    if gLoad op then
      match loadErr (countLines s c.g.ctx.toNat false (ls.map (·.pa))) c.core c.g.ctx.toNat (gSize op) ls with
      | (true, s) =>
        let s := onEntry s c.core e.idx fun e => { e with code := 0x50, go := false }
        match a.pend with
        | some p => onGroup s c.core e.grp fun g => badPend g p (kindAt (ls.map fun x => (x.lane, x.pa))) e.idx
        | none => s
      | (false, s) =>
        let s := match a.pend with
          | some p => onGroup s c.core e.grp fun g => fillPend g p (loadWords s c.st (gSize op) (wLd w) ls) [] none
          | none => s
        logDrop s c.core e.idx
    else if gStore op then
      match a.store with
      | some base =>
        logDrop (onStrand s c.core e.grp e.sid fun t => placeStores s t base (gSize op) s.epoch ls a.data) c.core e.idx
      | none => logDrop s c.core e.idx
    else replayQueue s c.core e (ls.map (·.pa)) (.atomic (placed a ls))

/-- The translation of a group word at replay (R385). -/
def replayTr (s : State) (c : Ctx) (e : LogEntry) (va : Dword) (align : Nat) (wr : Bool) (flags : Nat) (pc : Dword)
    (k : Nat → State → State) : State :=
  match translate s c.core (dieOf c.core) c.g.ctx.toNat .sync align va.toNat wr with
  | (.code code, s) => replayCode s c.core e code flags va.toNat pc
  | (.ok pa _ _, s) => k pa s

/-- Changes a wait wherever the strand holds it. -/
def onCwait (f : Wait → Wait) (t : Strand) : Strand :=
  { t with
    status := match t.status with | .parked (.cwait va pa g l sc m) => .parked (f (.cwait va pa g l sc m)) | x => x
    kept := t.kept.map f }

/-- The wait of a logged CWAIT begins: a limit that has passed is tested once (R385). -/
def beginWait (s : State) (pa : Nat) (w : Wait) : Wait :=
  match w with
  | .cwait va none target limit scope _ =>
    let l := limit.map fun l => max l s.time.toNat
    meet pa (unitRead s pa 8) s.time.toNat (.cwait va (some pa) target l scope false)
  | w => w

/-- The address that a strand's logged CWAIT waits on. -/
def cwaitVa (t : Strand) : Option Dword :=
  match t.status, t.kept with
  | .parked (.cwait va _ _ _ _ _), _ => some va
  | _, some (.cwait va _ _ _ _ _) => some va
  | _, _ => none

/-- A logged CWAIT (R385, log entry 34, DEDUCED). -/
def replayCwait (s : State) (c : Ctx) (e : LogEntry) (pc : Dword) : State :=
  match cwaitVa c.st with
  | none => logDrop s c.core e.idx
  | some va => replayTr s c e va 8 false 0 pc fun pa s =>
    let (bad, s) := unitBad (carUse s pa) pa 8 c.core c.g.ctx.toNat
    if !kindOk s pa .counter then replayStop s c.core e 16 9 0 va pc
    else if bad then replayStop s c.core e 18 0x50 0 va pc
    else
      let s := countLines s c.g.ctx.toNat false [pa]
      logDrop (onStrand s c.core e.grp e.sid (onCwait (beginWait s pa))) c.core e.idx

/-- A logged TREE form (R385): from its performance on its result survives a restart (R354). -/
def replayTree (s : State) (c : Ctx) (e : LogEntry) (form d : Nat) (p : Option Nat) (ls : List TreeLane) (pc : Dword) : State :=
  match trLanes s c.core c.g.ctx.toNat .sync 64 true (ls.map fun l => (l.lane, l.va)) with
  | (_, some (code, va), s) => replayCode s c.core e code 5 va pc
  | (ts, none, s) =>
    let s := onGroup s c.core e.grp fun g =>
      { g with pend := g.pend.map fun x => if p = some x.id then { x with tree := true } else x }
    let ls := placeLanes ls ts
    replayQueue s c.core e (ls.map (·.pool)) (.tree form d pc p ls none (if form = 1 then some (backOf c.st) else none))

/-- LOG_ENTRY_REPLAY (R75, R385): the oldest entry of a strand is replayed once FRRESUME, a move or a resume has started
it. -/
def logReplay (s : State) (core idx : Nat) : State :=
  match (getCore s core).olog.find? fun e => e.idx == idx with
  | none => s
  | some e =>
    match ctxAt s core e.grp e.sid with
    | none => logDrop s core idx
    | some c =>
      if !e.go || waiting s (.strand core e.grp e.sid) || ((logOf (getCore s core) e.grp e.sid).head?.map (·.idx)) != some idx then s
      else
        match e.op with
        | .access a => replayAccess s c e a
        | .cadd va inc pc => replayTr s c e va 8 true 5 pc fun pa s => replayQueue s core e [pa] (.cadd va pa inc pc)
        | .cread va kind d p pc =>
          replayTr s c e va (if kind = 2 then 16 else if kind = 3 then 4 else 8) false 0 pc fun pa s =>
            replayQueue s core e [pa] (.cread va pa kind d p pc)
        | .cwait pc => replayCwait s c e pc
        | .tree form d p ls pc => replayTree s c e form d p ls pc
        | .release scope pc => replayQueue s core e [] (.release scope pc)
        | .column _ => logDrop s core idx

/-- LOG_ENTRY_REPLAY (R75). -/
def execLogEntryReplay (core idx : Nat) (s : State) : Host.Outcome State Fault Refusal := .next (logReplay s core idx)

end Sys2Proof.Machine
end

