-- ==== Sys2Proof/Machine/Host.lean ====
section
/-! DEFINITION. What the resident kernel commands through registers: invalidation (R62), FRRESUME (R285), the Carillon's registers
(R208), channel counters (R48–R52), the doorbell (R256), and the change of a cluster's owner (R293, R294). -/

namespace Sys2Proof.Machine

/-! ## Writes of registers (R6, R44) -/

/-- A write as a register sees it: the bits written, and their values. -/
structure Wr where
  m : Dword
  v : Dword
  deriving DecidableEq, Repr

/-- A whole write of 64 bits, or of 32. -/
def wrAll (v : Dword) : Wr := ⟨BitVec.allOnes 64, v⟩
def wrWord (v : Word) : Wr := ⟨0xFFFFFFFF, v.setWidth 64⟩

/-- The new contents of the bits `f` of a register (R6). -/
def Wr.put (w : Wr) (f cur : Dword) : Dword := (cur &&& ~~~(w.m &&& f)) ||| (w.v &&& w.m &&& f)

/-- Bit `i` is written as 1. -/
def Wr.sets (w : Wr) (i : Nat) : Bool := (w.v &&& w.m).getLsbD i

/-- Bits [hi:lo]. -/
def field (hi lo : Nat) : Dword := BitVec.ofNat 64 (2 ^ (hi + 1) - 2 ^ lo)

/-! ## Invalidation (R62) -/

/-- The addresses of a queued operation. -/
def opVas (o : MemOp) : List Nat :=
  match o with
  | .release _ _ => []
  | .atomic a => a.ea.map fun x => x.2.toNat
  | .cadd va _ _ _ => [va.toNat]
  | .cread va _ _ _ _ _ => [va.toNat]
  | .tree _ _ _ _ ls _ _ => ls.map (·.va)

/-- A store translated under a dropped entry that has not been performed. -/
def oldStore (v : Inval) (ctx : Nat) (x : SStore) : Bool :=
  x.pa.isSome && decide (x.epoch ≤ v.epoch) && invNames v.asid v.scope v.va.toNat ctx x.va x.lg

/-- A group holds such an access: a store of its logs, or an operation it has sent (log entry 15). -/
def groupOld (v : Inval) (g : Group) : Bool :=
  let c := g.ctx.toNat
  g.strands.any (fun t => t.slog.any (oldStore v c)) || g.join.any (fun j => j.slog.any (oldStore v c)) ||
    g.left.any (oldStore v c) ||
    g.ops.any fun x => (opVas x.op).any fun a => invNames v.asid v.scope v.va.toNat c a 35

/-- A walker slot holds a beat of such an access. -/
def slotOld (v : Inval) (x : WSlot) : Bool := !x.beats.isEmpty && (v.scope == 2 || x.cmd.ctx == v.asid)

/-- Whether an invalidation still waits for an access (log entry 15, DEDUCED). -/
def invBusy (s : State) (v : Inval) : Bool :=
  s.groups.any (fun e => groupOld v e.2) || s.walkers.any fun e => e.2.slots.any fun x => slotOld v x.2

/-- A write of TXINVC: its fields, and a GO that starts an invalidation over the package (R56, R62). -/
def txinvcWrite (s : State) (d : Nat) (w : Wr) : State :=
  let x := getDie s d
  let cur : Dword := x.txAsid.setWidth 64 ||| (x.txScope.setWidth 64 <<< 8)
  let n := w.put (field 9 0) cur
  let x := { x with txAsid := n.extractLsb' 0 8, txScope := n.extractLsb' 8 2 }
  if w.sets 16 && x.txDone && x.txScope != 3 then
    startInval (setDie s d { x with txDone := false }) d x.txAsid x.txScope x.txinva.toNat
  else setDie s d x

/-- TXINVC_GO (R62). -/
def execTxinvcGo (die : Nat) (val : BitVec 32) (s : State) : Host.Outcome State Fault Refusal :=
  .next (txinvcWrite s (die % 4) (wrWord val))

/-- INVALIDATION_COMPLETE (R62): every unit has dropped its entries, and no access translated with one of them is left. `die` is
the die, or 4 more than the front end, that started it. -/
def invComplete (s : State) (die : Nat) : State :=
  match s.invs.find? fun v => v.die == die with
  | none => s
  | some v =>
    if invBusy s v then s
    else
      let s := { s with invs := s.invs.filter fun x => x.die != die }
      if die < 4 then setDie s die { (getDie s die) with txDone := true }
      else
        let fe := getFe s (die - 4)
        setFe s (die - 4) { fe with job := fe.job.map fun j => { j with inv := false } }

/-- INVALIDATION_COMPLETE (R62). -/
def execInvalidationComplete (die : Nat) (s : State) : Host.Outcome State Fault Refusal := .next (invComplete s die)

/-! ## DMA of the root ports (R55) -/

/-- The root port of a request: 0 network, 1 storage. -/
def Dma.port (d : Dma) : Nat := d.storage.toNat

/-- A request of a root port: a retryable code waits for its page, a terminal one is reported (R63, R281). -/
def dmaPerform (s : State) (d : Dma) : State :=
  let va := d.va.toNat
  let src := if d.storage then 4 else 3
  match translate s (if d.storage then 641 else 640) 0 d.asid.toNat (if d.write then .store else .load 8) 8 va d.write with
  | (.ok pa _ _, s) => if d.write then storeMem s pa 8 d.val.toNat else s
  | (.code c, s) =>
    let s := if c = 0x12 then s else post s (.port d.port) c src d.asid.toNat d.write.toNat 0 va 0
    if retryable c then { s with mg := { s.mg with dma := s.mg.dma ++ [d] } } else s

/-- PORT_DMA_REQUEST (R55): a port that waits with a record takes no request (R283). -/
def execPortDmaRequest (storage : Bool) (asid : BitVec 8) (va : BitVec 64) (write : Bool) (val : BitVec 64) (s : State) :
    Host.Outcome State Fault Refusal :=
  .next (if waiting s (.port storage.toNat) then s else dmaPerform s ⟨storage, asid, va, write, val⟩)

/-! ## FRRESUME (R285) -/

/-- The pages that a GO names. -/
def resumeSel (asid : Nat) (every : Bool) (page : Nat) : PageSel := fun c pg _ => c == asid && (every || pg == page)

/-- A wait that a named page ends: a delivery is to be retried. -/
def wakeWait (p : PageSel) (ctx : Nat) (w : Wait) : Wait :=
  match w with
  | .delivery c sub v e va go => .delivery c sub v e va (go || p ctx (va.toNat / 4096) 0x10)
  | w => w

/-- A fetch that waits on a named page. -/
def fetchNamed (p : PageSel) (ctx : Nat) (w : Wait) : Bool :=
  match w with
  | .fetch va => p ctx (va.toNat / 4096) 0x10
  | _ => false

/-- Strands that wait on a fetch or a table read retry it. -/
def wakeStrand (p : PageSel) (ctx : Nat) (t : Strand) : Strand :=
  { t with
    status := match t.status with
      | .parked w => if fetchNamed p ctx w then .ready else .parked (wakeWait p ctx w)
      | x => x
    kept := match t.kept with
      | some w => if fetchNamed p ctx w then none else some (wakeWait p ctx w)
      | none => none }

/-- The strands and tree operations of a group. -/
def wakeGroup (p : PageSel) (g : Group) : Group := wakeOps p { g with strands := g.strands.map (wakeStrand p g.ctx.toNat) }

/-- A launch that waits at step 1 or 3, or at its completion add. -/
def wakeLaunch (p : PageSel) (l : Launch) : Launch :=
  { l with
    phase := match l.phase with
      | .waiting c page step => if p c page 0x10 then (if step = 3 then .resumed else .queued) else .waiting c page step
      | x => x
    addWait := match l.addWait with | some page => if p (lctx l) page 0x10 then none else some page | none => none }

/-- A front end: its launches, and its append to an open-tile list. -/
def wakeFe (p : PageSel) (fe : FrontEnd) : FrontEnd :=
  let ctx := match fe.tiles with
    | t :: _ => match mfind fe.slots t.lslot with | some l => lctx l | none => 0
    | [] => 0
  { fe with
    slots := mmap (fun _ l => wakeLaunch p l) fe.slots
    tileWait := match fe.tileWait with | some page => if p ctx page 0x10 then none else some page | none => none }

/-- A task's conditions are translated again, wherever its record stands: in a bank, in an overflow ring, or with its front end. -/
def wakeTask (p : PageSel) (s : State) (t : Task) : Task :=
  match taskLaunch s t with
  | some l => { t with wait := t.wait.filter fun page => !p (lctx l) page 0x10 }
  | none => t

/-- Everything that waits on a named page resumes (R285, log entry 35, DEDUCED). -/
def resumePages (s : State) (p : PageSel) : State :=
  let s := (s.cores.map Prod.fst).foldl (wakeLog p) s
  let named := fun (d : Dma) => p d.asid.toNat (d.va.toNat / 4096) 0x10
  let again := s.mg.dma.filter named
  let s := { s with
    groups := mmap (fun _ g => wakeGroup p g) s.groups
    walkers := mmap (fun _ w => wakeSlots p w) s.walkers
    banks := mmap (fun _ b => { b with tasks := b.tasks.map (wakeTask p s), ringMeta := b.ringMeta.map (wakeTask p s) }) s.banks
    fes := mmap (fun _ x => wakeFe p { x with held := x.held.map (wakeTask p s) }) s.fes
    dies := mmap (fun _ d => wakeJobs p d) s.dies
    mg := { s.mg with dma := s.mg.dma.filter fun d => !named d } }
  again.foldl dmaPerform s

/-- A write of FRRESUME: its fields, and a GO (R285). Every unit begins its replays at the GO, so that DONE stays 1. -/
def frresumeWrite (s : State) (d : Nat) (w : Wr) : State :=
  let x := getDie s d
  let n := w.put (field 8 0 ||| field 56 12) x.frresume
  let s := setDie s d { x with frresume := n }
  if w.sets 57 && x.frDone then
    resumePages s (resumeSel (n.extractLsb' 0 8).toNat (n.getLsbD 8) (bits n.toNat 56 12))
  else s

/-- FRRESUME_GO (R285). -/
def execFrresumeGo (die : Nat) (val : BitVec 64) (s : State) : Host.Outcome State Fault Refusal :=
  .next (frresumeWrite s (die % 4) (wrAll val))

/-! ## The Carillon's registers (R208) -/

/-- A write of CCCMD: OP, and a GO that hands the operation to the Carillon; a GO written while DONE = 0 has no effect (log entry 33,
DEDUCED). -/
def cccmdWrite (s : State) (d : Nat) (w : Wr) : State :=
  let x := getDie s d
  let op := (w.put (field 1 0) (x.ccOp.setWidth 64)).extractLsb' 0 2
  setDie s d { x with ccOp := op, ccGo := if x.ccDone && w.sets 8 then op else x.ccGo, ccDone := x.ccDone && !w.sets 8 }

/-- A sync location of a die. -/
def ccPlace (s : State) (d a : Nat) : Bool := syncPlaceOk s a && homeDie a == d

/-- The end of an operation. -/
def ccEnd (s : State) (d : Nat) (err : Bool) : State := setDie s d { (getDie s d) with ccDone := true, ccErr := err }

/-- Performs the operation in progress on a die where it is the one named. -/
def ccRun (s : State) (d op : Nat) (k : Nat → State → State) : State :=
  let x := getDie s d
  if x.ccDone || x.ccGo.toNat != op then s else k x.ccaddr.toNat s

/-- OP 00: sets a counter (log entry 33, DEDUCED). -/
def ccSet (d a : Nat) (s : State) : State :=
  if ccPlace s d a && a % 8 == 0 && kindOk s a .counter then
    let s := setUnit (storeMem (carUse s a) a 8 (getDie s d).ccdata.toNat) a { kind := .counter }
    ccEnd (notify s a) d false
  else ccEnd s d true

/-- CCCMD_SET_COUNTER (R208). -/
def execCccmdSetCounter (die : Nat) (s : State) : Host.Outcome State Fault Refusal :=
  .next (ccRun s (die % 4) 0 fun a s => ccSet (die % 4) a s)

/-- OP 01: clears a sync page, every unit free and zero. -/
def ccClear (d a : Nat) (s : State) : State :=
  if ccPlace s d a && a % 4096 == 0 then
    let s := carUse s a
    let s := storeMem s a 4096 0
    ccEnd { s with units := mkeep (fun u => !decide (a / 8 ≤ u ∧ u < a / 8 + 512)) s.units } d false
  else ccEnd s d true

/-- CCCMD_CLEAR_PAGE (R208). -/
def execCccmdClearPage (die : Nat) (s : State) : Host.Outcome State Fault Refusal :=
  .next (ccRun s (die % 4) 1 fun a s => ccClear (die % 4) a s)

/-- The code of a kind (R208). -/
def kindCode (k : Kind) : BitVec 3 :=
  match k with
  | .free => 0
  | .counter => 1
  | .words => 2
  | .pair32 => 3
  | .pair64 => 4
  | .tree => 5

/-- OP 10: reads a unit. -/
def ccRead (d a : Nat) (s : State) : State :=
  if ccPlace s d a && a % 8 == 0 then
    let s := carUse s a
    let u := getUnit s a
    let s := setDie s d { (getDie s d) with
      ccdata := BitVec.ofNat 64 (unitRead s a 8), ccKind := kindCode u.kind, ccOvf := u.ovf && u.kind == .counter }
    ccEnd s d false
  else ccEnd s d true

/-- CCCMD_READ (R208). -/
def execCccmdRead (die : Nat) (s : State) : Host.Outcome State Fault Refusal :=
  .next (ccRun s (die % 4) 2 fun a s => ccRead (die % 4) a s)

/-- CCCMD_RESERVED (R208): OP 11 performs nothing and sets ERR. -/
def execCccmdReserved (die : Nat) (s : State) : Host.Outcome State Fault Refusal :=
  .next (ccRun s (die % 4) 3 fun _ s => ccEnd s (die % 4) true)

/-- A write of CSPLIT: no effect after the first Carillon operation (R208). -/
def csplitPut (s : State) (d : Nat) (w : Wr) : State :=
  let x := getDie s d
  if x.carUsed then s else setDie s d { x with csplit := (w.put (field 5 0) (x.csplit.setWidth 64)).extractLsb' 0 6 }

/-- CSPLIT_WRITE (R208). -/
def execCsplitWrite (die : Nat) (val : BitVec 32) (s : State) : Host.Outcome State Fault Refusal :=
  .next (csplitPut s (die % 4) (wrWord val))

/-! ## Channel counters (R48–R52) -/

/-- CHCTL.CLEAR takes effect at the tick's end, before the tick's events (R52). -/
def chanClear (c : Chan) : Chan := { c with clr := true, wrote := [] }

/-- CHCTL_CLEAR (R49). -/
def execChctlClear (die : Nat) (tierL : Bool) (ch : Nat) (s : State) : Host.Outcome State Fault Refusal :=
  .next (onChan s (die % 4) (chanIx tierL ch) chanClear)

/-- CHCTL_FREEZE (R49). -/
def execChctlFreeze (die : Nat) (tierL : Bool) (ch : Nat) (on : Bool) (s : State) : Host.Outcome State Fault Refusal :=
  .next (onChan s (die % 4) (chanIx tierL ch) fun c => { c with freeze := on })

/-- A write of a counter: COUNT from the tick's end on, and SAT cleared by a 1 (R51, R52). -/
def chanCount (w : Wr) (which : Nat) (c : Chan) : Chan :=
  let x := mget {} c.cnt which
  let n := (w.put (field 47 0) (((mfind c.wrote which).getD x.count).setWidth 64)).extractLsb' 0 48
  { c with wrote := mput c.wrote which n, cnt := mput c.cnt which { x with sat := x.sat && !w.sets 63 } }

/-- COUNTER_WRITE (R52): counters 0 to 4 in the order of R48. -/
def execCounterWrite (die : Nat) (tierL : Bool) (ch which : Nat) (val : BitVec 64) (s : State) :
    Host.Outcome State Fault Refusal :=
  .next (if which < 5 then onChan s (die % 4) (chanIx tierL ch) (chanCount (wrAll val) which) else s)

/-- MEMORY_CHANNEL_REQUEST (R47, R50, R51): a request of a unit outside this model, with the context of the launch that caused it. One whose
selector differs from its domain's entry is refused with a terminal fault, and nothing is read, written or counted; another is counted
where the filter passes it. -/
def channelRequest (s : State) (pa sel : Nat) (ctx : Option Nat) (write : Bool) (activates : Nat) (conflict : Bool) : State :=
  if selectorAt s pa = some sel then
    match chanOf s pa with
    | some (d, i) => countAt s (trafficNo ctx) write 1 activates conflict.toNat d i
    | none => s
  else post s .device 8 0 (trafficNo ctx) write.toNat 0 pa 0

/-- MEMORY_CHANNEL_REQUEST (R47). -/
def execMemoryChannelRequest (pa : BitVec 52) (sel : BitVec 3) (ctx : Option (BitVec 8)) (write : Bool) (activates : Nat)
    (conflict : Bool) (s : State) : Host.Outcome State Fault Refusal :=
  .next (channelRequest s pa.toNat sel.toNat (ctx.map BitVec.toNat) write activates conflict)

/-- TIER_REFRESH (R53): a tick in which some waiting request passes the filter counts once (R51). `waits` lists the contexts of the launches
that caused the requests which wait for the refresh. -/
def execTierRefresh (die : Nat) (tierL : Bool) (ch : Nat) (waits : List (Option (BitVec 8))) (s : State) :
    Host.Outcome State Fault Refusal :=
  .next (onChan s (die % 4) (chanIx tierL ch) fun c =>
    if waits.any fun x => filterPass c (trafficNo (x.map BitVec.toNat)) then { c with ev := mput c.ev 4 1 } else c)

/-! ## The doorbell (R256) -/

/-- A doorbell: accepted as a launch, or dropped. A write of one half rings with the other half as it was last written (R44, log entry 37,
DEDUCED). -/
def doorbell (s : State) (f : Nat) (w : Wr) : State :=
  let fe := getFe s f
  let val := w.put (field 56 0) fe.door
  let fe := { fe with door := val }
  let drop := setFe s f { fe with drop := true }
  if 64 ≤ fe.queue.length ∨ feClusters s f = [] then drop
  else
    match freeLaunchSlot s f with
    | none => drop
    | some slot =>
      let s := acceptLaunch (setFe s f fe) f slot { asid := val.extractLsb' 0 8, va := BitVec.ofNat 64 (bits val.toNat 56 8 * 256) }
      setFe s f { (getFe s f) with lastId := BitVec.ofNat 15 (launchNum f slot) }

/-- FEDOOR (R256): nothing while the dies are held in reset (R369). -/
def execFedoor (fe : Nat) (val : BitVec 64) (s : State) : Host.Outcome State Fault Refusal :=
  .next (if diesUp s then doorbell s (fe % 32) (wrAll val) else s)

/-! ## The owner of a cluster (R293, R294) -/

/-- The front end whose range covers a cluster: the lowest-numbered of them. -/
def rangeOwner (s : State) (g : Nat) : Option Nat :=
  (List.range 32).find? fun f =>
    let r := (getFe s f).fecfg.toNat
    decide (bits r 4 0 ≤ g ∧ g ≤ bits r 9 5)

/-- Sets every die's copy of an owner register. -/
def setCown (s : State) (g : Nat) (c : Cown) : State :=
  (List.range 4).foldl (fun s d => let x := getDie s d; setDie s d { x with cown := mput x.cown g c }) s

/-- The owner that COWN shows. -/
def cownOwner (s : State) (g : Nat) : Option Nat := let c := cownOf s g; if c.none_ then none else some c.part.toNat

/-- Changes the record of a change of owner. -/
def setReown (s : State) (g : Nat) (r : Reown) : State := { s with reown := mput s.reown g r }

/-- Starts step 1 where the ranges give a cluster another owner; before step 4 a change in progress takes the newest (log entry 31, DEDUCED). -/
def checkOwner (s : State) (g : Nat) : State :=
  match mfind s.reown g with
  | some r => if r.step ≤ 3 then setReown s g { r with next := rangeOwner s g } else s
  | none =>
    if cownOwner s g = rangeOwner s g then s
    else
      setReown (setCown s g { (cownOf s g) with moving := true }) g ⟨cownOwner s g, rangeOwner s g, 2, s.time.toNat⟩

/-- A write of FECFG (R294). -/
def fecfgPut (s : State) (f : Nat) (w : Wr) : State :=
  let fe := getFe s f
  (List.range 32).foldl checkOwner (setFe s f { fe with fecfg := w.put (field 9 0) fe.fecfg })

/-- FECFG_WRITE (R294): nothing while the dies are held in reset (R369). -/
def execFecfgWrite (fe : Nat) (val : BitVec 64) (s : State) : Host.Outcome State Fault Refusal :=
  .next (if diesUp s then fecfgPut s (fe % 32) (wrAll val) else s)

/-- A command of an owner's contexts on a cluster's walkers that has not ended. -/
def ownerBusy (s : State) (g : Nat) (part : Nat) : Bool :=
  (List.range 4).any fun j =>
    let w := getWalker s (4 * g + j)
    w.pendq.any (fun c => c.part == part) || w.slots.any fun e => e.2.cmd.part == part && e.2.phase != .ended

/-- Step 3 of R294: the records of a cluster's bank and overflow ring, in SEQ order, go to the old owner's remaining clusters, or to its front
end. -/
def moveRecords (s : State) (g f : Nat) : State :=
  let b := getBank s g
  let (l, s) := ringTake s b
  (unitsOf (b.tasks ++ l)).foldl (fun s u => requeue s f u) (setBank s g { b with tasks := [], ringMeta := [], ringLen := 0 })

/-- The teams of a cluster. -/
def clusterTeams (s : State) (g : Nat) : List Nat := (s.teams.filter fun e => e.2.cluster == g).map Prod.fst

/-- REVOCATION_WINDOW_EXPIRY (R294): the window of step 2 ends; what remains is revoked, and step 3 begins. -/
def windowExpiry (s : State) (g : Nat) : State :=
  match mfind s.reown g with
  | none => s
  | some r =>
    match r.old with
    | none => if r.step = 2 then setReown s g { r with step := 3 } else s
    | some f =>
      if r.step ≠ 2 ∨ (s.time.toNat < r.since + 100000 ∧ ownerBusy s g f) then s
      else
        let s := setReown (revoke s g fun c => c.part == f) g { r with step := 3 }
        moveRecords ((clusterTeams s g).foldl (fun s u => moveTeam s u none false) s) g f

/-- REVOCATION_WINDOW_EXPIRY (R294). -/
def execRevocationWindowExpiry (cluster : Nat) (s : State) : Host.Outcome State Fault Refusal := .next (windowExpiry s cluster)

/-- The scrub of a queue bank: its places are written, so that an injection armed for one of them is spent (R294, R305). -/
def scrubBank (s : State) (g : Nat) : State :=
  setBank (setErr s 2 g { (getErr s 2 g) with armed := none }) g { (getBank s g) with tasks := [], ringMeta := [], ringLen := 0 }

/-- SCRUB_START (R294): steps 4 and 5, once no team of the old owner stands on the cluster. The bank, which is empty, is scrubbed first, so
that what the new owner enqueues meanwhile waits there (R306); a front end that kept records for want of a cluster enqueues them (R262). -/
def scrubStart (s : State) (g : Nat) : State :=
  match mfind s.reown g with
  | none => s
  | some r =>
    if r.step ≠ 3 ∨ !(clusterTeams s g).isEmpty then s
    else
      let c := cownOf s g
      let s := setReown (setCown (scrubBank s g) g {
        part := match r.next with | some f => BitVec.ofNat 5 f | none => c.part
        none_ := r.next.isNone, gen := c.gen + 1, moving := false, scrub := true }) g { r with step := 6, since := s.time.toNat }
      match r.next with
      | some f => drainHeld s f
      | none => s

/-- SCRUB_START (R294). -/
def execScrubStart (cluster : Nat) (s : State) : Host.Outcome State Fault Refusal := .next (scrubStart s cluster)

/-- What the scrub of a cluster zeroes, but for its bank (R294): the words of its arrays are written (R305). -/
def scrubbed (s : State) (g : Nat) : State :=
  let mine := fun u => if u < 512 then u / 16 == g else u < 640 && (u - 512) / 4 == g
  let s := (List.range 16).foldl (fun s i =>
    errWrites (errWrites s 0 (16 * g + i) fun _ => true) 1 (16 * g + i) fun _ => true) s
  { s with
    cores := mmap (fun n k => if n / 16 = g then { k with col := { remap := k.col.remap }, acc := [] } else k) s.cores
    walkers := mmap (fun n w => if n / 4 = g then { w with slots := mmap (fun _ x => { x with beats := [] }) w.slots } else w)
      s.walkers
    tlbs := mkeep (fun u => !mine u) s.tlbs }

/-- The last scrub of a start leads to step 6 of R369; dies that have been brought up again enter P0 (R364, R367). -/
def scrubsOver (s : State) : State :=
  if s.mg.bootStep = 5 ∧ s.reown = [] then
    let up := s.mg.state == 4 || s.mg.state == 7
    { s with mg := { s.mg with bootStep := 6, state := if up then 0 else s.mg.state, busy := s.mg.busy && !up } }
  else s

/-- SCRUB_COMPLETE (R294): the scrub ends within 50,000 ticks of its start, and the new owner may place: what waits in the bank calls for a
pass (R267). -/
def scrubComplete (s : State) (g : Nat) : State :=
  match mfind s.reown g with
  | none => s
  | some r =>
    if r.step ≠ 6 ∨ r.since + 50000 < s.time.toNat then s
    else
      let s := { scrubbed s g with reown := mdel s.reown g }
      let s := setCown s g { (cownOf s g) with scrub := false }
      let s := scrubsOver (setBank s g { (getBank s g) with pass := true })
      if rangeOwner s g = r.next then s else checkOwner s g

/-- SCRUB_COMPLETE (R294). -/
def execScrubComplete (cluster : Nat) (s : State) : Host.Outcome State Fault Refusal := .next (scrubComplete s cluster)

end Sys2Proof.Machine
end

