-- ==== Sys2Proof/Machine/Regs.lean ====
section
/-! DEFINITION. The register windows of the dies, the counter blocks and the management block as the A-die's cores and the external
host reach them (R6, R44): reads and writes by address. -/

namespace Sys2Proof.Machine

/-! ## The forms of an access (R44) -/

/-- A write of a 64-bit register: 8 bytes, or either half. -/
def wr64 (o size : Nat) (v : Dword) : Option Wr :=
  if size = 8 ∧ o % 8 = 0 then some (wrAll v)
  else if size = 4 ∧ o % 4 = 0 then some ⟨0xFFFFFFFF <<< (8 * (o % 8)), (v &&& 0xFFFFFFFF) <<< (8 * (o % 8))⟩
  else none

/-- A write of a 32-bit register. -/
def wr32 (o size : Nat) (v : Dword) : Option Wr := if size = 4 ∧ o % 4 = 0 then some (wrWord (v.setWidth 32)) else none

/-- The 8-bit registers that a write reaches, with their bytes. -/
def wr8 (o size : Nat) (v : Dword) : List (Nat × Byte) :=
  if size = 1 then [(o, v.setWidth 8)]
  else if size = 4 ∧ o % 4 = 0 then (List.range 4).map fun i => (o + i, v.extractLsb' (8 * i) 8)
  else []

/-- A read of a 64-bit register. -/
def rd64 (o size : Nat) (v : Dword) : Dword :=
  if size = 8 ∧ o % 8 = 0 then v
  else if size = 4 ∧ o % 4 = 0 then (v >>> (8 * (o % 8))) &&& 0xFFFFFFFF
  else 0

/-- A read of a 32-bit register. -/
def rd32 (o size : Nat) (v : Dword) : Dword := if size = 4 ∧ o % 4 = 0 then v &&& 0xFFFFFFFF else 0

/-- A read of 8-bit registers. -/
def rd8 (o size : Nat) (f : Nat → Byte) : Dword :=
  if size = 1 then (f o).setWidth 64
  else if size = 4 ∧ o % 4 = 0 then
    BitVec.ofNat 64 ((List.range 4).foldl (fun x i => x + (f (o + i)).toNat * 2 ^ (8 * i)) 0)
  else 0

/-! ## The window of a die -/

/-- TEAMCMD (R286): its fields, and a GO that performs OP; a GO written while DONE = 0 sets the fields and no more (log entry 35, DEDUCED). -/
def teamcmdWrite (s : State) (d : Nat) (w : Wr) : State :=
  let x := getDie s d
  let n := w.put (field 35 0) x.teamcmd
  let v := n.toNat
  let s := setDie s d { x with teamcmd := n }
  if !x.tcDone || !w.sets 36 then s
  else
    let r := match bits v 19 17 with
      | 0 => execTeamResume d (bits v 2 0) (bits v 6 3) (bits v 16 7) s
      | 1 => execTeamRenew d (bits v 2 0) (bits v 6 3) (bits v 16 7) (BitVec.ofNat 16 (bits v 35 20)) s
      | 2 => execTeamMove d (bits v 2 0) (bits v 6 3) (bits v 16 7) s
      | 3 => execTeamEnd d (bits v 2 0) (bits v 6 3) (bits v 16 7) s
      | 4 => execTeamRestart d (bits v 2 0) (bits v 6 3) (bits v 16 7) s
      | _ => execTeamcmdReservedOp d n s
    match r with
    | .next t => t
    | _ => s

/-- A context's block (R280): the registers of one die, and CTL over the package. A STOP that is lifted makes the context's waiting
records ready (R267; log entry 28, DEDUCED). -/
def ctxWrite (s : State) (d o : Nat) (w : Wr) : State :=
  let c := (o - 0xA000) / 64
  let x := getDie s d
  let b := mget {} x.ctxs c
  let put := fun b => setDie s d { x with ctxs := mput x.ctxs c b }
  match o % 64 / 8 with
  | 0 => put { b with ttbase := w.put (field 0 0 ||| field 56 8) b.ttbase }
  | 1 => put { b with savebase := w.put (field 51 12) b.savebase }
  | 2 => put { b with savecfg := w.put (field 19 0) b.savecfg }
  | 3 => put { b with rring := w.put (field 51 5) b.rring }
  | 4 => put { b with tring := w.put (field 51 5) b.tring }
  | 5 => put { b with entab := w.put (field 51 12) b.entab }
  | 6 =>
    let stop := (w.put (field 0 0) (if b.stop then 1 else 0)).getLsbD 0
    let s := if stop = b.stop then s else onCtxBlocks s c fun b => { b with stop := stop }
    let s := if b.stop && !stop then (List.range 32).foldl askPass s else s
    if w.sets 1 then contextKill s c else s
  | _ => s

/-- The registers of a front end (R256); FESTAT is a 32-bit register by its bits (log entry 49, DEDUCED). -/
def feWrite (s : State) (o : Nat) (w64 w32 : Option Wr) : State :=
  let f := (o - 0x8000) / 64
  let fe := getFe s f
  match o % 64 / 8 * 8, w64, w32 with
  | 0x00, some w, _ => fecfgPut s f w
  | 0x08, some w, _ => setFe s f { fe with fertab := w.put (field 51 12) fe.fertab }
  | 0x10, some w, _ => doorbell s f w
  | 0x18, _, some w => if o % 8 = 0 then setFe s f { fe with drop := fe.drop && !w.sets 16 } else s
  | 0x20, some w, _ => setFe s f { fe with lines0 := w.put (BitVec.allOnes 64) fe.lines0 }
  | 0x28, some w, _ => setFe s f { fe with lines1 := w.put (BitVec.allOnes 64) fe.lines1 }
  | _, _, _ => s

/-- The registers of a queue bank (R264); QAGE is a 32-bit register by its bits (log entry 49, DEDUCED). -/
def bankWrite (s : State) (d o : Nat) (w64 w32 : Option Wr) : State :=
  let g := 8 * d + (o - 0x6000) / 32
  let b := getBank s g
  match o % 32 / 8, w64, w32 with
  | 0, some w, _ => setBank s g { b with qovf := w.put (field 56 12) b.qovf }
  | 1, _, some w =>
    if o % 8 = 0 then setBank s g { b with qage := (w.put (field 23 0) (b.qage.setWidth 64)).setWidth 32 } else s
  | _, _, _ => s

/-- COREOFF (R373): writing 1 clears; a core that takes placement again calls for a pass of its cluster (R267; log entry 28,
DEDUCED). -/
def coreoffWrite (s : State) (d o : Nat) (w : Wr) : State :=
  let x := getDie s d
  let off := ((w.v &&& w.m).setWidth 128) <<< (64 * (o % 16 / 8))
  let s := setDie s d { x with coreoff := x.coreoff &&& ~~~off }
  (List.range 8).foldl (fun s i => if bits (x.coreoff &&& off).toNat (16 * i + 15) (16 * i) = 0 then s else askPass s (8 * d + i)) s

/-- The 64-bit registers of a die outside the blocks above. -/
def plainWrite (s : State) (d o : Nat) (w : Wr) : State :=
  let x := getDie s d
  match o / 8 * 8 with
  | 0x0000 => setDie s d { x with ctxbase := w.put (field 51 13) x.ctxbase }
  | 0x0008 => setDie s d { x with txinva := w.put (field 56 12) x.txinva }
  | 0x0018 => frresumeWrite s d w
  | 0x0020 => teamcmdWrite s d w
  | 0x1008 => setDie s d { x with csyncbase := w.put (field 51 16) x.csyncbase }
  | 0x1010 => setDie s d { x with csynclen := w.put (field 35 16) x.csynclen }
  | 0x1018 => setDie s d { x with covfbase := w.put (field 51 12) x.covfbase }
  | 0x1020 => setDie s d { x with ccaddr := w.put (field 51 0) x.ccaddr }
  | 0x1028 => setDie s d { x with ccdata := w.put (BitVec.allOnes 64) x.ccdata }
  | 0x2100 => setDie s d { x with ewtNext := some (w.put (field 55 0) (x.ewtNext.getD x.ewt)) }
  | 0x2108 => setDie s d { x with
      ewsNext := some ((w.put (field 15 0) ((x.ewsNext.getD x.ews).setWidth 64)).extractLsb' 0 16) }
  | 0x2200 => coreoffWrite s d o w
  | 0x2208 => coreoffWrite s d o w
  | 0x8900 => if d = 0 then { s with rep := { s.rep with vfrtab := w.put (field 51 14) s.rep.vfrtab } } else s
  | 0x8908 => if d = 0 then { s with rep := { s.rep with frarb := w.put (field 11 0) s.rep.frarb } } else s
  | _ => s

/-- A weight as written: 0 is taken as 1 (R271). -/
def putWeights (s : State) (d : Nat) (l : List (Nat × Byte)) : State :=
  l.foldl (fun s e =>
    let x := getDie s d
    let v : Byte := if e.2 == (0 : Byte) then 1 else e.2
    setDie s d { x with weights := mset (1 : Byte) x.weights (e.1 - 0x2000) v }) s

/-- Selector entries (R47). -/
def putSelectors (s : State) (d : Nat) (l : List (Nat × Byte)) : State :=
  l.foldl (fun s e =>
    let x := getDie s d
    let v : BitVec 3 := e.2.extractLsb' 0 3
    if e.1 < 0x200000 then setDie s d { x with selH := mset (0 : BitVec 3) x.selH (e.1 - 0x100000) v }
    else setDie s d { x with selL := mset (0 : BitVec 3) x.selL (e.1 - 0x200000) v }) s

/-- A write in the window of a die (R44). -/
def dieWrite (s : State) (d o size : Nat) (v : Dword) : State :=
  if 0x2000 ≤ o ∧ o < 0x2100 then putWeights s d (wr8 o size v)
  else if 0x100000 ≤ o ∧ o < 0x110000 ∨ 0x200000 ≤ o ∧ o < 0x240000 then putSelectors s d (wr8 o size v)
  else if o = 0x10 then match wr32 o size v with | some w => txinvcWrite s d w | none => s
  else if o = 0x1000 then match wr32 o size v with | some w => csplitPut s d w | none => s
  else if o = 0x1030 then match wr32 o size v with | some w => cccmdWrite s d w | none => s
  else if 0x6000 ≤ o ∧ o < 0x6100 then bankWrite s d o (wr64 o size v) (wr32 o size v)
  else if 0x8000 ≤ o ∧ o < 0x8800 then (if d = 0 then feWrite s o (wr64 o size v) (wr32 o size v) else s)
  else
    match wr64 o size v with
    | none => s
    | some w => if 0xA000 ≤ o ∧ o < 0xE000 then ctxWrite s d o w else plainWrite s d o w

/-! ## Counter blocks (R48–R52) -/

/-- A write in the counter window of a die. -/
def ctrWrite (s : State) (d o size : Nat) (v : Dword) : State :=
  if 0x2800 ≤ o then s
  else
    match o % 64 / 8 with
    | 0 =>
      match wr32 o size v with
      | none => s
      | some w =>
        onChan s d (o / 64) fun c =>
          if o % 8 = 0 then
            let c := { c with freeze := (w.put (field 0 0) (if c.freeze then 1 else 0)).getLsbD 0 }
            if w.sets 1 then chanClear c else c
          else { c with filtNext := some (w.v.extractLsb' 0 8, w.v.getLsbD 8, w.v.getLsbD 9) }
    | i =>
      match wr64 o size v with
      | some w => if i ≤ 5 then onChan s d (o / 64) (chanCount w (i - 1)) else s
      | none => s

/-! ## The management block -/

/-- A forwarding window's register (R362), which the resident kernel alone writes. -/
def windowWrite (s : State) (o : Nat) (w : Wr) : State :=
  let i := (o - 0x1000) / 32
  let x := mget {} s.mg.fw i
  let y : Window := match o % 32 / 8 with
    | 0 => { x with base := w.put (field 0 0 ||| field 51 21) x.base }
    | 1 => { x with len := w.put (field 25 0) x.len }
    | 2 => { x with port := w.put (field 3 0) x.port }
    | _ => { x with off := w.put (BitVec.allOnes 64) x.off }
  { s with mg := { s.mg with fw := mput s.mg.fw i y } }

/-- A write of HTCFG takes effect at the next tick (R366). -/
def htcfgPut (s : State) (d : Nat) (w : Wr) : State :=
  let cur := mget 0x00400000 s.mg.htcfg d
  let cur := (mfind s.mg.htNext d).getD cur
  { s with mg := { s.mg with htNext := mput s.mg.htNext d ((w.put (field 31 0) (cur.setWidth 64)).setWidth 32) } }

/-- HTCFG_WRITE (R366). -/
def execHtcfgWrite (die : Nat) (val : BitVec 32) (s : State) : Host.Outcome State Fault Refusal :=
  .next (htcfgPut s (die % 4) (wrAll (val.setWidth 64)))

/-- The ticks in 60 s (R369). -/
def okTicks : Nat := 60000000000

/-- BOOTSTAT.OK (R370): the start is complete, where it is written within 60 s of step 1. -/
def bootOk (s : State) : State :=
  if s.mg.mode = 0 ∧ s.mg.bootStep = 6 ∧ s.time.toNat ≤ s.mg.startTime + okTicks then
    { s with mg := { s.mg with starts := 0, mode := 1, bootStep := 0 } }
  else s

/-- BOOTSTAT.CLR (R370): S is cleared at the next reset. -/
def bootClr (s : State) : State := { s with mg := { s.mg with clrNext := true } }

/-- BOOTSTAT_OK (R370). -/
def execBootstatOk (s : State) : Host.Outcome State Fault Refusal := .next (bootOk s)

/-- BOOTSTAT_CLR (R370). -/
def execBootstatClr (s : State) : Host.Outcome State Fault Refusal := .next (bootClr s)

/-- The command was refused. -/
def pwrErr (s : State) : State := { s with mg := { s.mg with err := true } }

/-- Work that keeps the module from P4 (R364): a queued launch, a queued record, a resident team. -/
def workHeld (s : State) : Bool :=
  !s.teams.isEmpty || s.fes.any (fun e => !e.2.queue.isEmpty || !e.2.staging.isEmpty || !e.2.held.isEmpty) ||
    s.banks.any fun e => !e.2.tasks.isEmpty || e.2.ringLen != 0

/-- The start count found minimal mode (R369): the dies stay in reset until the next reset (R374). -/
def minimal (m : Mgmt) : Bool := decide (3 ≤ m.bootCount)

/-- Leaving P4 or a trip brings the compute dies up from step 3 of R369, a transition to P0 that is over once they have been scrubbed (R364,
R365); in minimal mode they stay in reset (R374, log entry 32, DEDUCED). -/
def bringUp (s : State) : State :=
  { s with mg :=
    if minimal s.mg then { s.mg with state := 0, mode := 2 }
    else { s.mg with busy := true, target := 0, mode := 0, bootStep := 3, startTime := s.time.toNat } }

/-- A command to P0–P3 (R364, R365, R367, log entry 32, DEDUCED). -/
def powerCmd (s : State) (cmd : Nat) : State :=
  let m := s.mg
  let restart := bringUp s
  if m.busy then s
  else if m.state = 7 then (if cmd = 0 ∧ m.tmax ≤ m.twarn then restart else pwrErr s)
  else if m.state = 4 then restart
  else if m.state = cmd then s
  else { s with mg := { m with busy := true, target := cmd } }

/-- POWER_STATE_CMD (R364). -/
def execPowerStateCmd (cmd : BitVec 3) (s : State) : Host.Outcome State Fault Refusal :=
  .next (if 4 ≤ cmd.toNat then s else powerCmd s cmd.toNat)

/-- A command to P4 (R364). -/
def powerOff (s : State) : State :=
  let m := s.mg
  if m.busy ∨ m.state = 4 then s
  else if m.state = 7 ∨ workHeld s then pwrErr s
  else { s with mg := { m with busy := true, target := 4 } }

/-- POWER_OFF_CMD (R364). -/
def execPowerOffCmd (s : State) : Host.Outcome State Fault Refusal := .next (powerOff s)

/-- A reserved command (R365). -/
def powerReserved (s : State) : State := if s.mg.busy then s else pwrErr s

/-- POWER_CMD_RESERVED (R365): values 5–7. -/
def execPowerCmdReserved (cmd : BitVec 3) (s : State) : Host.Outcome State Fault Refusal :=
  .next (if 5 ≤ cmd.toNat then powerReserved s else s)

/-- A write of PWRCTL (R365): PLIM, the flags that a 1 clears, then CMD. -/
def pwrctlWrite (s : State) (w : Wr) : State :=
  let m := s.mg
  let s := { s with mg := { m with
    plim := (w.put (field 27 16) ((m.plim.setWidth 64) <<< 16)).extractLsb' 16 12
    err := m.err && !w.sets 12, ovr := m.ovr && !w.sets 13 } }
  match bits w.v.toNat 2 0 with
  | 4 => powerOff s
  | 5 => powerReserved s
  | 6 => powerReserved s
  | 7 => powerReserved s
  | c => powerCmd s c

/-- A write of TSENSE (R367). -/
def tsenseWrite (s : State) (w : Wr) : State :=
  { s with mg := { s.mg with twarn := w.v.extractLsb' 8 8, warn := s.mg.warn && !w.sets 16 } }

/-- A write of BOOTSTAT (R370). -/
def bootstatWrite (s : State) (w : Wr) : State :=
  let s := if w.sets 16 then bootOk s else s
  if w.sets 17 then bootClr s else s

/-- A write in the management block (R44): `pf0` says that the external host makes it, which writes no window (R362). -/
def mgmtWrite (s : State) (pf0 : Bool) (o size : Nat) (v : Dword) : State :=
  if o = 0 then match wr32 o size v with | some w => pwrctlWrite s w | none => s
  else if 0x10 ≤ o ∧ o < 0x30 then match wr64 o size v with | some w => htcfgPut s ((o - 0x10) / 8) w | none => s
  else if o = 0x30 then match wr32 o size v with | some w => tsenseWrite s w | none => s
  else if o = 0x40 then match wr32 o size v with | some w => bootstatWrite s w | none => s
  else if 0x1000 ≤ o ∧ o < 0x1800 ∧ !pf0 then match wr64 o size v with | some w => windowWrite s o w | none => s
  else s

/-- REGISTER_WRITE (R44): a write to the register at a physical address; elsewhere, or of a size that the register does not
take, it has no effect. The external host (`pf0`) reaches the management block alone. -/
def registerWrite (s : State) (pf0 : Bool) (pa size : Nat) (v : Dword) : State :=
  match place pa with
  | .regs d o => if diesUp s && !pf0 then dieWrite s d o size v else s
  | .ctr d o => if diesUp s && !pf0 then ctrWrite s d o size v else s
  | .mgmt o => if s.powered then mgmtWrite s pf0 o size v else s
  | _ => s

/-- REGISTER_WRITE (R44). -/
def execRegisterWrite (addr : RegAddr) (size : Nat) (val : BitVec 64) (s : State) : Host.Outcome State Fault Refusal :=
  .next (registerWrite s addr.pf0 addr.pa.toNat size val)

/-! ## Reads (R6, R44) -/

/-- COWN (R293). -/
def cownWord (c : Cown) : Nat :=
  c.part.toNat + 2 ^ 5 * c.none_.toNat + 2 ^ 6 * c.gen.toNat + 2 ^ 17 * c.moving.toNat + 2 ^ 18 * c.scrub.toNat

/-- A context's block. -/
def ctxRead (b : CtxBlock) (i : Nat) : Dword :=
  match i with
  | 0 => b.ttbase
  | 1 => b.savebase
  | 2 => b.savecfg
  | 3 => b.rring
  | 4 => b.tring
  | 5 => b.entab
  | 6 => BitVec.ofNat 64 (b.stop.toNat + 4 * b.done.toNat)
  | _ => 0

/-- The registers of a front end. -/
def feRead (fe : FrontEnd) (o size : Nat) : Dword :=
  match o % 64 / 8 * 8 with
  | 0x00 => rd64 o size fe.fecfg
  | 0x08 => rd64 o size fe.fertab
  | 0x18 =>
    if o % 8 = 0 then rd32 o size (BitVec.ofNat 64 (fe.queue.length + 2 ^ 16 * fe.drop.toNat + 2 ^ 17 * fe.lastId.toNat)) else 0
  | 0x20 => rd64 o size fe.lines0
  | 0x28 => rd64 o size fe.lines1
  | _ => 0

/-- The registers of a queue bank. -/
def bankRead (b : Bank) (o size : Nat) : Dword :=
  match o % 32 / 8 with
  | 0 => rd64 o size b.qovf
  | 1 => if o % 8 = 0 then rd32 o size (b.qage.setWidth 64) else 0
  | 2 => rd64 o size (BitVec.ofNat 64 (b.tasks.length + 2 ^ 16 * b.ringLen))
  | _ => 0

/-- The other 64-bit registers of a die. -/
def plainRead (s : State) (x : Die) (d o : Nat) : Dword :=
  match o / 8 * 8 with
  | 0x0000 => x.ctxbase
  | 0x0008 => x.txinva
  | 0x0018 => x.frresume ||| BitVec.ofNat 64 (2 ^ 58 * x.frDone.toNat)
  | 0x0020 => x.teamcmd ||| BitVec.ofNat 64 (2 ^ 37 * x.tcDone.toNat + 2 ^ 38 * x.tcErr.toNat)
  | 0x1008 => x.csyncbase
  | 0x1010 => x.csynclen
  | 0x1018 => x.covfbase
  | 0x1020 => x.ccaddr
  | 0x1028 => x.ccdata
  | 0x2100 => x.ewtNext.getD x.ewt
  | 0x2108 => (x.ewsNext.getD x.ews).setWidth 64
  | 0x2200 => x.coreoff.extractLsb' 0 64
  | 0x2208 => x.coreoff.extractLsb' 64 64
  | 0x8900 => if d = 0 then s.rep.vfrtab else 0
  | 0x8908 => if d = 0 then s.rep.frarb else 0
  | _ => 0

/-- A read in the window of a die. -/
def dieRead (s : State) (d o size : Nat) : Dword :=
  let x := getDie s d
  if 0x2000 ≤ o ∧ o < 0x2100 then rd8 o size fun a => mget 1 x.weights (a - 0x2000)
  else if 0x100000 ≤ o ∧ o < 0x110000 then rd8 o size fun a => (mget 0 x.selH (a - 0x100000)).setWidth 8
  else if 0x200000 ≤ o ∧ o < 0x240000 then rd8 o size fun a => (mget 0 x.selL (a - 0x200000)).setWidth 8
  else if o = 0x10 then
    rd32 o size (BitVec.ofNat 64 (x.txAsid.toNat + 2 ^ 8 * x.txScope.toNat + 2 ^ 17 * x.txDone.toNat))
  else if o = 0x1000 then rd32 o size (x.csplit.setWidth 64)
  else if o = 0x1030 then
    rd32 o size (BitVec.ofNat 64 (x.ccOp.toNat + 2 ^ 9 * x.ccDone.toNat + 2 ^ 10 * x.ccErr.toNat + 2 ^ 11 * x.ccKind.toNat +
      2 ^ 14 * x.ccOvf.toNat))
  else if 0x6000 ≤ o ∧ o < 0x6100 then bankRead (getBank s (8 * d + (o - 0x6000) / 32)) o size
  else if 0x6100 ≤ o ∧ o < 0x6200 then rd64 o size (BitVec.ofNat 64 (cownWord (mget {} x.cown ((o - 0x6100) / 8))))
  else if 0x8000 ≤ o ∧ o < 0x8800 then (if d = 0 then feRead (getFe s ((o - 0x8000) / 64)) o size else 0)
  else if 0xA000 ≤ o ∧ o < 0xE000 then rd64 o size (ctxRead (mget {} x.ctxs ((o - 0xA000) / 64)) (o % 64 / 8))
  else rd64 o size (plainRead s x d o)

/-- A read in the management block. -/
def mgmtRead (s : State) (o size : Nat) : Dword :=
  let m := s.mg
  if o = 0 then
    rd32 o size (BitVec.ofNat 64 (2 ^ 8 * m.state + 2 ^ 11 * m.busy.toNat + 2 ^ 12 * m.err.toNat + 2 ^ 13 * m.ovr.toNat +
      2 ^ 16 * m.plim.toNat))
  else if 0x10 ≤ o ∧ o < 0x30 then
    let d := (o - 0x10) / 8
    rd64 o size (((mfind m.htNext d).getD (mget 0x00400000 m.htcfg d)).setWidth 64)
  else if o = 0x30 then rd32 o size (BitVec.ofNat 64 (m.tmax.toNat + 2 ^ 8 * m.twarn.toNat + 2 ^ 16 * m.warn.toNat))
  else if o = 0x40 then rd32 o size (BitVec.ofNat 64 (m.mode + 4 * min m.bootCount 3 + 2 ^ 8 * m.reason.toNat))
  else if 0x1000 ≤ o ∧ o < 0x1800 then
    let w := mget {} m.fw ((o - 0x1000) / 32)
    rd64 o size (match o % 32 / 8 with | 0 => w.base | 1 => w.len | 2 => w.port | _ => w.off)
  else 0

/-- A read of BAR0 of VF `vf` (R363): the copy of its ring header, byte by byte; the mailbox and the rest read as zero (log entry 42,
PRESUMED). -/
def vfRead (s : State) (vf off size : Nat) : Dword :=
  if 1 ≤ vf ∧ vf ≤ 512 ∧ 0x1000 ≤ off ∧ off + size ≤ 0x1020 then
    BitVec.ofNat 64 (memRead s.mem (bits s.rep.vfrtab.toNat 51 14 * 16384 + 32 * (vf - 1) + (off - 0x1000)) (min size 8))
  else 0

/-- A read by the A-die's cores of a register (R44): zero where there is none. The external host reads the management block so. -/
def registerRead (s : State) (pa size : Nat) : Dword :=
  match place pa with
  | .regs d o => if diesUp s then dieRead s d o size else 0
  | .ctr d o =>
    if !diesUp s ∨ 0x2800 ≤ o then 0
    else if o % 64 < 8 then rd32 o size (BitVec.ofNat 64 (chanDword s d (o / 8 * 8)) >>> (8 * (o % 8)))
    else rd64 o size (BitVec.ofNat 64 (chanDword s d (o / 8 * 8)))
  | .mgmt o => if s.powered then mgmtRead s o size else 0
  | _ => 0

end Sys2Proof.Machine
end

