-- ==== Sys2Proof/Machine/Report.lean ====
section
/-! DEFINITION. The reporting port of die 0 (R283), the errors of the arrays (R302, R303), and time (R3, R52, R298–R301, R366). -/

namespace Sys2Proof.Machine

/-! ## The reporting port (R283) -/

/-- The address of the ring header for a record of a queue. -/
def ringHeader (s : State) (kind key : Nat) : Nat :=
  match kind with
  | 0 => bits (ctxBlock s 0 key).rring.toNat 51 5 * 32
  | 1 => bits (ctxBlock s 0 key).tring.toNat 51 5 * 32
  | _ => bits s.rep.vfrtab.toNat 51 14 * 16384 + 32 * key

/-- The size that a header holds, where it is a power of two from 1 to 2^24. -/
def ringSize (m : List Host.Cell) (h : Nat) : Option Nat :=
  let n := memRead m (h + 8) 4
  if (List.range 25).any fun i => 2 ^ i == n then some n else none

/-- What a ring has for a record: no ring at all, no room, or room. -/
inductive Room where
  | none
  | full
  | free
  deriving DecidableEq, Repr

/-- The entry of a ring that its TAIL names. -/
def ringTail (s : State) (h : Nat) : Nat := memRead s.mem h 8 + 32 * (memRead s.mem (h + 24) 8 % memRead s.mem (h + 8) 4)

/-- The room in a ring. One whose header or entry is no memory takes no record, as one without a header (R43, log entry 44, DEDUCED). -/
def ringRoom (s : State) (kind key : Nat) : Room :=
  let h := ringHeader s kind key
  if h = 0 ∨ !physOk s h 32 then .none
  else
    match ringSize s.mem h with
    | Option.none => .none
    | some n =>
      if n ≤ (memRead s.mem (h + 24) 8 + 2 ^ 64 - memRead s.mem (h + 16) 8) % 2 ^ 64 then .full
      else if physOk s (ringTail s h) 32 then .free
      else .none

/-- The record at the head of a queue. -/
def portHead (s : State) (kind : Nat) : Option FRec := (mget [] s.rep.q kind).head?

/-- A queue is ready: its record can be written or is discarded; a full VF ring drops its copy. -/
def portReady (s : State) (kind : Nat) : Bool :=
  match portHead s kind with
  | none => false
  | some x => !s.rep.full.contains (kind, x.key) && (kind == 2 || ringRoom s kind x.key != .full)

/-- The weight of a queue: FRARB. -/
def portWeight (s : State) (kind : Nat) : Nat :=
  let w := bits s.rep.frarb.toNat (4 * kind + 3) (4 * kind)
  if kind = 0 ∧ w = 0 then 1 else w

/-- The credit of a queue: its weight when it becomes active (R78, log entry 39, DEDUCED). -/
def portCredit (s : State) (kind : Nat) : Nat := (mfind s.rep.credit kind).getD (portWeight s kind)

/-- The queue that the port grants, and the credits before the grant (R78). -/
def portChoice (s : State) : Option (Nat × AMap Nat) :=
  let rdy := ((List.range 3).map fun i => (s.rep.last + 1 + i) % 3).filter (portReady s)
  match rdy with
  | [] => none
  | r :: _ =>
    match rdy.find? fun k => decide (0 < portCredit s k) with
    | some k => some (k, s.rep.credit)
    | none => some (r, (List.range 3).foldl (fun m k => if (portHead s k).isSome then mput m k (portWeight s k) else m) s.rep.credit)

/-- Takes the head of a queue; a party that waits with its record goes on (R283). -/
def portTake (r : RepPort) (kind : Nat) : RepPort :=
  let l := (mget [] r.q kind).tail
  match mget [] r.waitq kind with
  | x :: t => { r with q := mput r.q kind (l ++ [x]), waitq := mput r.waitq kind t }
  | [] => { r with q := mput r.q kind l, credit := if l.isEmpty then mdel r.credit kind else r.credit }

/-- Writes an entry and then TAIL, or drops the copy of a full VF ring. -/
def ringWrite (s : State) (kind : Nat) (x : FRec) : State :=
  let h := ringHeader s kind x.key
  match ringRoom s kind x.key with
  | .none => s
  | .full =>
    let n := memRead s.mem (h + 12) 4
    storeMem s (h + 12) 4 (if n = 2 ^ 32 - 1 then n else n + 1)
  | .free =>
    let s := storeMem (storeMem s (ringTail s h) 32 x.data.toNat) (h + 24) 8 (memRead s.mem (h + 24) 8 + 1)
    if kind = 2 then { s with mg := { s.mg with msix := s.mg.msix ++ [(x.key + 1, 0)] } } else s

/-- A ring found full is read again for its HEAD later (log entry 39, DEDUCED). -/
def markFull (s : State) (kind : Nat) : State :=
  match portHead s kind with
  | some x =>
    if kind < 2 ∧ ringRoom s kind x.key = .full ∧ !s.rep.full.contains (kind, x.key) then
      { s with rep := { s.rep with full := s.rep.full ++ [(kind, x.key)] } }
    else s
  | none => s

/-- A party whose record the port has taken goes on: a walker slot that held is free for the next command (R76, R283). -/
def goesOn (s : State) (x : Option FRec) : State :=
  match x with
  | some r => match r.who with
    | .slot w _ => servePending s w
    | _ => s
  | none => s

/-- RING_RECORD_WRITE (R283): one record of the queue that the port grants. -/
def recordWrite (s : State) : State :=
  let s := markFull (markFull s 0) 1
  match portChoice s with
  | none => s
  | some (k, credit) =>
    match portHead s k with
    | none => s
    | some x =>
      let s := { s with rep := { s.rep with credit := credit } }
      let c := portCredit s k
      let s := ringWrite s k x
      let next := (mget [] s.rep.waitq k).head?
      goesOn { s with rep := portTake { s.rep with credit := mput s.rep.credit k (c - 1), last := k } k } next

/-- RING_RECORD_WRITE (R283). -/
def execRingRecordWrite (s : State) : Host.Outcome State Fault Refusal := .next (recordWrite s)

/-- RING_HEAD_REREAD (R283): a ring that was found full is looked at again. -/
def headReread (s : State) (kind key : Nat) : State :=
  if ringRoom s kind key = .full then s
  else { s with rep := { s.rep with full := s.rep.full.filter fun x => x != (kind, key) } }

/-- RING_HEAD_REREAD (R283). -/
def execRingHeadReread (kind key : Nat) (s : State) : Host.Outcome State Fault Refusal := .next (headReread s kind key)

/-! ## Errors of the arrays (R302, R303) -/

/-- A core in the place where an instance stands, as an entry names it. -/
def instCore (kind inst : Nat) : Nat :=
  if kind = 2 then 16 * inst else if 3 ≤ kind ∧ kind ≤ 5 then 128 * inst else inst

/-- CORRECTED_ERROR (R302): logged, and otherwise invisible. -/
def execCorrectedError (kind inst : Nat) (addr : BitVec 52) (ctx : BitVec 8) (syndrome : BitVec 16) (s : State) :
    Host.Outcome State Fault Refusal :=
  .next (if kind ≤ 6 then errLog s kind inst false ctx.toNat syndrome.toNat addr.toNat (instCore kind inst) else s)

/-- The 64-bit word of an array that an address names (R302). -/
def errWord (kind a : Nat) : Nat := match kind with | 1 => a / 2 | 2 => a | _ => a / 8

/-- The record at a place of a bank is lost (R303, log entry 21, DEDUCED). -/
def recordHit (s : State) (g i : Nat) : State :=
  match (getBank s g).tasks[i]? with
  | none => s
  | some t => recordLost s t

/-- A translation-cache entry covers an address. -/
def tlbCovers (a : Nat) (t : Tlb) : Bool := a / 2 ^ t.lg == t.page / 2 ^ t.lg

/-- A translation-cache entry is logged, dropped and walked again, with no outcome that a program sees. -/
def tlbHit (s : State) (inst a ctx synd : Nat) : State :=
  if (mget [] s.tlbs inst).any (tlbCovers a) then
    { errLog s 6 inst true ctx synd a inst with
      tlbs := mmap (fun u l => if u = inst then l.filter fun t => !tlbCovers a t else l) s.tlbs }
  else s

/-- UNCORRECTABLE_ERROR (R303): the word acts on its first consumer, which logs it; a queue-bank record and a translation-cache entry
meet it here. -/
def uncorrectable (s : State) (kind inst a ctx synd : Nat) : State :=
  let mark := fun (s : State) =>
    let e := getErr s kind inst
    setErr s kind inst { e with bad := mput e.bad (errWord kind a) true }
  match kind with
  | 2 => recordHit (errLog s 2 inst true ctx synd a (instCore 2 inst)) inst a
  | 6 => tlbHit (mark s) inst a ctx synd
  | _ => if kind ≤ 6 then mark s else s

/-- UNCORRECTABLE_ERROR (R303). -/
def execUncorrectableError (kind inst : Nat) (addr : BitVec 52) (ctx : BitVec 8) (syndrome : BitVec 16) (s : State) :
    Host.Outcome State Fault Refusal := .next (uncorrectable s kind inst addr.toNat ctx.toNat syndrome.toNat)

/-! ## A tick (R3) -/

/-- A channel's counters at the end of a tick (R49–R52, log entry 30, DEDUCED). -/
def chanTick (c : Chan) : Chan :=
  let base := fun i => if c.clr then ({} : Ctr) else mget {} c.cnt i
  let val := fun i => match mfind c.wrote i with
    | some n => { (base i) with count := n }
    | none => if c.freeze then base i else ctrAdd (base i) (mget 0 c.ev i)
  let m := (List.range 5).foldl (fun m i => mset {} m i (val i)) []
  let f := c.filtNext.getD (c.filtCtx, c.filtEn, c.filtInv)
  { c with
    cnt := m, seen := m, frozen := c.freeze, filtCtx := f.1, filtEn := f.2.1, filtInv := f.2.2
    ev := [], clr := false, wrote := [], filtNext := none }

/-- A die's counters, and the weights written in the tick (R298). -/
def dieTick (d : Die) : Die :=
  { d with
    chans := mmap (fun _ c => chanTick c) d.chans
    ewt := d.ewtNext.getD d.ewt, ewtNext := none
    ews := d.ewsNext.getD d.ews, ewsNext := none }

/-- The contexts with granules on a core, ascending, with the bytes of each (R300). -/
def bytesByCtx (s : State) (core : Nat) : AMap Nat :=
  (getCore s core).col.tags.foldl (fun m e => match tagCtx (regCtx s core) e.2 with
    | some c => mput m c.toNat (mget 0 m c.toNat + 256)
    | none => m) []

/-- The static charges of a core: shares by bytes, the rest to the lowest-numbered context (R300). -/
def staticShares (stat : Nat) (b : AMap Nat) : AMap Nat :=
  let total := (b.map Prod.snd).sum
  let sh := b.map fun e => (e.1, stat * e.2 / total)
  match sh with
  | (c, x) :: t => (c, x + (stat - (sh.map Prod.snd).sum)) :: t
  | [] => []

/-- Charges a core its static energy. -/
def staticCharge (s : State) (core : Nat) : State :=
  (staticShares (getDie s (dieOf core)).ews.toNat (bytesByCtx s core)).foldl (fun s e => charge s core e.1 e.2) s

/-- Static energy of every core that holds tagged granules. -/
def staticEnergy (s : State) : State :=
  ((s.cores.filter fun e => !e.2.col.tags.isEmpty).map Prod.fst).foldl staticCharge s

/-- CAP in tokens, 0 taken as 1 (R366). -/
def heatCap (v : BitVec 32) : Nat := max 1 (v.extractLsb' 16 16).toNat

/-- The buckets of a core after a tick, in units of 1/256 (R198, R366). -/
def heatFill (v : BitVec 32) (h : AMap Nat) : AMap Nat :=
  let r := (v.extractLsb' 0 16).toNat
  (List.range 16).foldl (fun m g => mset 0 m g (min (256 * heatCap v) (mget 0 m g + r))) h

/-- Buckets above a new CAP are cut (R366). -/
def heatCut (v : BitVec 32) (h : AMap Nat) : AMap Nat :=
  (List.range 16).foldl (fun m g => mset 0 m g (min (256 * heatCap v) (mget 0 m g))) h

/-- A core's buckets, by the setting of its die. -/
def heatTick (s : State) (core : Nat) : State :=
  let v := mget 0x00400000 s.mg.htcfg (dieOf core)
  let k := getCore s core
  if v.extractLsb' 0 16 = 0 then (if k.heat.isEmpty then s else setCore s core { k with heat := heatCut v k.heat })
  else setCore s core { k with heat := heatFill v k.heat }

/-- Takes the settings written in the tick, then fills the buckets of the dies that have a rate (log entry 38, DEDUCED). -/
def heatAll (s : State) : State :=
  let cfg : AMap (BitVec 32) := s.mg.htNext.foldl (fun (m : AMap (BitVec 32)) e => mput m e.1 e.2) s.mg.htcfg
  let s := { s with mg := { s.mg with htcfg := cfg, htNext := [] } }
  cfg.foldl (fun s e => (List.range 128).foldl (fun s i => heatTick s (128 * e.1 + i)) s) s

/-- A scrub outside a start has ended when its 50,000 ticks are over (R294). -/
def scrubsDue (s : State) : State :=
  if s.mg.bootStep = 5 then s
  else s.reown.foldl (fun s e => if e.2.step = 6 ∧ e.2.since + 50000 ≤ s.time.toNat then scrubComplete s e.1 else s) s

/-- The passes of a tick stand at its end: one for every cluster in which something has called for it (R267, log entry 28, DEDUCED). -/
def passes (s : State) : State := (List.range 32).foldl dispatchPass s

/-- TICK (R3): the charges and counters of the tick that ends and its passes, then TIME advances by one, and the arithmetic clock by the
cycles of its state (R4). -/
def tick (s : State) : State :=
  if !s.powered then s
  else
    let e := heatAll (staticEnergy s)
    let e := passes (scrubsDue { e with dies := mmap (fun _ d => dieTick d) e.dies })
    { e with time := s.time + 1, clk := s.clk + cyclesTen s.mg.state }

/-- TICK (R3). -/
def execTick (s : State) : Host.Outcome State Fault Refusal := .next (tick s)

end Sys2Proof.Machine
end

