-- ==== Sys2Proof/Machine/Sha3.lean ====
section
/-! DEFINITION. SHA3-256 (R368, R371): the hash that the spec names, as FIPS 202 gives it (log entry 11, PRESUMED). -/

namespace Sys2Proof.Machine

/-- A lane of the state of 5 × 5 lanes, at column `x` and row `y`. -/
def kLane (a : List Dword) (x y : Nat) : Dword := a.getD (x % 5 + 5 * (y % 5)) 0

/-- A state made lane by lane. -/
def kState (f : Nat → Nat → Dword) : List Dword := (List.range 25).map fun i => f (i % 5) (i / 5)

/-- The step θ: each lane takes the parities of two columns. -/
def kTheta (a : List Dword) : List Dword :=
  let c := (List.range 5).map fun x => (List.range 5).foldl (fun v y => v ^^^ kLane a x y) 0
  let at_ := fun x => c.getD (x % 5) 0
  kState fun x y => kLane a x y ^^^ at_ (x + 4) ^^^ (at_ (x + 1)).rotateLeft 1

/-- The rotations of ρ, lane by lane. -/
def kRot : List Nat :=
  [0, 1, 62, 28, 27, 36, 44, 6, 55, 20, 3, 10, 43, 25, 39, 41, 45, 15, 21, 8, 18, 2, 61, 56, 14]

/-- The steps ρ and π: the lane at (x, y) is rotated and comes from (x + 3y, x). -/
def kRhoPi (a : List Dword) : List Dword :=
  let r := (List.range 25).map fun i => (a.getD i 0).rotateLeft (kRot.getD i 0)
  kState fun x y => kLane r (x + 3 * y) x

/-- The step χ. -/
def kChi (a : List Dword) : List Dword :=
  kState fun x y => kLane a x y ^^^ (~~~(kLane a (x + 1) y) &&& kLane a (x + 2) y)

/-- The bits of the linear-feedback register from which ι takes its constants. -/
def kLfsr : Nat → Nat
  | 0 => 1
  | n + 1 => let r := kLfsr n * 2; if r < 256 then r else (r - 256) ^^^ 0x71

/-- The constant of a round. -/
def kConst (round : Nat) : Dword :=
  BitVec.ofNat 64 ((List.range 7).foldl (fun v j => v + kLfsr (7 * round + j) % 2 * 2 ^ (2 ^ j - 1)) 0)

/-- One round of KECCAK-f[1600]. -/
def kRound (a : List Dword) (round : Nat) : List Dword :=
  match kChi (kRhoPi (kTheta a)) with
  | x :: t => (x ^^^ kConst round) :: t
  | [] => []

/-- KECCAK-f[1600]. -/
def keccak (a : List Dword) : List Dword := (List.range 24).foldl kRound a

/-- Eight bytes of a text from byte `i` on, as a little-endian lane. -/
def kWord (t : List Byte) (i : Nat) : Dword :=
  BitVec.ofNat 64 ((List.range 8).foldl (fun v j => v + (t.getD (i + j) 0).toNat * 2 ^ (8 * j)) 0)

/-- The text padded to a whole number of blocks of 136 bytes. -/
def kPad (t : List Byte) : List Byte :=
  let n := 136 - t.length % 136
  t ++ if n = 1 then [0x86] else 0x06 :: (List.replicate (n - 2) 0 ++ [0x80])

/-- SHA3-256 of a text, its first byte the least significant of the digest. -/
def sha3 (t : List Byte) : BitVec 256 :=
  let p := kPad t
  let a := (List.range (p.length / 136)).foldl (fun a b =>
    keccak (kState fun x y => kLane a x y ^^^ if x + 5 * y < 17 then kWord p (136 * b + 8 * (x + 5 * y)) else 0)) (List.replicate 25 0)
  BitVec.ofNat 256 ((List.range 4).foldl (fun v i => v + (kLane a i 0).toNat * 2 ^ (64 * i)) 0)

end Sys2Proof.Machine
end

