-- ==== Sys2Proof/Machine/Boot.lean ====
section
/-! DEFINITION. Main power (R3), starts (R368–R370), power states and heat (R364–R367), the PCIe ports, windows and VFs (R361–R363),
and the SPDM responder (R371). -/

namespace Sys2Proof.Machine

/-! ## What a reset leaves -/

/-- Memory that the dies' reset does not lose: beyond the A-die's ports (R43). -/
def extOnly (m : List Host.Cell) : List Host.Cell := m.filter fun e => decide (0x100000000000 ≤ e.1)

/-- The compute dies held in reset, their contents and those of both tiers lost (R364, R367, R369): what remains is TIME, the
management block and memory beyond the ports. -/
def coldDies (s : State) : State :=
  { State.reset with time := s.time, powered := s.powered, mem := extOnly s.mem, mg := s.mg, agenda := s.agenda }

/-- What a reset of the module keeps (R369, R370, log entry 32, DEDUCED): the non-volatile start count S, which a CLR clears now, and the
reason; COUNT is S from the reset on. -/
def kept (m : Mgmt) : Mgmt :=
  let n := if m.clrNext then 0 else m.starts
  { starts := n, reason := m.reason, bootCount := min n 3 }

/-- MAIN_POWER_ON (R3): TIME starts at 0 and a start begins. -/
def mainPowerOn (s : State) : State :=
  if s.powered then s else { State.reset with mg := kept s.mg, agenda := s.agenda }

/-- MAIN_POWER_ON (R3). -/
def execMainPowerOn (s : State) : Host.Outcome State Fault Refusal := .next (mainPowerOn s)

/-- MAIN_POWER_REMOVAL (R3): TIME, the columns, the tiers and the Carillon SRAM are lost. That memory beyond the PCIe ports reads afterwards as
memory that nothing has written is the model's choice (log entry 1, DESIGN CHOICE). -/
def mainPowerRemoval (s : State) : State := { State.reset with powered := false, mg := kept s.mg, agenda := s.agenda }

/-- MAIN_POWER_REMOVAL (R3). -/
def execMainPowerRemoval (s : State) : Host.Outcome State Fault Refusal := .next (mainPowerRemoval s)

/-! ## Starts (R368, R369) -/

/-- A failed attempt records its reason and resets the module, which is to begin again at step 1 (R369). -/
def startFailed (s : State) (reason : Byte) : State :=
  let s := coldDies s
  { s with mg := { kept s.mg with reason := reason } }

/-- The key, the signature over the digest of the body, and every image's digest of a manifest hold (R368). -/
def manifestOk (i : Nat) : Bool :=
  sha3 (Config.bodyKey i) == Config.fusedKey &&
    ((Config.signature i).length == 2420 && Config.dsaVerify (Config.bodyKey i) (sha3 (Config.body i)) (Config.signature i)) &&
    (Config.images i).map sha3 == Config.bodyDigests i

/-- The reason that a manifest is not accepted for, if any (R368, R369). -/
def manifestFault (i : Nat) (bad : Byte) : Option Byte :=
  if !manifestOk i then some bad else if Config.bodyVersion i < Config.fusedVersion then some 3 else none

/-- The measurements of R371. -/
def measurements : List (BitVec 256) :=
  [sha3 ((Config.images 0).headD []), sha3 ((Config.images 1).headD []), sha3 Config.kernelImage,
    sha3 (Config.fusedText Config.fusedVersion Config.fusedKey)]

/-- Step 5 of R369: every cluster is scrubbed (log entry 32, DEDUCED). -/
def startScrub (s : State) : State :=
  (List.range 32).foldl (fun s g =>
    setReown (setCown s g { (cownOf s g) with scrub := true }) g ⟨none, rangeOwner s g, 6, s.time.toNat⟩) s

/-- Steps 3 to 5 of R369: the registers of the dies are at their resets. -/
def startDies (s : State) (memOk linkOk : Bool) : State :=
  match manifestFault 1 2 with
  | some r => startFailed s r
  | none =>
    if !memOk then startFailed s 4
    else if !linkOk then startFailed s 5
    else
      let s := coldDies s
      startScrub { s with mg := { s.mg with mode := 0, bootStep := 5, meas := measurements } }

/-- START_ATTEMPT (R369): from step 1 after a reset, or from step 3 where the dies are brought up again. `memOk` and `linkOk`
say whether the tiers and the links train. -/
def startAttempt (s : State) (memOk linkOk : Bool) : State :=
  if !s.powered then s
  else if s.mg.bootStep = 3 then startDies s memOk linkOk
  else if s.mg.mode ≠ 0 ∨ s.mg.bootStep ≠ 0 then s
  else
    let n := s.mg.starts
    let m := { s.mg with bootCount := min n 3, startTime := s.time.toNat }
    if 3 ≤ n then { coldDies s with mg := { m with mode := 2 } }
    else
      let s := { s with mg := { m with starts := n + 1 } }
      match manifestFault 0 1 with
      | some r => startFailed s r
      | none => startDies s memOk linkOk

/-- START_ATTEMPT (R369). -/
def execStartAttempt (memOk linkOk : Bool) (s : State) : Host.Outcome State Fault Refusal := .next (startAttempt s memOk linkOk)

/-- BOOT_OK_TIMEOUT (R369): no OK within 60 s of step 1. -/
def okTimeout (s : State) : State :=
  if s.powered ∧ s.mg.mode = 0 ∧ s.mg.bootStep ≠ 0 ∧ s.mg.startTime + okTicks ≤ s.time.toNat then startFailed s 7 else s

/-- BOOT_OK_TIMEOUT (R369). -/
def execBootOkTimeout (s : State) : Host.Outcome State Fault Refusal := .next (okTimeout s)

/-- BOOT_SCRUB_TIMEOUT (R369): a cluster of the start is still being scrubbed after 50,000 ticks. -/
def scrubTimeout (s : State) : State :=
  if s.powered ∧ s.mg.bootStep = 5 ∧ s.reown.any (fun e => decide (e.2.since + 50000 ≤ s.time.toNat)) then startFailed s 6 else s

/-- BOOT_SCRUB_TIMEOUT (R369). -/
def execBootScrubTimeout (s : State) : Host.Outcome State Fault Refusal := .next (scrubTimeout s)

/-! ## Power and heat (R364, R365, R367) -/

/-- THERMAL_TRIP (R367): a sensor at 115 °C or more holds the dies and the tiers in reset. -/
def thermalTrip (s : State) (t : Byte) : State :=
  if !s.powered ∨ t.toNat < 115 then s
  else
    let s := coldDies s
    { s with mg := { s.mg with
      tmax := t, warn := s.mg.warn || decide (s.mg.twarn ≤ t), state := 7, busy := false, mode := 3, reason := 8, bootStep := 0 } }

/-- THERMAL_TRIP (R367). -/
def execThermalTrip (temp : BitVec 8) (s : State) : Host.Outcome State Fault Refusal := .next (thermalTrip s temp)

/-- THERMAL_WARNING (R367): TMAX takes the hottest sensor; reaching TWARN sets WARN. -/
def thermalWarning (s : State) (t : Byte) : State :=
  if !s.powered ∨ 115 ≤ t.toNat then s
  else { s with mg := { s.mg with tmax := t, warn := s.mg.warn || decide (s.mg.twarn ≤ t) } }

/-- THERMAL_WARNING (R367). -/
def execThermalWarning (temp : BitVec 8) (s : State) : Host.Outcome State Fault Refusal := .next (thermalWarning s temp)

/-- PLIM as it is taken (R365). -/
def plimWatts (m : Mgmt) : Nat := max 1000 (min 3000 m.plim.toNat)

/-- POWER_LIMIT_EXCEEDED (R365): the average over 1 ms is above PLIM. -/
def powerLimit (s : State) (w : Nat) : State :=
  if s.powered ∧ plimWatts s.mg < w then { s with mg := { s.mg with ovr := true } } else s

/-- POWER_LIMIT_EXCEEDED (R365). -/
def execPowerLimitExceeded (watts : Nat) (s : State) : Host.Outcome State Fault Refusal := .next (powerLimit s watts)

/-- A run is in progress on some port. -/
def anyRun (s : State) : Bool :=
  s.groups.any fun e => e.2.strands.any fun t => match t.status with | .running _ => true | _ => false

/-- A walker has a beat in its hands: read, and not yet written; not one that waits for its permit, a token or a page. -/
def anyBeat (s : State) : Bool :=
  s.walkers.any fun e => e.2.slots.any fun x => x.2.phase == .move && x.2.wait.isNone && !x.2.beats.isEmpty

/-- A matrix engine is at work. -/
def anyProduct (s : State) : Bool := s.cores.any fun e => e.2.mq.any (·.started)

/-- A Carillon is at an operation of its registers, or the tree engine in the middle of one that waits for no page. -/
def anyCarillon (s : State) : Bool :=
  s.dies.any (fun e => !e.2.ccDone) || s.groups.any fun e => e.2.ops.any fun x => match x.op with
    | .tree _ _ _ _ ls none _ => ls.any fun l => decide (0 < l.steps)
    | _ => false

/-- What R364 lets come to an end before the clock changes. -/
def quiesced (s : State) : Bool := !(anyRun s || anyBeat s || anyProduct s || anyCarillon s)

/-- POWER_TRANSITION_DONE (R364): every port has ended its run, the walkers their beats, the engines and Carillons their operations, and the
state changes; P4 loses the contents. A transition that brings the dies up ends with their scrub. -/
def transitionDone (s : State) : State :=
  if !s.mg.busy ∨ s.mg.state = 4 ∨ s.mg.state = 7 ∨ !quiesced s then s
  else
    let s := { s with mg := { s.mg with busy := false, state := s.mg.target } }
    if s.mg.target = 4 then coldDies s else s

/-- POWER_TRANSITION_DONE (R364). -/
def execPowerTransitionDone (s : State) : Host.Outcome State Fault Refusal := .next (transitionDone s)

/-! ## PCIe (R361–R363) -/

/-- PCIE_LINK_TRAIN (R361): the best rate and width that both ends support, where there is one. `gen` and `width` are the
other end's. -/
def linkTrain (s : State) (port gen width : Nat) : State :=
  if !s.powered ∨ 8 < port ∨ gen < 4 ∨ width < 4 then s
  else { s with mg := { s.mg with
    links := mput s.mg.links port (min gen 6, if 16 ≤ width then 16 else if 8 ≤ width then 8 else 4) } }

/-- PCIE_LINK_TRAIN (R361). -/
def execPcieLinkTrain (port gen width : Nat) (s : State) : Host.Outcome State Fault Refusal := .next (linkTrain s port gen width)

/-- VF_MAILBOX_WRITE (R363): an interrupt on the A-die's cores with v and the value (log entry 42, PRESUMED). -/
def mailboxWrite (s : State) (vf : Nat) (val : Word) : State :=
  if !s.powered ∨ vf = 0 ∨ 512 < vf then s
  else { s with mg := { s.mg with mailbox := mput s.mg.mailbox vf val, mailIrq := s.mg.mailIrq ++ [(vf, val)] } }

/-- VF_MAILBOX_WRITE (R363). -/
def execVfMailboxWrite (vf : Nat) (val : BitVec 32) (s : State) : Host.Outcome State Fault Refusal :=
  .next (mailboxWrite s vf val)

/-- FORWARDED_REQUEST (R362): the port and the PCIe address that a window gives, or none for a hole (log entry 12, DESIGN CHOICE). -/
def forward (s : State) (a : Nat) : State :=
  if !s.powered ∨ a < 0x100000000000 then s
  else { s with mg := { s.mg with
    fwdOut := (findWindow s a).map fun w => (bits w.port.toNat 3 0, BitVec.ofNat 64 a + w.off) } }

/-- FORWARDED_REQUEST (R362). -/
def execForwardedRequest (addr : BitVec 52) (s : State) : Host.Outcome State Fault Refusal := .next (forward s addr.toNat)

/-! ## SPDM (R371) -/

/-- The device answers a request. -/
def answer (s : State) (m : SpdmMsg) : State := if s.powered then { s with mg := { s.mg with spdmOut := some m } } else s

/-- Error UnsupportedRequest. -/
def unsupported (s : State) (req : Nat) : State :=
  answer s { req := req, ver := s.mg.spdmVer.getD 0, error := true }

/-- A request answered under version 1.4 only. -/
def under14 (s : State) (req : Nat) (m : SpdmMsg) : State :=
  if s.mg.spdmVer = some 14 then answer s m else unsupported s req

/-- GET_VERSION (R371): versions 1.3 and 1.4; nothing is settled until GET_CAPABILITIES (log entry 36, DEDUCED). -/
def getVersion (s : State) : State :=
  answer { s with mg := { s.mg with spdmVer := none, spdmAlg := none } } { req := 0x84, ver := 10, payload := [13, 14] }

/-- GET_VERSION (R371). -/
def execGetVersion (s : State) : Host.Outcome State Fault Refusal := .next (getVersion s)

/-- GET_CAPABILITIES (R371): settles its version, 13 for 1.3 or 14 for 1.4 (log entry 36, DEDUCED). -/
def getCapabilities (s : State) (ver : Nat) : State :=
  if ver = 13 ∨ ver = 14 then answer { s with mg := { s.mg with spdmVer := some ver, spdmAlg := none } } { req := 0xE1, ver := ver }
  else unsupported s 0xE1

/-- GET_CAPABILITIES (R371). -/
def execGetCapabilities (ver : Nat) (s : State) : Host.Outcome State Fault Refusal := .next (getCapabilities s ver)

/-- NEGOTIATE_ALGORITHMS (R371): ML-DSA-44 and SHA3-256 under 1.4; SHA3-256 alone under 1.3. -/
def negotiate (s : State) (mlDsa sha3 : Bool) : State :=
  let ok := match s.mg.spdmVer with
    | some 14 => mlDsa && sha3
    | some 13 => !mlDsa && sha3
    | _ => false
  if ok then
    answer { s with mg := { s.mg with spdmAlg := some mlDsa } } { req := 0xE3, ver := s.mg.spdmVer.getD 0, payload := [mlDsa.toNat, 1] }
  else unsupported s 0xE3

/-- NEGOTIATE_ALGORITHMS (R371). -/
def execNegotiateAlgorithms (mlDsa sha3 : Bool) (s : State) : Host.Outcome State Fault Refusal := .next (negotiate s mlDsa sha3)

/-- The identity key of the device, derived from its fused secret (R371). -/
def identityKey : List Byte := Config.dsaKey (sha3 Config.secret)

/-- A signature of the device over words of 32 bytes each (R371, log entry 36, DEDUCED). -/
def signed (l : List Nat) : Nat :=
  (Config.dsaSign identityKey (l.flatMap fun x => (List.range 32).map fun i => BitVec.ofNat 8 (x / 2 ^ (8 * i)))).foldr
    (fun b n => b.toNat + 256 * n) 0

/-- GET_DIGESTS (R371). -/
def execGetDigests (s : State) : Host.Outcome State Fault Refusal :=
  .next (under14 s 0x81 { req := 0x81, ver := 14, digests := [sha3 Config.chain] })

/-- GET_CERTIFICATE (R371): slot 0 is the only slot (log entry 36, DEDUCED). -/
def getCertificate (s : State) (cslot off len : Nat) : State :=
  if cslot = 0 then under14 s 0x82 { req := 0x82, ver := 14, payload := ((Config.chain.drop off).take len).map BitVec.toNat } else unsupported s 0x82

/-- GET_CERTIFICATE (R371). -/
def execGetCertificate (cslot off len : Nat) (s : State) : Host.Outcome State Fault Refusal :=
  .next (getCertificate s cslot off len)

/-- CHALLENGE (R371): signed, under 1.4. -/
def challenge (s : State) (cslot : Nat) (nonce : BitVec 256) : State :=
  if cslot = 0 then
    let d := sha3 Config.chain
    under14 s 0x83 { req := 0x83, ver := 14, digests := [d], sig := some (signed [0x83, d.toNat, nonce.toNat]) }
  else unsupported s 0x83

/-- CHALLENGE (R371). -/
def execChallenge (cslot : Nat) (nonce : BitVec 256) (s : State) : Host.Outcome State Fault Refusal :=
  .next (challenge s cslot nonce)

/-- The measurements that an index names: one of 1 to 4, or all with 255. -/
def measured (m : Mgmt) (idx : Nat) : List (BitVec 256) :=
  if idx = 255 then m.meas else if idx = 0 then [] else (m.meas[idx - 1]?).toList

/-- GET_MEASUREMENTS (R371): unsigned under 1.3 and 1.4, signed under 1.4 only. -/
def getMeasurements (s : State) (idx : Nat) (sign : Bool) (nonce : BitVec 256) : State :=
  let d := measured s.mg idx
  let m : SpdmMsg := {
    req := 0xE0, ver := s.mg.spdmVer.getD 0, digests := d
    payload := if idx = 0 then [s.mg.meas.length] else []
    sig := if sign then some (signed (0xE0 :: nonce.toNat :: d.map BitVec.toNat)) else none }
  if s.mg.spdmVer = some 14 ∨ (s.mg.spdmVer = some 13 ∧ !sign) then answer s m else unsupported s 0xE0

/-- GET_MEASUREMENTS (R371). -/
def execGetMeasurements (idx : Nat) (sign : Bool) (nonce : BitVec 256) (s : State) : Host.Outcome State Fault Refusal :=
  .next (getMeasurements s idx sign nonce)

/-- UNSUPPORTED_REQUEST (R371). -/
def execUnsupportedRequest (code : BitVec 8) (s : State) : Host.Outcome State Fault Refusal :=
  .next (unsupported s code.toNat)

end Sys2Proof.Machine
end

