-- ==== Sys2Proof/Machine/Fetch.lean ====
section
/-! DEFINITION. Fetching and decoding the next instruction of the strand at work (R11, R19, R39, R63), the order of what happens within a
tick (R3, R129, R271), and the state that holds one given instruction where the next step fetches it. -/

namespace Sys2Proof.Machine

/-- What fetching comes to: an instruction to execute, or the state after a fetch fault or a trap on the word. -/
inductive Fetched where
  | instr (i : Instr) (s : State)
  | done (s : State)

/-- A fetched instruction: a word that does not decode takes an illegal-instruction trap (R39, R40). -/
def decoded (s : State) (c : Ctx) (w l : Word) : Fetched :=
  match decodeWords w l with
  | .instr i _ => .instr i s
  | .reject _ => .done (failed s c 1 w)

/-- Fetches the instruction at the strand's PC, with its second word where it has one. -/
def fetchInstr (s : State) (c : Ctx) : Fetched :=
  match fetchWord s c c.pc0 with
  | (.inr code, s) => .done (fetchFault s c code c.pc0)
  | (.inl w, s) =>
    if twoWord w then
      match fetchWord s c (c.pc0 + 4) with
      | (.inr code, s) => .done (fetchFault s c code (c.pc0 + 4))
      | (.inl l, s) => decoded s c w l
    else decoded s c w 0

/-- Fetches for the strand at work; with no live strand there is no run (log entry 24, DESIGN CHOICE). -/
def fetchStep (s : State) : Fetched :=
  match curCtx s with
  | none => .done { s with cur := none }
  | some c => fetchInstr s c

/-- The strand that a turn names starts or continues its run, where it has been given a port (R271). -/
def takeTurn (s : State) (core slot sid : Nat) : Option State :=
  match (getGroup s core slot).bind fun g => findStrand g sid with
  | some t => match t.status with
    | .running _ => some { s with cur := some (core, slot, sid) }
    | _ => none
  | none => none

/-! ## The order of a core's issues and arbitrations (R3, R129, R271) -/

/-- The cycle in which an instruction of the strand at work issues: its core has issued and arbitrated in no later one. -/
def dueCycle (s : State) (c : Ctx) (i : Instr) : Nat := max (issueCycle c (firstWord i)) (nowCycle s c.core)

/-- Something of the core comes before cycle `n`: an issue of another strand, or an arbitration (log entry 2, DESIGN CHOICE). -/
def comesFirst (s : State) (c : Ctx) (n : Nat) : Bool :=
  ((runners s c.core).any fun x => decide (x.1 < n) && x.2 != (c.slot, c.st.sid)) ||
    let s := readyCore s c.core
    issuing s && (List.range 4).any fun p => match arbCycle s c.core p with
      | some b => decide (b < n) && inTick s b
      | none => false

/-- The strand at work is not to issue before cycle `n`. -/
def waitTo (s : State) (c : Ctx) (n : Nat) : State := putCtx s { c with st := { c.st with due := n } }

/-- The core has come to cycle `n`, in which its strand at work issues. -/
def atCycle (s : State) (c : Ctx) (n : Nat) : State := waitTo (setCore s c.core { (getCore s c.core) with front := n }) c n

/-- The instruction of the strand at work issues now: its cycle is in the tick, and nothing of its core comes first. -/
def issuesNow (s : State) (c : Ctx) (i : Instr) : Bool := inTick s (dueCycle s c i) && !comesFirst s c (dueCycle s c i)

/-- What a fetched instruction comes to: it is executed in its cycle, or its strand waits for that. -/
def timed (i : Instr) (s : State) : Fetched :=
  match curCtx s with
  | none => .instr i s
  | some c => if issuesNow s c i then .instr i (atCycle s c (dueCycle s c i)) else .done (waitTo s c (dueCycle s c i))

/-- The strand at work, where a record of its own holds it (R283). -/
def curWaits (s : State) : Bool := match s.cur with | some (core, slot, sid) => waiting s (.strand core slot sid) | none => false

/-- The next instruction of the strand at work, at its time. -/
def nextInstr (s : State) : Fetched :=
  if curWaits s then .done s
  else
    match fetchStep s with
    | .instr i s => timed i s
    | .done s => .done s

/-- What comes next by itself. -/
inductive Next where
  | issue (core slot sid : Nat)
  | arbitrate (core port : Nat)
  | tick
  deriving DecidableEq, Repr

/-- The least by the cycle of each. -/
def firstNext (l : List (Nat × Next)) : Option (Nat × Next) := firstBy (fun a b => decide (a.1 < b.1)) l

/-- What a core does next in the tick: the earliest issue, or where no issue comes before it an arbitration. -/
def coreNext (s : State) (core : Nat) : Option Next :=
  let s := readyCore s core
  let runs := (runners s core).map fun x => (x.1, Next.issue core x.2.1 x.2.2)
  let arbs := if issuing s then (List.range 4).filterMap fun p => (arbCycle s core p).map fun b => (b, Next.arbitrate core p) else []
  (firstNext (arbs ++ runs)).bind fun x => if inTick s x.1 then some x.2 else none

/-- The cores that hold groups, that of the run in progress first. -/
def busyCores (s : State) : List Nat :=
  let l := (s.groups.map fun e => e.1 / 1024).eraseDups
  match s.cur with
  | some (c, _, _) => c :: l
  | none => l

/-- What happens next when the agenda names nothing: the issues and arbitrations of the tick, then the tick (log entry 2, DESIGN CHOICE). -/
def nextOf (s : State) : Next := ((busyCores s).findSome? (coreNext s)).getD .tick

/-! ## The clock (R364, R367) -/

/-- The arithmetic clock is stopped, or the dies are in reset: P3, P4, the thermal trip, minimal mode, no main power. -/
def clockStopped (s : State) : Bool := !diesUp s || s.mg.state == 3

/-- Events of the units that R364 names as stopping with the clock: issue, walkers, matrix engines, Carillons (log entry 4, DESIGN CHOICE). -/
def clockedEvent : Instr → Bool
  | .portArbitration _ _ => true
  | .instructionFetch _ _ _ => true
  | .walkerBeatGrant _ => true
  | .beatWrite _ _ => true
  | .blockFetch _ _ => true
  | .permitSatisfied _ _ => true
  | .waitBlockToken _ _ => true
  | .blockDrainComplete _ _ => true
  | .walkerFaultResume _ _ => true
  | .matrixOpStart _ => true
  | .matrixOpComplete _ => true
  | .mmapStart _ => true
  | .mmaxStart _ => true
  | .pairTimeout _ => true
  | .carillonOperation _ _ _ => true
  | .releasePerformed _ _ _ => true
  | .treeStep _ _ _ => true
  | .treeBackgroundFree _ => true
  | _ => false

/-- Events that need no compute die: those of power, starts, the A-die and the host, and the scrubs of a start (R364, R369). -/
def outerEvent : Instr → Bool
  | .tick => true
  | .mainPowerOn => true
  | .mainPowerRemoval => true
  | .startAttempt _ _ => true
  | .bootOkTimeout => true
  | .bootScrubTimeout => true
  | .bootstatOk => true
  | .bootstatClr => true
  | .scrubComplete _ => true
  | .thermalTrip _ => true
  | .thermalWarning _ => true
  | .powerStateCmd _ => true
  | .powerOffCmd => true
  | .powerCmdReserved _ => true
  | .powerLimitExceeded _ => true
  | .powerTransitionDone => true
  | .htcfgWrite _ _ => true
  | .registerWrite _ _ _ => true
  | .pcieLinkTrain _ _ _ => true
  | .vfMailboxWrite _ _ => true
  | .forwardedRequest _ => true
  | .getVersion => true
  | .getCapabilities _ => true
  | .negotiateAlgorithms _ _ => true
  | .getDigests => true
  | .getCertificate _ _ _ => true
  | .challenge _ _ => true
  | .getMeasurements _ _ _ => true
  | .unsupportedRequest _ => true
  | _ => false

/-- Whether a turn of an event happens. An encoded instruction is no event; an event of a unit whose clock is stopped or whose die is held in
reset does not happen; a tick does not end before the issues and arbitrations of its cycles, and its passes stand at its end
(R267, log entries 2 and 4, DESIGN CHOICE). -/
def happens (s : State) (i : Instr) : Bool :=
  match i with
  | .tick => nextOf s == .tick
  | .dispatchPass _ => false
  | i => !isEncoded i && !(clockStopped s && clockedEvent i) && (diesUp s || outerEvent i)

/-- The resident kernel signals a vector of a VF (R363). -/
def signalVf (s : State) (vf vector : Nat) : State :=
  if s.powered ∧ 1 ≤ vf ∧ vf ≤ 512 ∧ 1 ≤ vector ∧ vector ≤ 3 then { s with mg := { s.mg with msix := s.mg.msix ++ [(vf, vector)] } } else s

/-! ## A program of one instruction (log entry 3) -/

/-- The code page of that program: its virtual and physical address. -/
def codeVa : Nat := 0x10000
def codePa : Nat := 0x20000

/-- The leaf that maps it: V, L, W and X set, Tier H, class normal, selector as its domain has it (R59). -/
def codeLeaf (s : State) : Nat := 15 + 256 * (selectorAt s codePa).getD 0 + codePa

/-- The group of the program: 16 lanes, 64 registers, one strand that runs on port 0 at the page's first word and may issue from `cyc` on. -/
def codeGroup (uid cyc : Nat) : Group where
  core := 0
  slot := 0
  ctx := 0
  team := uid
  idx := 0
  width := 16
  nregs := 64
  strands := [{ sid := 0, pc := BitVec.ofNat 64 codeVa, mask := fullMask 16, status := .running 0, slot := true, cyc := cyc }]
  nextSid := 1

/-- Its team. -/
def codeTeam (uid : Nat) : Team where
  uid := uid
  ctx := 0
  fe := 0
  lslot := 0
  rcd := 0
  seq := 0
  cluster := 0
  cores := [0]
  statBase := 0
  accBases := []
  accSize := 0
  groups := 1
  left := none

/-- `s` with the instruction whose bits are `w` in memory, mapped for context 0, and a strand at it whose run is in
progress. -/
def placeWord (s : State) (nbits w : Nat) : State :=
  let s := { s with mem := memWrite s.mem codePa 8 (w % 2 ^ nbits), agenda := [], cur := some (0, 0, 0), nextUid := s.nextUid + 1 }
  let s := tlbFill s 0 0 codeVa (codeLeaf s) 12
  setGroup (setTeam s (codeTeam (s.nextUid - 1))) (codeGroup (s.nextUid - 1) ((s.clk + 9) / 10))

end Sys2Proof.Machine
end

