-- ==== Sys2Proof/Machine/Dispatch.lean ====
section
/-! DEFINITION. The meaning of each instruction and event: one arm for each constructor. -/

namespace Sys2Proof.Machine

/-- What an instruction or event does. -/
def exec (i : Instr) (s : State) : Host.Outcome State Fault Refusal :=
  match i with
  | .nop f => Sys2Proof.Machine.execNop f s
  | .mov f => Sys2Proof.Machine.execMov f s
  | .iadd f => Sys2Proof.Machine.execIadd f s
  | .isub f => Sys2Proof.Machine.execIsub f s
  | .imul f => Sys2Proof.Machine.execImul f s
  | .imulhs f => Sys2Proof.Machine.execImulhs f s
  | .imulhu f => Sys2Proof.Machine.execImulhu f s
  | .imad f => Sys2Proof.Machine.execImad f s
  | .imins f => Sys2Proof.Machine.execImins f s
  | .iminu f => Sys2Proof.Machine.execIminu f s
  | .imaxs f => Sys2Proof.Machine.execImaxs f s
  | .imaxu f => Sys2Proof.Machine.execImaxu f s
  | .and f => Sys2Proof.Machine.execAnd f s
  | .or f => Sys2Proof.Machine.execOr f s
  | .xor f => Sys2Proof.Machine.execXor f s
  | .andn f => Sys2Proof.Machine.execAndn f s
  | .shl f => Sys2Proof.Machine.execShl f s
  | .shrl f => Sys2Proof.Machine.execShrl f s
  | .shra f => Sys2Proof.Machine.execShra f s
  | .rotl f => Sys2Proof.Machine.execRotl f s
  | .shli f => Sys2Proof.Machine.execShli f s
  | .shrli f => Sys2Proof.Machine.execShrli f s
  | .shrai f => Sys2Proof.Machine.execShrai f s
  | .popc f => Sys2Proof.Machine.execPopc f s
  | .clz f => Sys2Proof.Machine.execClz f s
  | .brev f => Sys2Proof.Machine.execBrev f s
  | .bfx f => Sys2Proof.Machine.execBfx f s
  | .bfi f => Sys2Proof.Machine.execBfi f s
  | .iaddx f => Sys2Proof.Machine.execIaddx f s
  | .isubx f => Sys2Proof.Machine.execIsubx f s
  | .icmp f => Sys2Proof.Machine.execIcmp f s
  | .sel f => Sys2Proof.Machine.execSel f s
  | .wadd f => Sys2Proof.Machine.execWadd f s
  | .wsub f => Sys2Proof.Machine.execWsub f s
  | .wmulu f => Sys2Proof.Machine.execWmulu f s
  | .wmuls f => Sys2Proof.Machine.execWmuls f s
  | .wshl f => Sys2Proof.Machine.execWshl f s
  | .wshrl f => Sys2Proof.Machine.execWshrl f s
  | .wadds f => Sys2Proof.Machine.execWadds f s
  | .wcmp f => Sys2Proof.Machine.execWcmp f s
  | .fadd f => Sys2Proof.Machine.execFadd f s
  | .fsub f => Sys2Proof.Machine.execFsub f s
  | .fmul f => Sys2Proof.Machine.execFmul f s
  | .ffma f => Sys2Proof.Machine.execFfma f s
  | .fmin f => Sys2Proof.Machine.execFmin f s
  | .fmax f => Sys2Proof.Machine.execFmax f s
  | .fabs f => Sys2Proof.Machine.execFabs f s
  | .fneg f => Sys2Proof.Machine.execFneg f s
  | .fcmp f => Sys2Proof.Machine.execFcmp f s
  | .frcp f => Sys2Proof.Machine.execFrcp f s
  | .fsqrt f => Sys2Proof.Machine.execFsqrt f s
  | .frsq f => Sys2Proof.Machine.execFrsq f s
  | .fexp2 f => Sys2Proof.Machine.execFexp2 f s
  | .flog2 f => Sys2Proof.Machine.execFlog2 f s
  | .fsinr f => Sys2Proof.Machine.execFsinr f s
  | .fcosr f => Sys2Proof.Machine.execFcosr f s
  | .frint f => Sys2Proof.Machine.execFrint f s
  | .ffloor f => Sys2Proof.Machine.execFfloor f s
  | .fdiv f => Sys2Proof.Machine.execFdiv f s
  | .fclass f => Sys2Proof.Machine.execFclass f s
  | .fscale f => Sys2Proof.Machine.execFscale f s
  | .fcpsgn f => Sys2Proof.Machine.execFcpsgn f s
  | .fsat f => Sys2Proof.Machine.execFsat f s
  | .dadd f => Sys2Proof.Machine.execDadd f s
  | .dsub f => Sys2Proof.Machine.execDsub f s
  | .dmul f => Sys2Proof.Machine.execDmul f s
  | .dfma f => Sys2Proof.Machine.execDfma f s
  | .dmin f => Sys2Proof.Machine.execDmin f s
  | .dmax f => Sys2Proof.Machine.execDmax f s
  | .ddiv f => Sys2Proof.Machine.execDdiv f s
  | .dsqrt f => Sys2Proof.Machine.execDsqrt f s
  | .dcmp f => Sys2Proof.Machine.execDcmp f s
  | .drint f => Sys2Proof.Machine.execDrint f s
  | .dabs f => Sys2Proof.Machine.execDabs f s
  | .dneg f => Sys2Proof.Machine.execDneg f s
  | .hadd2 f => Sys2Proof.Machine.execHadd2 f s
  | .hmul2 f => Sys2Proof.Machine.execHmul2 f s
  | .hfma2 f => Sys2Proof.Machine.execHfma2 f s
  | .hmin2 f => Sys2Proof.Machine.execHmin2 f s
  | .hmax2 f => Sys2Proof.Machine.execHmax2 f s
  | .dot4s f => Sys2Proof.Machine.execDot4s f s
  | .dot4u f => Sys2Proof.Machine.execDot4u f s
  | .hdot2 f => Sys2Proof.Machine.execHdot2 f s
  | .cvt f => Sys2Proof.Machine.execCvt f s
  | .qdx4 f => Sys2Proof.Machine.execQdx4 f s
  | .qdx8 f => Sys2Proof.Machine.execQdx8 f s
  | .qaq8 f => Sys2Proof.Machine.execQaq8 f s
  | .shfli f => Sys2Proof.Machine.execShfli f s
  | .shflx f => Sys2Proof.Machine.execShflx f s
  | .shflu f => Sys2Proof.Machine.execShflu f s
  | .shfld f => Sys2Proof.Machine.execShfld f s
  | .radd f => Sys2Proof.Machine.execRadd f s
  | .rfadd f => Sys2Proof.Machine.execRfadd f s
  | .rmins f => Sys2Proof.Machine.execRmins f s
  | .rmaxs f => Sys2Proof.Machine.execRmaxs f s
  | .plog f => Sys2Proof.Machine.execPlog f s
  | .ptov f => Sys2Proof.Machine.execPtov f s
  | .vtop f => Sys2Proof.Machine.execVtop f s
  | .ldo f => Sys2Proof.Machine.execLdo f s
  | .ldoD f => Sys2Proof.Machine.execLdoD f s
  | .ldoQ f => Sys2Proof.Machine.execLdoQ f s
  | .sto f => Sys2Proof.Machine.execSto f s
  | .stoD f => Sys2Proof.Machine.execStoD f s
  | .stoQ f => Sys2Proof.Machine.execStoQ f s
  | .oadd f => Sys2Proof.Machine.execOadd f s
  | .omaxu f => Sys2Proof.Machine.execOmaxu f s
  | .ldg f => Sys2Proof.Machine.execLdg f s
  | .ldgD f => Sys2Proof.Machine.execLdgD f s
  | .ldgQ f => Sys2Proof.Machine.execLdgQ f s
  | .stg f => Sys2Proof.Machine.execStg f s
  | .stgD f => Sys2Proof.Machine.execStgD f s
  | .stgQ f => Sys2Proof.Machine.execStgQ f s
  | .credf f => Sys2Proof.Machine.execCredf f s
  | .credd f => Sys2Proof.Machine.execCredd f s
  | .aadd f => Sys2Proof.Machine.execAadd f s
  | .amins f => Sys2Proof.Machine.execAmins f s
  | .amaxs f => Sys2Proof.Machine.execAmaxs f s
  | .aand f => Sys2Proof.Machine.execAand f s
  | .aor f => Sys2Proof.Machine.execAor f s
  | .axor f => Sys2Proof.Machine.execAxor f s
  | .axchg f => Sys2Proof.Machine.execAxchg f s
  | .acas f => Sys2Proof.Machine.execAcas f s
  | .gnop f => Sys2Proof.Machine.execGnop f s
  | .kmov f => Sys2Proof.Machine.execKmov f s
  | .jmov f => Sys2Proof.Machine.execJmov f s
  | .klit f => Sys2Proof.Machine.execKlit f s
  | .klith f => Sys2Proof.Machine.execKlith f s
  | .kadd f => Sys2Proof.Machine.execKadd f s
  | .jadd f => Sys2Proof.Machine.execJadd f s
  | .ksub f => Sys2Proof.Machine.execKsub f s
  | .jsub f => Sys2Proof.Machine.execJsub f s
  | .kmul f => Sys2Proof.Machine.execKmul f s
  | .kand f => Sys2Proof.Machine.execKand f s
  | .kor f => Sys2Proof.Machine.execKor f s
  | .kxor f => Sys2Proof.Machine.execKxor f s
  | .kshl f => Sys2Proof.Machine.execKshl f s
  | .jshl f => Sys2Proof.Machine.execJshl f s
  | .kshrl f => Sys2Proof.Machine.execKshrl f s
  | .jshrl f => Sys2Proof.Machine.execJshrl f s
  | .kshra f => Sys2Proof.Machine.execKshra f s
  | .kcmp f => Sys2Proof.Machine.execKcmp f s
  | .jcmp f => Sys2Proof.Machine.execJcmp f s
  | .ksel f => Sys2Proof.Machine.execKsel f s
  | .kaddi f => Sys2Proof.Machine.execKaddi f s
  | .voteAny f => Sys2Proof.Machine.execVoteAny f s
  | .voteAll f => Sys2Proof.Machine.execVoteAll f s
  | .voteNone f => Sys2Proof.Machine.execVoteNone f s
  | .ballot f => Sys2Proof.Machine.execBallot f s
  | .kread f => Sys2Proof.Machine.execKread f s
  | .rdsv f => Sys2Proof.Machine.execRdsv f s
  | .bra f => Sys2Proof.Machine.execBra f s
  | .brd f => Sys2Proof.Machine.execBrd f s
  | .brx f => Sys2Proof.Machine.execBrx f s
  | .call f => Sys2Proof.Machine.execCall f s
  | .callx f => Sys2Proof.Machine.execCallx f s
  | .ret f => Sys2Proof.Machine.execRet f s
  | .regang f => Sys2Proof.Machine.execRegang f s
  | .part f => Sys2Proof.Machine.execPart f s
  | .exit f => Sys2Proof.Machine.execExit f s
  | .yield f => Sys2Proof.Machine.execYield f s
  | .setfmt f => Sys2Proof.Machine.execSetfmt f s
  | .setfmtLk f => Sys2Proof.Machine.execSetfmtLk f s
  | .getfmt f => Sys2Proof.Machine.execGetfmt f s
  | .getfmtLk f => Sys2Proof.Machine.execGetfmtLk f s
  | .mma f => Sys2Proof.Machine.execMma f s
  | .mmap f => Sys2Proof.Machine.execMmap f s
  | .mmax f => Sys2Proof.Machine.execMmax f s
  | .mclr f => Sys2Proof.Machine.execMclr f s
  | .msta f => Sys2Proof.Machine.execMsta f s
  | .mlda f => Sys2Proof.Machine.execMlda f s
  | .mfence f => Sys2Proof.Machine.execMfence f s
  | .mgath f => Sys2Proof.Machine.execMgath f s
  | .copy f => Sys2Proof.Machine.execCopy f s
  | .tile f => Sys2Proof.Machine.execTile f s
  | .puts f => Sys2Proof.Machine.execPuts f s
  | .chain f => Sys2Proof.Machine.execChain f s
  | .token f => Sys2Proof.Machine.execToken f s
  | .estat f => Sys2Proof.Machine.execEstat f s
  | .cadd f => Sys2Proof.Machine.execCadd f s
  | .cwait f => Sys2Proof.Machine.execCwait f s
  | .cread f => Sys2Proof.Machine.execCread f s
  | .bar f => Sys2Proof.Machine.execBar f s
  | .bara f => Sys2Proof.Machine.execBara f s
  | .barw f => Sys2Proof.Machine.execBarw f s
  | .phase f => Sys2Proof.Machine.execPhase f s
  | .rel f => Sys2Proof.Machine.execRel f s
  | .acq f => Sys2Proof.Machine.execAcq f s
  | .oalloc f => Sys2Proof.Machine.execOalloc f s
  | .ofree f => Sys2Proof.Machine.execOfree f s
  | .orenew f => Sys2Proof.Machine.execOrenew f s
  | .launch f => Sys2Proof.Machine.execLaunch f s
  | .tspawn f => Sys2Proof.Machine.execTspawn f s
  | .tspawnEos f => Sys2Proof.Machine.execTspawnEos f s
  | .tdesc f => Sys2Proof.Machine.execTdesc f s
  | .texpand f => Sys2Proof.Machine.execTexpand f s
  | .tback f => Sys2Proof.Machine.execTback f s
  | .troot f => Sys2Proof.Machine.execTroot f s
  | .tfree f => Sys2Proof.Machine.execTfree f s
  | .tnew f => Sys2Proof.Machine.execTnew f s
  | .bsplit f => Sys2Proof.Machine.execBsplit f s
  | .bpoint f => Sys2Proof.Machine.execBpoint f s
  | .bopen f => Sys2Proof.Machine.execBopen f s
  | .trap f => Sys2Proof.Machine.execTrap f s
  | .rte f => Sys2Proof.Machine.execRte f s
  | .rteTo f => Sys2Proof.Machine.execRteTo f s
  | .bkpt f => Sys2Proof.Machine.execBkpt f s
  | .rdctl f => Sys2Proof.Machine.execRdctl f s
  | .wrctl f => Sys2Proof.Machine.execWrctl f s
  | .sleep f => Sys2Proof.Machine.execSleep f s
  | .mhint f => Sys2Proof.Machine.execMhint f s
  | .oswap f => Sys2Proof.Machine.execOswap f s
  | .errinj f => Sys2Proof.Machine.execErrinj f s
  | .eread f => Sys2Proof.Machine.execEread f s
  | .halt f => Sys2Proof.Machine.execHalt f s
  | .mainPowerOn => Sys2Proof.Machine.execMainPowerOn s
  | .mainPowerRemoval => Sys2Proof.Machine.execMainPowerRemoval s
  | .startAttempt memOk linkOk => Sys2Proof.Machine.execStartAttempt memOk linkOk s
  | .bootOkTimeout => Sys2Proof.Machine.execBootOkTimeout s
  | .bootstatOk => Sys2Proof.Machine.execBootstatOk s
  | .bootstatClr => Sys2Proof.Machine.execBootstatClr s
  | .tick => Sys2Proof.Machine.execTick s
  | .thermalTrip temp => Sys2Proof.Machine.execThermalTrip temp s
  | .thermalWarning temp => Sys2Proof.Machine.execThermalWarning temp s
  | .powerLimitExceeded watts => Sys2Proof.Machine.execPowerLimitExceeded watts s
  | .powerStateCmd cmd => Sys2Proof.Machine.execPowerStateCmd cmd s
  | .powerOffCmd => Sys2Proof.Machine.execPowerOffCmd s
  | .powerCmdReserved cmd => Sys2Proof.Machine.execPowerCmdReserved cmd s
  | .powerTransitionDone => Sys2Proof.Machine.execPowerTransitionDone s
  | .htcfgWrite die val => Sys2Proof.Machine.execHtcfgWrite die val s
  | .pcieLinkTrain port gen width => Sys2Proof.Machine.execPcieLinkTrain port gen width s
  | .vfMailboxWrite vf val => Sys2Proof.Machine.execVfMailboxWrite vf val s
  | .portDmaRequest storage asid va write val => Sys2Proof.Machine.execPortDmaRequest storage asid va write val s
  | .forwardedRequest addr => Sys2Proof.Machine.execForwardedRequest addr s
  | .getVersion => Sys2Proof.Machine.execGetVersion s
  | .getCapabilities ver => Sys2Proof.Machine.execGetCapabilities ver s
  | .negotiateAlgorithms mlDsa sha3 => Sys2Proof.Machine.execNegotiateAlgorithms mlDsa sha3 s
  | .getDigests => Sys2Proof.Machine.execGetDigests s
  | .getCertificate cslot off len => Sys2Proof.Machine.execGetCertificate cslot off len s
  | .challenge cslot nonce => Sys2Proof.Machine.execChallenge cslot nonce s
  | .getMeasurements idx signed nonce => Sys2Proof.Machine.execGetMeasurements idx signed nonce s
  | .unsupportedRequest code => Sys2Proof.Machine.execUnsupportedRequest code s
  | .txinvcGo die val => Sys2Proof.Machine.execTxinvcGo die val s
  | .invalidationComplete die => Sys2Proof.Machine.execInvalidationComplete die s
  | .frresumeGo die val => Sys2Proof.Machine.execFrresumeGo die val s
  | .logEntryReplay core idx => Sys2Proof.Machine.execLogEntryReplay core idx s
  | .teamResume die cluster core grp => Sys2Proof.Machine.execTeamResume die cluster core grp s
  | .teamRenew die cluster core grp units => Sys2Proof.Machine.execTeamRenew die cluster core grp units s
  | .teamMove die cluster core grp => Sys2Proof.Machine.execTeamMove die cluster core grp s
  | .teamEnd die cluster core grp => Sys2Proof.Machine.execTeamEnd die cluster core grp s
  | .teamRestart die cluster core grp => Sys2Proof.Machine.execTeamRestart die cluster core grp s
  | .teamcmdReservedOp die val => Sys2Proof.Machine.execTeamcmdReservedOp die val s
  | .contextStop ctx stop => Sys2Proof.Machine.execContextStop ctx stop s
  | .contextKill ctx => Sys2Proof.Machine.execContextKill ctx s
  | .cccmdSetCounter die => Sys2Proof.Machine.execCccmdSetCounter die s
  | .cccmdClearPage die => Sys2Proof.Machine.execCccmdClearPage die s
  | .cccmdRead die => Sys2Proof.Machine.execCccmdRead die s
  | .cccmdReserved die => Sys2Proof.Machine.execCccmdReserved die s
  | .csplitWrite die val => Sys2Proof.Machine.execCsplitWrite die val s
  | .chctlClear die tierL ch => Sys2Proof.Machine.execChctlClear die tierL ch s
  | .chctlFreeze die tierL ch on => Sys2Proof.Machine.execChctlFreeze die tierL ch on s
  | .counterWrite die tierL ch which val => Sys2Proof.Machine.execCounterWrite die tierL ch which val s
  | .fedoor fe val => Sys2Proof.Machine.execFedoor fe val s
  | .fecfgWrite fe val => Sys2Proof.Machine.execFecfgWrite fe val s
  | .registerWrite addr size val => Sys2Proof.Machine.execRegisterWrite addr size val s
  | .instructionFetch core slot sid => Sys2Proof.Machine.execInstructionFetch core slot sid s
  | .pageTableWalk unit asid va => Sys2Proof.Machine.execPageTableWalk unit asid va s
  | .portArbitration core port => Sys2Proof.Machine.execPortArbitration core port s
  | .resultReturn core slot id => Sys2Proof.Machine.execResultReturn core slot id s
  | .trapDelivery core slot sid => Sys2Proof.Machine.execTrapDelivery core slot sid s
  | .releasePerformed core slot sid => Sys2Proof.Machine.execReleasePerformed core slot sid s
  | .acquirePerformed core slot sid => Sys2Proof.Machine.execAcquirePerformed core slot sid s
  | .carillonOperation core slot sid => Sys2Proof.Machine.execCarillonOperation core slot sid s
  | .cwaitWake core slot sid => Sys2Proof.Machine.execCwaitWake core slot sid s
  | .cwaitTimeout core slot sid => Sys2Proof.Machine.execCwaitTimeout core slot sid s
  | .sleepWake core slot sid => Sys2Proof.Machine.execSleepWake core slot sid s
  | .barrierRelease core slot scope line => Sys2Proof.Machine.execBarrierRelease core slot scope line s
  | .matrixOpStart core => Sys2Proof.Machine.execMatrixOpStart core s
  | .matrixOpComplete core => Sys2Proof.Machine.execMatrixOpComplete core s
  | .mmapStart pair => Sys2Proof.Machine.execMmapStart pair s
  | .mmaxStart cluster => Sys2Proof.Machine.execMmaxStart cluster s
  | .pairTimeout core => Sys2Proof.Machine.execPairTimeout core s
  | .oswapComplete core => Sys2Proof.Machine.execOswapComplete core s
  | .registerDeckMove core slot sid deck => Sys2Proof.Machine.execRegisterDeckMove core slot sid deck s
  | .registerRecall core slot sid => Sys2Proof.Machine.execRegisterRecall core slot sid s
  | .tierRefresh die tierL ch waits => Sys2Proof.Machine.execTierRefresh die tierL ch waits s
  | .memoryChannelRequest pa sel ctx write activates conflict => Sys2Proof.Machine.execMemoryChannelRequest pa sel ctx write activates conflict s
  | .walkerBeatGrant walker => Sys2Proof.Machine.execWalkerBeatGrant walker s
  | .beatWrite walker wslot => Sys2Proof.Machine.execBeatWrite walker wslot s
  | .blockFetch walker wslot => Sys2Proof.Machine.execBlockFetch walker wslot s
  | .permitSatisfied walker wslot => Sys2Proof.Machine.execPermitSatisfied walker wslot s
  | .waitBlockToken walker wslot => Sys2Proof.Machine.execWaitBlockToken walker wslot s
  | .blockDrainComplete walker wslot => Sys2Proof.Machine.execBlockDrainComplete walker wslot s
  | .walkerFaultResume walker wslot => Sys2Proof.Machine.execWalkerFaultResume walker wslot s
  | .launchProcess fe => Sys2Proof.Machine.execLaunchProcess fe s
  | .pageMove fe => Sys2Proof.Machine.execPageMove fe s
  | .mhintRequest core => Sys2Proof.Machine.execMhintRequest core s
  | .conditionTest cluster seq cond => Sys2Proof.Machine.execConditionTest cluster seq cond s
  | .dispatchPass cluster => Sys2Proof.Machine.execDispatchPass cluster s
  | .queueUnspill cluster => Sys2Proof.Machine.execQueueUnspill cluster s
  | .budgetExhausted team => Sys2Proof.Machine.execBudgetExhausted team s
  | .teamEndRelease team => Sys2Proof.Machine.execTeamEndRelease team s
  | .launchCompletion fe lslot => Sys2Proof.Machine.execLaunchCompletion fe lslot s
  | .teamSave team => Sys2Proof.Machine.execTeamSave team s
  | .revocationWindowExpiry cluster => Sys2Proof.Machine.execRevocationWindowExpiry cluster s
  | .scrubStart cluster => Sys2Proof.Machine.execScrubStart cluster s
  | .scrubComplete cluster => Sys2Proof.Machine.execScrubComplete cluster s
  | .ringRecordWrite => Sys2Proof.Machine.execRingRecordWrite s
  | .ringHeadReread kind key => Sys2Proof.Machine.execRingHeadReread kind key s
  | .correctedError kind inst addr ctx syndrome => Sys2Proof.Machine.execCorrectedError kind inst addr ctx syndrome s
  | .uncorrectableError kind inst addr ctx syndrome => Sys2Proof.Machine.execUncorrectableError kind inst addr ctx syndrome s
  | .treeStep core slot sid => Sys2Proof.Machine.execTreeStep core slot sid s
  | .treeBackgroundFree die => Sys2Proof.Machine.execTreeBackgroundFree die s
  | .boundsTileAppend fe => Sys2Proof.Machine.execBoundsTileAppend fe s
  | .boundsTaskIssue fe lslot => Sys2Proof.Machine.execBoundsTaskIssue fe lslot s
  | .bootScrubTimeout => Sys2Proof.Machine.execBootScrubTimeout s
  | .releaseRingRoom fe => Sys2Proof.Machine.execReleaseRingRoom fe s

end Sys2Proof.Machine
end

