-- ==== Sys2Proof/Machine/Step.lean ====
section
/-! DEFINITION. One step: the next turn of the agenda, else what comes next by itself. -/

namespace Sys2Proof.Machine

/-- The next instruction of the strand at work. -/
def runStep (s : State) : Host.Outcome State Fault Refusal :=
  match nextInstr s with
  | .instr i s => exec i s
  | .done s => .next s

/-- The next instruction of a strand, where it holds a port. -/
def issueStep (core slot sid : Nat) (s : State) : Host.Outcome State Fault Refusal :=
  match takeTurn s core slot sid with
  | some s => runStep s
  | none => .next s

/-- One turn: an event, where it happens; an instruction of a strand; a signal of the resident kernel. -/
def turnStep (t : Turn) (s : State) : Host.Outcome State Fault Refusal :=
  match t with
  | .event i => if happens s i then exec i s else .next s
  | .issue core slot sid => issueStep core slot sid s
  | .signal vf vector => .next (signalVf s vf vector)

/-- What comes next by itself. -/
def idleStep (s : State) : Host.Outcome State Fault Refusal :=
  match nextOf s with
  | .issue core slot sid => issueStep core slot sid s
  | .arbitrate core port => execPortArbitration core port s
  | .tick => execTick s

/-- One step of the machine (log entry 2). -/
def step (s : State) : Host.Outcome State Fault Refusal :=
  match s.agenda with
  | t :: rest => turnStep t { s with agenda := rest }
  | [] => idleStep s

/-- `s` with one instruction where the next step fetches it (log entry 3). -/
def State.withFetchWord (s : State) (nbits w : Nat) : State := placeWord s nbits w

end Sys2Proof.Machine
end

