-- ==== Sys2Proof/Safety.lean ====
section
/-! DEFINITION. The terms in which claims are stated: what counts as a safe run, what an instruction has left untouched, and
what it means that one has completed. -/

namespace Sys2Proof

open Machine

/-! ## Runs -/

/-- The invariant that claims about every state may use: memory is listed in canonical form. -/
def Inv (s : State) : Prop := Memory.wf s.mem = true

/-- A step that answers a next state. -/
def Steps (s t : State) : Prop := step s = .next t

/-! ## What an instruction leaves as it was -/

/-- A team without its budget. -/
def budgetless (t : Team) : Team := { t with left := none, budgetStop := false }

/-- Outside the group of `c`, `t` is `s` but for the energy counters and port arbitration of that core, the budgets of
teams and the run in progress. -/
structure Untouched (c : Ctx) (s t : State) : Prop where
  state : t = { s with cores := t.cores, groups := t.groups, teams := t.teams, cur := t.cur }
  core : getCore t c.core =
    { getCore s c.core with energy := (getCore t c.core).energy, ports := (getCore t c.core).ports }
  cores : ∀ n, n ≠ c.core → getCore t n = getCore s n
  groups : ∀ i j, gkey i j ≠ gkey c.core c.slot → getGroup t i j = getGroup s i j
  teams : ∀ u, (getTeam t u).map budgetless = (getTeam s u).map budgetless

/-- Instruction `i`, issued in `s` by the strand of `c`, has completed in `t`, where that strand is the one of `c'`. `e` is
the state before the issue with the instruction's own effect outside its group: nothing else has changed there. E = 1 has
ended the run (R30, R32), E = 0 has not. -/
structure Completed (i : Instr) (c : Ctx) (e t : State) (c' : Ctx) : Prop where
  strand : ctxAt t c.core c.slot c.st.sid = some c'
  untouched : Untouched c e t
  others : ∀ sid, sid ≠ c.st.sid → findStrand c'.g sid = findStrand c.g sid
  run : eOf i = false → t.cur = some (c.core, c.slot, c.st.sid) ∧ c'.st.status = c.st.status ∧ c'.st.cnt = c.st.cnt + 1
  ended : eOf i = true → t.cur = none ∧ c'.st.status = .ready ∧ c'.st.cnt = 0 ∧ c'.st.lat = []

/-- The address after an instruction. -/
def nextPc (i : Instr) (c : Ctx) : Dword := c.st.pc + BitVec.ofNat 64 (instrLen i)

/-- The context of an instruction as its issue cycle finds it: of the writes of k, q and G on their way, those that have taken effect
by then have been made, and k and q show as well those of its own strand that reach it in that cycle (R126, R190). -/
def atIssue (c : Ctx) (i : Instr) : Ctx := { c with g := (begun c i).g }

/-- Instruction `i` issues in `s` and performs its own execution: `c` is the strand at work with its group as the issue cycle finds it. -/
def Issues (i : Instr) (s : State) (c : Ctx) : Prop := ∃ k, Ready i s k ∧ c = atIssue k i

/-- The group is as it was but for v. -/
def OnlyV (g h : Group) : Prop := h = { g with v := h.v, strands := h.strands }

/-- The same for predicates and their open bits. -/
def OnlyP (g h : Group) : Prop := h = { g with p := h.p, op := h.op, strands := h.strands }

/-- No register of the group has changed, and no write is on its way that was not before. -/
def NoRegs (g h : Group) : Prop := h = { g with strands := h.strands }

/-- The strand is as it was but for its PC, its run, and its cycle counts. -/
def OnlyPc (t u : Strand) : Prop :=
  u = { t with
    pc := u.pc, status := u.status, cnt := u.cnt, lat := u.lat, occ := u.occ, cyc := u.cyc, sb := u.sb, due := u.due, paid := u.paid }

/-- The same but for FX. -/
def OnlyFx (t u : Strand) : Prop := OnlyPc { t with fx := u.fx } u

/-! ## Results of lanes -/

/-- The word that a result `x` for a destination slot of kind `k` at code `d` puts in register `r`: none where it writes
none (R17, R18). -/
def dstWord (k : SK) (d x r : Nat) : Option Word :=
  if 96 ≤ d then none
  else
    match k with
    | .none => none
    | .n => if r = d then some (BitVec.ofNat 32 x) else none
    | .q => if d ≤ r ∧ r < d + 4 then some (BitVec.ofNat 32 (x / 2 ^ (32 * (r - d)))) else none
    | _ => if d ≤ r ∧ r < d + 2 then some (BitVec.ofNat 32 (x / 2 ^ (32 * (r - d)))) else none

/-- What a latch position holds for a lane (R22). -/
def latchHas (m : Latch) (l : Nat) : Option Nat :=
  match m with
  | .void => none
  | .narrow v => some (mget 0 v l).toNat
  | .wide v => some (mget 0 v l).toNat

/-- What the position of an instruction whose results for the lanes `ls` are `f` holds (R22). -/
def latchShould (k : SK) (ls : List Nat) (f : Nat → Nat) (l : Nat) : Option Nat :=
  match k with
  | .none => none
  | .q => none
  | .n => some (if l ∈ ls then f l % 2 ^ 32 else 0)
  | _ => some (if l ∈ ls then f l % 2 ^ 64 else 0)

/-- The lanes `ls` have taken the results `f` in the destination `d` and ORed the flags `fl` into FX; nothing else has
changed (R15, R22, R128). -/
structure LaneDone (i : Instr) (c : Ctx) (s t : State) (c' : Ctx) (k : SK) (d : Nat) (ls : List Nat) (f : Nat → Nat)
    (fl : Word) : Prop where
  done : Completed i c s t c'
  pc : c'.st.pc = nextPc i c
  strand : OnlyFx c.st c'.st
  fx : c'.st.fx = c.st.fx ||| fl
  group : OnlyV (issued c i) c'.g
  regs : ∀ l r, r < 96 → readV c'.g l r =
    if l ∈ ls then (dstWord k d (f l) r).getD (readV c.g l r) else readV c.g l r
  latch : eOf i = false → ∃ m, c'.st.lat = c.st.lat ++ [m] ∧ ∀ l, latchHas m l = latchShould k ls f l

/-- The lanes `ls` have taken the values `f` (value, open bit) in predicate `n`, and nothing else has changed (R22,
R133). -/
structure PredDone (i : Instr) (c : Ctx) (s t : State) (c' : Ctx) (n : Nat) (ls : List Nat) (f : Nat → Bool × Bool)
    (fl : Word) : Prop where
  done : Completed i c s t c'
  pc : c'.st.pc = nextPc i c
  strand : OnlyFx c.st c'.st
  fx : c'.st.fx = c.st.fx ||| fl
  group : OnlyP (issued c i) c'.g
  preds : ∀ l m, m < 8 → readP c'.g l m = if l ∈ ls ∧ m = n ∧ n ≠ 0 then (f l).1 else readP c.g l m
  opens : ∀ l m, m < 8 → readOpen c'.g l m = if l ∈ ls ∧ m = n ∧ n ≠ 0 then (f l).2 else readOpen c.g l m
  latch : eOf i = false → c'.st.lat = c.st.lat ++ [.void]

/-! ## Results in uniform registers -/

/-- The write of `x` to k[d]. A write is its register's key and the value: r for k[r], 64 + n for q[n], 128 + n for G[n]. -/
def kIs (d : Nat) (x : Word) : List (Nat × Word) := [(d, x)]

/-- The writes of `x` to the pair j[d], low half in the even register (R121). -/
def jIs (d : Nat) (x : Dword) : List (Nat × Word) := [(d, x.extractLsb' 0 32), (d + 1, x.extractLsb' 32 32)]

/-- The write of `x` to q[n]; q0 is never written (R121). -/
def qIs (n : Nat) (x : Bool) : List (Nat × Word) := if n = 0 then [] else [(64 + n, BitVec.ofNat 32 x.toNat)]

/-- The write of `x` to G[n] (R190). -/
def gIs (n : Nat) (x : BitVec 16) : List (Nat × Word) := [(128 + n, x.setWidth 32)]

/-- The group of `c` with the writes `ws` of instruction `i` on their way: each takes effect λ cycles after the last issue cycle of `i`,
behind every write that takes effect earlier, or in the same cycle through a port of the same or a lower number (R126, R130, R190). -/
def writing (c : Ctx) (i : Instr) (ws : List (Nat × Word)) : Group :=
  { issued c i with
    uq := ws.foldl (fun q w => uInsert ⟨landCycle c (firstWord i), portOf c.st, c.st.sid, w.1, w.2⟩ q) (issued c i).uq }

/-- Instruction `i` has written the uniform registers that `ws` names, and nothing else has changed. -/
structure UniDone (i : Instr) (c : Ctx) (s t : State) (c' : Ctx) (ws : List (Nat × Word)) : Prop where
  done : Completed i c s t c'
  pc : c'.st.pc = nextPc i c
  strand : OnlyPc c.st c'.st
  group : NoRegs (writing c i ws) c'.g
  latch : eOf i = false → c'.st.lat = c.st.lat

/-! ## Effects on the strand alone, traps, and ends -/

/-- No operation that the strand has sent toward memory, but for tree operations, is still to be performed. -/
def Quiet (c : Ctx) : Prop := ∀ x ∈ c.g.ops, x.sid = c.st.sid → x.op.isTree = true

/-- The strand has become `u`, but for its run and its cycle counts; no register has changed. -/
structure StrandDone (i : Instr) (c : Ctx) (s t : State) (c' : Ctx) (u : Strand) : Prop where
  done : Completed i c s t c'
  pc : c'.st.pc = u.pc
  strand : OnlyPc u c'.st
  group : NoRegs (issued c i) c'.g
  latch : eOf i = false → c'.st.lat = u.lat

/-- The entry for a cause that a trap of the strand of `c` reads in `s` (R275): the strand is in no handler, and the entry can be read
without an error and holds `h`. The read leaves `e`. -/
structure TableAt (s : State) (c : Ctx) (cause : Nat) (e : State) (h : Dword) : Prop where
  outside : c.st.hnd = false
  entry : ∃ pa dev go s', translate s c.core (dieOf c.core) c.g.ctx.toNat (.load 8) 8
      (bits (ctxBlock s (dieOf c.core) c.g.ctx.toNat).ttbase.toNat 56 8 * 256 + 8 * cause) false = (.ok pa dev go, s') ∧
    errReadMem s' pa 8 c.core c.g.ctx.toNat = (false, e) ∧ memRead e.mem pa 8 = h.toNat

/-- The handler for a cause that a trap of the strand of `c` finds in `s` (R275): its entry of the table, which the context has enabled,
holds the address `h`, not zero. -/
structure HandlerAt (s : State) (c : Ctx) (cause : Nat) (e : State) (h : Dword) : Prop where
  table : TableAt s c cause e h
  valid : (ctxBlock s (dieOf c.core) c.g.ctx.toNat).ttbase.getLsbD 0 = true
  handler : h ≠ 0

/-- The strand of `c` has taken a trap (R274, R275): CAUSE, EPC, VALUE and FPC hold what they should, HND is 1, and a region
has begun at the handler, where the strand is ready; its run has ended. Apart from `e`, the state after the read of the
trap table, nothing else has changed: `g` is the group as the trap found it. -/
structure Trapped (c : Ctx) (g : Group) (e t : State) (cause sub : Nat) (value epc h : Dword) (c' : Ctx) : Prop where
  strand : ctxAt t c.core c.slot c.st.sid = some c'
  untouched : Untouched c e t
  others : ∀ sid, sid ≠ c.st.sid → findStrand c'.g sid = findStrand c.g sid
  group : NoRegs g c'.g
  saved : OnlyPc (regionAt { c.st with
    cause := BitVec.ofNat 32 (cause + 256 * sub), epc := epc, value := value, fpc := c.pc0, hnd := true, pc := h }) c'.st
  pc : c'.st.pc = h
  ended : t.cur = none ∧ c'.st.status = .ready ∧ c'.st.cnt = 0 ∧ c'.st.lat = []

/-- The strand of `c` has stopped with a cause of 16 to 20 (R275, R284): it holds no issue slot, CAUSE, EPC and VALUE are
written, and one record with `code` has been posted to `e`'s reporting port by the strand; `g` is the group as the stop found it. -/
structure StoppedAs (c : Ctx) (g : Group) (e t : State) (cause sub : Nat) (value : Dword) (code : Nat) (c' : Ctx) : Prop where
  strand : ctxAt t c.core c.slot c.st.sid = some c'
  untouched : Untouched c e { t with rep := e.rep }
  report : t.rep = (post e (.strand c.core c.slot c.st.sid) code 0 c.g.ctx.toNat 0 (locStrand c.core c.slot 0) 0 c.pc0.toNat).rep
  others : ∀ sid, sid ≠ c.st.sid → findStrand c'.g sid = findStrand c.g sid
  group : NoRegs g c'.g
  saved : OnlyPc { c.st with
    cause := BitVec.ofNat 32 (cause + 256 * sub), epc := c.pc0, value := value, fpc := c.pc0, slot := false } c'.st
  stopped : t.cur = none ∧ c'.st.status = .stopped cause none ∧ c'.st.pc = c.pc0

/-! ## Splits and joins -/

/-- The strand of `c` has been replaced by one strand for each of `ps`, each ready at the start of a region, numbered on from
the group's next number and ranked in that order (R242, R253); each has a copy of the scoreboard (R242). The join stack is `js`; apart
from `e` and the group nothing else has changed. -/
structure SplitDone (i : Instr) (c : Ctx) (e t : State) (u : Strand) (ps : List SPart) (js : List Join) (h : Group) : Prop where
  group : getGroup t c.core c.slot = some h
  untouched : Untouched c e t
  rest : h = { issued c i with strands := h.strands, nextSid := c.g.nextSid + ps.length, nextId := c.g.nextId + 1, join := js }
  parts : ∃ us, h.strands = c.g.strands.filter (fun x => x.sid != c.st.sid) ++ us ∧ us.length = ps.length ∧
    ∀ n p, ps[n]? = some p → ∃ x, us[n]? = some x ∧ x.sid = c.g.nextSid + n ∧ x.pc = p.pc ∧ x.status = .ready ∧ x.cnt = 0 ∧
      x.lat = [] ∧ x.sb = restedSb (strandAt c i).sb ∧ x.cyc = (strandAt c i).cyc ∧ OnlyPc (regionAt { u with
        sid := c.g.nextSid + n, pc := p.pc, mask := p.mask, lk := p.lk, slot := false, rank := 64 * (c.g.nextId + 1) + n }) x
  ended : t.cur = none

/-- The join entry that a split pushes (R245): its address, the lanes of the strand, and the strand's copies; `lk` is the
link that the merged strand will hold. -/
def entryOf (u : Strand) (j lk : Dword) : Join :=
  { pc := j, mask := u.mask, fmt := u.fmt, lk := lk, cause := u.cause, epc := u.epc, value := u.value, fpc := u.fpc
    hnd := u.hnd, rank := u.rank }

/-- Every lane of an entry has arrived or exited (R250). -/
def joinFull (e : Join) : Bool := e.mask &&& ~~~(e.arrived ||| e.exited) == 0

/-- The entries at which a merge makes a strand. -/
def merging (js : List Join) : List Join := js.filter fun e => joinFull e && e.arrived != 0

/-- The strand of `c` is gone from its group, whose join stack has become `js`: entries that are full are popped, and each of
them at which lanes have arrived makes one strand, ready after the entry's REGANG at the start of a region, with the entry's
scoreboard (R250, R251). The stores that outlive their strands are `left`, and `seen` is what those strands have seen (R233). -/
structure LeftDone (i : Instr) (c : Ctx) (e t : State) (js : List Join) (left : List SStore) (seen : AMap (Nat × Byte)) (h : Group) :
    Prop where
  group : getGroup t c.core c.slot = some h
  untouched : Untouched c e t
  rest : h = { issued c i with
    strands := h.strands, nextSid := c.g.nextSid + (merging js).length, join := js.filter fun e => !joinFull e
    left := left, seen := seen, ended := h.strands.isEmpty && (js.filter fun e => !joinFull e).isEmpty }
  merged : ∃ us, h.strands = c.g.strands.filter (fun x => x.sid != c.st.sid) ++ us ∧ us.length = (merging js).length ∧
    ∀ n j, (merging js)[n]? = some j → ∃ x, us[n]? = some x ∧ x.sid = c.g.nextSid + n ∧ x.pc = j.pc + 4 ∧ x.mask = j.arrived ∧
      x.fmt = j.fmt ∧ x.lk = j.lk ∧ x.fx = j.fx ∧ x.lapse = j.lapse ∧ x.cause = j.cause ∧ x.epc = j.epc ∧
      x.value = j.value ∧ x.fpc = j.fpc ∧ x.hnd = j.hnd ∧ x.status = .ready ∧ x.cnt = 0 ∧ x.lat = [] ∧
      x.sb = j.sb ∧ x.cyc = j.cyc ∧
      x.region.pc = x.pc ∧ x.region.mask = x.mask ∧ x.acqNext = j.acq
  ended : t.cur = none

end Sys2Proof
end

