-- ==== Sys2Proof/Certificates/Slice0/Obligations.lean ====
section
/-! DEFINITION. The obligations: what each instruction does, by families, and what the machine as a whole keeps. The tables
before each obligation give the operations in the words of the rules they name. -/

namespace Sys2Proof

open Machine

/-! ## Lane integer arithmetic, shifts, bit operations -/

/-- A narrow source in a lane (R16). -/
def srcN (c : Ctx) (code : BitVec 7) (lit : Word) (l : Nat) : Word := BitVec.ofNat 32 (readSlot c .n code.toNat lit l)

/-- A wide source in a lane (R18). -/
def srcW (c : Ctx) (code : BitVec 7) (lit : Word) (l : Nat) : Dword := BitVec.ofNat 64 (readSlot c .w code.toNat lit l)

/-- The length of the field of R143: Min(Min(b[13:8], 32), 32 − b[4:0]). -/
def fieldLen (b : Word) : Nat := min (min (b.toNat / 2 ^ 8 % 2 ^ 6) 32) (32 - b.toNat % 2 ^ 5)

/-- The field of BFX: (U(a) >> b[4:0]) AND Mask(n). -/
def fieldOf (a b : Word) : Nat := a.toNat / 2 ^ (b.toNat % 2 ^ 5) % 2 ^ fieldLen b

/-- The mask of BFI: Mask(n) << b[4:0]. -/
def fieldMask (b : Word) : Word := BitVec.ofNat 32 ((2 ^ fieldLen b - 1) * 2 ^ (b.toNat % 2 ^ 5))

/-- The sum over j of the products of bytes of R181, each byte read by `v`. -/
def byteDot (v : BitVec 8 → Int) (a b : Word) : Word :=
  BitVec.ofInt 32 (((List.range 4).map fun j => v (a.extractLsb' (8 * j) 8) * v (b.extractLsb' (8 * j) 8)).sum)

/-- The LA words with a narrow integer result, as a function of a, b and the old d (R132, R140–R143, R181). -/
def intLane : Instr → Option (LA × (Word → Word → Word → Word))
  | .mov f => some (f, fun a _ _ => a)
  | .iadd f => some (f, fun a b _ => BitVec.ofNat 32 (a.toNat + b.toNat))
  | .isub f => some (f, fun a b _ => BitVec.ofInt 32 ((a.toNat : Int) - b.toNat))
  | .imul f => some (f, fun a b _ => BitVec.ofNat 32 (a.toNat * b.toNat))
  | .imulhs f => some (f, fun a b _ => BitVec.ofInt 32 (a.toInt * b.toInt / 2 ^ 32))
  | .imulhu f => some (f, fun a b _ => BitVec.ofNat 32 (a.toNat * b.toNat / 2 ^ 32))
  | .imad f => some (f, fun a b d => BitVec.ofNat 32 (a.toNat * b.toNat + d.toNat))
  | .imins f => some (f, fun a b _ => if a.toInt ≤ b.toInt then a else b)
  | .iminu f => some (f, fun a b _ => if a.toNat ≤ b.toNat then a else b)
  | .imaxs f => some (f, fun a b _ => if a.toInt ≥ b.toInt then a else b)
  | .imaxu f => some (f, fun a b _ => if a.toNat ≥ b.toNat then a else b)
  | .and f => some (f, fun a b _ => a &&& b)
  | .or f => some (f, fun a b _ => a ||| b)
  | .xor f => some (f, fun a b _ => a ^^^ b)
  | .andn f => some (f, fun a b _ => a &&& ~~~b)
  | .shl f => some (f, fun a b _ => if b.toNat ≥ 32 then 0 else BitVec.ofNat 32 (a.toNat * 2 ^ b.toNat))
  | .shrl f => some (f, fun a b _ => if b.toNat ≥ 32 then 0 else BitVec.ofNat 32 (a.toNat / 2 ^ b.toNat))
  | .shra f => some (f, fun a b _ =>
      if b.toNat ≥ 32 then (if a.getLsbD 31 then 0xFFFFFFFF else 0) else BitVec.ofInt 32 (a.toInt / 2 ^ b.toNat))
  | .rotl f => some (f, fun a b _ =>
      if b.toNat % 32 = 0 then a else (a <<< (b.toNat % 32)) ||| (a >>> (32 - b.toNat % 32)))
  | .popc f => some (f, fun a _ _ => BitVec.ofNat 32 ((List.range 32).countP fun i => a.getLsbD i))
  | .clz f => some (f, fun a _ _ => BitVec.ofNat 32 (if a = 0 then 32 else 31 - Nat.log2 a.toNat))
  | .brev f => some (f, fun a _ _ => a.reverse)
  | .bfx f => some (f, fun a b _ =>
      if b.getLsbD 16 ∧ fieldLen b > 0 ∧ (fieldOf a b).testBit (fieldLen b - 1) then
        BitVec.ofInt 32 ((fieldOf a b : Int) - 2 ^ fieldLen b)
      else BitVec.ofNat 32 (fieldOf a b))
  | .bfi f => some (f, fun a b d => (d &&& ~~~fieldMask b) ||| ((a <<< (b.toNat % 2 ^ 5)) &&& fieldMask b))
  | .dot4s f => some (f, fun a b _ => byteDot BitVec.toInt a b)
  | .dot4u f => some (f, fun a b _ => byteDot (fun x => x.toNat) a b)
  | _ => none

/-- The LS words with a narrow integer result, as a function of a and the immediate (R141). -/
def immLane : Instr → Option (LS × (Word → Nat → Word))
  | .shli f => some (f, fun a n => BitVec.ofNat 32 (a.toNat * 2 ^ n))
  | .shrli f => some (f, fun a n => BitVec.ofNat 32 (a.toNat / 2 ^ n))
  | .shrai f => some (f, fun a n => BitVec.ofInt 32 (a.toInt / 2 ^ n))
  | _ => none

end Sys2Proof

open Sys2Proof Sys2Proof.Machine

/-- R132, R140–R143, R181: each LA word of the table, once issued, completes, and so does each shift by an immediate. In every
guard-true lane d takes the value the table gives of a, b and the old d, or of a and the immediate; every other register,
predicate and flag, memory and the rest of the state stay. -/
def Obligations.NarrowIntegerResults : Prop :=
  (∀ i f op s c, intLane i = some (f, op) → Issues i s c →
    ∃ t c', exec i s = .next t ∧
      LaneDone i c s t c' .n f.d.toNat (guardLanes c f.g)
        (fun l => (op (srcN c f.a f.lit l) (srcN c f.b f.lit l) (srcN c f.d f.lit l)).toNat) 0) ∧
  (∀ i f op s c, immLane i = some (f, op) → Issues i s c →
    ∃ t c', exec i s = .next t ∧
      LaneDone i c s t c' .n f.d.toNat (guardLanes c f.g) (fun l => (op (srcN c f.a f.lit l) f.imm.toNat).toNat) 0)


/-! ## Selections, wide integers, carries, compares -/

namespace Sys2Proof

open Machine

/-- The words with a wide integer result (R147). -/
def wideLane : Instr → Option (LA × (Ctx → LA → Nat → Dword))
  | .wadd f => some (f, fun c f l => srcW c f.a f.lit l + srcW c f.b f.lit l)
  | .wsub f => some (f, fun c f l => srcW c f.a f.lit l - srcW c f.b f.lit l)
  | .wmulu f => some (f, fun c f l => BitVec.ofNat 64 ((srcN c f.a f.lit l).toNat * (srcN c f.b f.lit l).toNat))
  | .wmuls f => some (f, fun c f l => BitVec.ofInt 64 ((srcN c f.a f.lit l).toInt * (srcN c f.b f.lit l).toInt))
  | .wshl f => some (f, fun c f l =>
      let n := (srcN c f.b f.lit l).toNat
      if n ≥ 64 then 0 else BitVec.ofNat 64 ((srcW c f.a f.lit l).toNat * 2 ^ n))
  | .wshrl f => some (f, fun c f l =>
      let n := (srcN c f.b f.lit l).toNat
      if n ≥ 64 then 0 else BitVec.ofNat 64 ((srcW c f.a f.lit l).toNat / 2 ^ n))
  | .wadds f => some (f, fun c f l => srcW c f.a f.lit l + (srcN c f.b f.lit l).signExtend 64)
  | _ => none

/-- IADDX and ISUBX (R144): the exact sum or difference with p7, and the new p7. -/
def carryLane : Instr → Option (LA × (Word → Word → Bool → Int) × (Int → Bool))
  | .iaddx f => some (f, fun a b p => (a.toNat : Int) + b.toNat + p.toNat, fun t => t ≥ 2 ^ 32)
  | .isubx f => some (f, fun a b p => (a.toNat : Int) - b.toNat - p.toNat, fun t => t < 0)
  | _ => none

/-- The conditions of R145. -/
def condHolds {w : Nat} (code : Nat) (a b : BitVec w) : Bool :=
  match code with
  | 0 => a = b
  | 1 => a ≠ b
  | 2 => a.toInt < b.toInt
  | 3 => a.toInt ≤ b.toInt
  | 4 => a.toInt > b.toInt
  | 5 => a.toInt ≥ b.toInt
  | 6 => a.toNat < b.toNat
  | 7 => a.toNat ≤ b.toNat
  | 8 => a.toNat > b.toNat
  | 9 => a.toNat ≥ b.toNat
  | 10 => (a &&& b) ≠ 0
  | _ => (a &&& b) = 0

/-- The words that decide a predicate from integers: the value in a lane (R133, R146). -/
def predLane : Instr → Option (LP × (Ctx → LP → Nat → Bool))
  | .icmp f => some (f, fun c f l => condHolds f.cond.toNat (srcN c f.a f.lit l) (srcN c f.b f.lit l))
  | .wcmp f => some (f, fun c f l => condHolds f.cond.toNat (srcW c f.a f.lit l) (srcW c f.b f.lit l))
  | .vtop f => some (f, fun c f l => srcN c f.a f.lit l ≠ 0)
  | _ => none

/-- The values that an input of PLOG may have: both where FMT.B = 1 and the predicate is open (R329). -/
def inputSet (c : Ctx) (l n : Nat) : List Bool :=
  if fmtB c.st.fmt = true ∧ readOpen c.g l n = true then [false, true] else [readP c.g l n]

/-- The outcomes of PLOG over its input sets (R133, R329). -/
def plogSet (c : Ctx) (f : LP) (l : Nat) : List Bool :=
  (inputSet c l f.a.toNat).flatMap fun a => (inputSet c l f.b.toNat).map fun b =>
    f.cond.toNat.testBit (2 * a.toNat + b.toNat)

end Sys2Proof

/-- R147: each wide form, once issued, completes, and d takes its 64 bits in every guard-true lane; nothing else changes. -/
def Obligations.WideIntegerResults : Prop :=
  ∀ i f op s c, wideLane i = some (f, op) → Issues i s c →
    ∃ t c', exec i s = .next t ∧
      LaneDone i c s t c' .w f.d.toNat (guardLanes c f.g) (fun l => (op c f l).toNat) 0

/-- R132, R15: SEL selects by p[N] in every lane of the mask, PTOV gives a predicate as 0 or 1 in the guard-true lanes. -/
def Obligations.SelectionResults : Prop :=
  (∀ f s c, Issues (.sel f) s c →
    ∃ t c', exec (.sel f) s = .next t ∧
      LaneDone (.sel f) c s t c' .n f.d.toNat (lanesOf c.st.mask)
        (fun l => (if readP c.g l f.g.toNat then srcN c f.a f.lit l else srcN c f.b f.lit l).toNat) 0) ∧
  (∀ f s c, Issues (.ptov f) s c →
    ∃ t c', exec (.ptov f) s = .next t ∧
      LaneDone (.ptov f) c s t c' .n f.d.toNat (guardLanes c f.g)
        (fun l => if readP c.g l f.a.toNat then 1 else 0) 0)

/-- R144: IADDX and ISUBX give d the sum or difference modulo 2^32 and p7 the carry or borrow, in the guard-true lanes
alone; p7's open bit is cleared, under FMT.B = 1 too
(log entry 37, DEDUCED). -/
def Obligations.CarryChainResults : Prop :=
  ∀ i f sum out s c, carryLane i = some (f, sum, out) → Issues i s c →
    ∃ t c', exec i s = .next t ∧ Completed i c s t c' ∧ c'.st.pc = nextPc i c ∧ OnlyPc c.st c'.st ∧
      c'.g = { issued c i with
        v := c'.g.v, p := c'.g.p, op := c'.g.op, strands := c'.g.strands } ∧
      (∀ l r, r < 96 → readV c'.g l r =
        if l ∈ guardLanes c f.g ∧ r = f.d.toNat then
          BitVec.ofInt 32 (sum (srcN c f.a f.lit l) (srcN c f.b f.lit l) (readP c.g l 7))
        else readV c.g l r) ∧
      (∀ l n, n < 8 → readP c'.g l n =
        if l ∈ guardLanes c f.g ∧ n = 7 then out (sum (srcN c f.a f.lit l) (srcN c f.b f.lit l) (readP c.g l 7))
        else readP c.g l n) ∧
      (∀ l n, n < 8 → readOpen c'.g l n = if l ∈ guardLanes c f.g ∧ n = 7 then false else readOpen c.g l n)

/-- R133, R146, R329: ICMP, WCMP and VTOP write a decided value to pd in the guard-true lanes and clear its open bit; PLOG
writes the one member of its outcome set, or 0 with the open bit where the set has two. -/
def Obligations.PredicateResults : Prop :=
  (∀ i f val s c, predLane i = some (f, val) → Issues i s c →
    ∃ t c', exec i s = .next t ∧
      PredDone i c s t c' f.pd.toNat (guardLanes c f.g) (fun l => (val c f l, false)) 0) ∧
  (∀ f s c, Issues (.plog f) s c →
    ∃ t c', exec (.plog f) s = .next t ∧
      PredDone (.plog f) c s t c' f.pd.toNat (guardLanes c f.g)
        (fun l =>
          if true ∈ plogSet c f l ∧ false ∈ plogSet c f l then (false, true) else (decide (true ∈ plogSet c f l), false)) 0)

/-! ## Shuffles and reductions -/

namespace Sys2Proof

open Machine

/-- The source lane of a shuffle for a lane, where it names one (R134). -/
def shuffleLane : Instr → Option (BitVec 2 × BitVec 7 × BitVec 7 × Word × (Ctx → Nat → Option Nat))
  | .shfli f => some (f.g, f.d, f.a, f.lit, fun c l => some (srcN c f.b f.lit l).toNat)
  | .shflx f => some (f.g, f.d, f.a, f.lit, fun _ l => some (l ^^^ f.imm.toNat))
  | .shflu f => some (f.g, f.d, f.a, f.lit, fun _ l => if f.imm.toNat ≤ l then some (l - f.imm.toNat) else none)
  | .shfld f => some (f.g, f.d, f.a, f.lit, fun _ l => some (l + f.imm.toNat))
  | _ => none

/-- What RADD, RMINS and RMAXS make of the values of the mask's lanes (R135). -/
def reducesTo : Instr → Option (LA × (List Word → Word → Prop))
  | .radd f => some (f, fun xs r => r = BitVec.ofNat 32 (xs.map BitVec.toNat).sum)
  | .rmins f => some (f, fun xs r => r ∈ xs ∧ ∀ x ∈ xs, r.toInt ≤ x.toInt)
  | .rmaxs f => some (f, fun xs r => r ∈ xs ∧ ∀ x ∈ xs, x.toInt ≤ r.toInt)
  | _ => none

/-- The tree of RFADD over lane values with the flags of its additions, level by level: EMPTY is none (R135). -/
def sumTree (fmt : Word) (v : Nat → Option Nat) : Nat → Nat → Option (Nat × Word)
  | 0, i => (v i).map fun x => (x, 0)
  | n + 1, i =>
    match sumTree fmt v n (2 * i), sumTree fmt v n (2 * i + 1) with
    | some x, some y =>
      let r := fadd fp32 (fmtRM fmt) (fmtFZ fmt) x.1 y.1
      some (r.1, x.2 ||| y.2 ||| r.2)
    | some x, none => some x
    | none, y => y

/-- The same tree for any combination of two values. -/
def treeOf {α : Type} (f : α → α → α) (v : Nat → Option α) : Nat → Nat → Option α
  | 0, i => v i
  | n + 1, i =>
    match treeOf f v n (2 * i), treeOf f v n (2 * i + 1) with
    | some x, some y => some (f x y)
    | some x, none => some x
    | none, y => y

end Sys2Proof

/-- R134: a shuffle gives each guard-true lane the value of a in its source lane where that lane is in the mask, its own
otherwise. -/
def Obligations.ShuffleResults : Prop :=
  ∀ i g d a lit src s c, shuffleLane i = some (g, d, a, lit, src) → Issues i s c →
    ∃ t c', exec i s = .next t ∧
      LaneDone i c s t c' .n d.toNat (guardLanes c g)
        (fun l => (match src c l with
          | some j => if j ∈ lanesOf c.st.mask then srcN c a lit j else srcN c a lit l
          | none => srcN c a lit l).toNat) 0

/-- R135, R325, R327: a reduction completes; it takes a over every lane of the mask, guard-false lanes too, and writes the one
result in the guard-true lanes. RADD, RMINS and RMAXS give what any order gives. RFADD follows the tree fixed by lane numbers, with
the flags of every addition of the tree where some lane is guard-true; with FMT.B = 1 it adds the intervals outward, with no flag,
or the lo parts where the lanes are in point form. -/
def Obligations.ReductionResults : Prop :=
  (∀ i f red s c, reducesTo i = some (f, red) → Issues i s c → c.st.mask ≠ 0 →
    ∃ t c' r, exec i s = .next t ∧ red ((lanesOf c.st.mask).map (srcN c f.a f.lit)) r ∧
      LaneDone i c s t c' .n f.d.toNat (guardLanes c f.g) (fun _ => r.toNat) 0) ∧
  (∀ f s c, fmtB c.st.fmt = false → Issues (.rfadd f) s c →
    ∃ t c' r, exec (.rfadd f) s = .next t ∧
      (c.st.mask ≠ 0 → sumTree c.st.fmt
        (fun l => if l ∈ lanesOf c.st.mask then some (srcN c f.a f.lit l).toNat else none) 6 0 = some r) ∧
      LaneDone (.rfadd f) c s t c' .n f.d.toNat (guardLanes c f.g) (fun _ => r.1)
        (if guardLanes c f.g = [] then 0 else r.2)) ∧
  (∀ f s c, fmtB c.st.fmt = true → Issues (.rfadd f) s c → c.st.mask ≠ 0 → (∀ l, pointForm c.g l = true) →
    ∃ t c' r, exec (.rfadd f) s = .next t ∧
      sumTree c.st.fmt (fun l => if l ∈ lanesOf c.st.mask then some (readSlot c .iv f.a.toNat f.lit l % 2 ^ 32) else none) 6 0 = some r ∧
      LaneDone (.rfadd f) c s t c' .iv f.d.toNat (guardLanes c f.g) (fun _ => r.1 % 2 ^ 32 + 2 ^ 32 * (r.1 % 2 ^ 32))
        (if guardLanes c f.g = [] then 0 else r.2)) ∧
  (∀ f s c, fmtB c.st.fmt = true → Issues (.rfadd f) s c → c.st.mask ≠ 0 → (∀ l ∈ lanesOf c.st.mask, pointForm c.g l = false) →
    ∃ t c' r, exec (.rfadd f) s = .next t ∧
      treeOf ivAdd (fun l => if l ∈ lanesOf c.st.mask then some (readSlot c .iv f.a.toNat f.lit l) else none) 6 0 = some r ∧
      LaneDone (.rfadd f) c s t c' .iv f.d.toNat (guardLanes c f.g) (fun _ => r) 0)


/-! ## Floating point -/

namespace Sys2Proof

open Machine

/-- The flags of lanes, ORed (R128). -/
def orFlags (ls : List Nat) (f : Nat → Word) : Word := ls.foldl (fun m l => m ||| f l) 0

/-- The FP32 words by their scalar operation on FMT, a, b and the old d: the code of the result and the flags (R171–R177). -/
def floatLane : Instr → Option (LA × (Word → Nat → Nat → Nat → Nat × Word))
  | .fadd f => some (f, fun m a b _ => fadd fp32 (fmtRM m) (fmtFZ m) a b)
  | .fsub f => some (f, fun m a b _ => fsub fp32 (fmtRM m) (fmtFZ m) a b)
  | .fmul f => some (f, fun m a b _ => fmul fp32 (fmtRM m) (fmtFZ m) a b)
  | .ffma f => some (f, fun m a b d => ffma fp32 (fmtRM m) (fmtFZ m) a b d)
  | .fdiv f => some (f, fun m a b _ => fdiv fp32 (fmtRM m) (fmtFZ m) a b)
  | .frcp f => some (f, fun m a _ _ => frcp fp32 (fmtRM m) (fmtFZ m) a)
  | .fsqrt f => some (f, fun m a _ _ => fsqrt fp32 (fmtRM m) (fmtFZ m) a)
  | .frsq f => some (f, fun m a _ _ => frsq (fmtFZ m) a)
  | .fexp2 f => some (f, fun m a _ _ => fexp2 (fmtFZ m) a)
  | .flog2 f => some (f, fun m a _ _ => flog2 (fmtFZ m) a)
  | .fsinr f => some (f, fun m a _ _ => fsinr (fmtFZ m) a)
  | .fcosr f => some (f, fun m a _ _ => fcosr (fmtFZ m) a)
  | .fmin f => some (f, fun m a b _ => fminmax fp32 (fmtFZ m) false a b)
  | .fmax f => some (f, fun m a b _ => fminmax fp32 (fmtFZ m) true a b)
  | .frint f => some (f, fun m a _ _ => frint fp32 (fmtRM m) (fmtFZ m) a)
  | .ffloor f => some (f, fun m a _ _ => frint fp32 rmDown (fmtFZ m) a)
  | .fscale f => some (f, fun m a b _ => fscale (fmtRM m) (fmtFZ m) a (BitVec.ofNat 32 b))
  | .fsat f => some (f, fun m a _ _ => fsat (fmtFZ m) a)
  | .fclass f => some (f, fun _ a _ _ => (fclass a, 0))
  | .fabs f => some (f, fun _ a _ _ => (a % 2 ^ 31, 0))
  | .fneg f => some (f, fun _ a _ _ => (a ^^^ 2 ^ 31, 0))
  | .fcpsgn f => some (f, fun _ a b _ => (a % 2 ^ 31 + b / 2 ^ 31 % 2 * 2 ^ 31, 0))
  | _ => none

/-- The same words by their interval operation, with whether b and d are narrow in bounds mode (R323–R326). -/
def intervalLane : Instr → Option (LA × Bool × Bool × (Word → Nat → Nat → Nat → Nat))
  | .fadd f => some (f, false, false, fun _ a b _ => ivAdd a b)
  | .fsub f => some (f, false, false, fun _ a b _ => ivSub a b)
  | .fmul f => some (f, false, false, fun _ a b _ => ivMul a b)
  | .ffma f => some (f, false, false, fun _ a b d => ivFma a b d)
  | .fdiv f => some (f, false, false, fun _ a b _ => ivDiv a b)
  | .frcp f => some (f, false, false, fun _ a _ _ => ivRcp a)
  | .fsqrt f => some (f, false, false, fun _ a _ _ => ivSqrt a)
  | .frsq f => some (f, false, false, fun _ a _ _ => ivRsq a)
  | .fexp2 f => some (f, false, false, fun _ a _ _ => ivExp2 a)
  | .flog2 f => some (f, false, false, fun _ a _ _ => ivLog2 a)
  | .fsinr f => some (f, false, false, fun _ a _ _ => ivTrig fsinr 1 3 a)
  | .fcosr f => some (f, false, false, fun _ a _ _ => ivTrig fcosr 0 2 a)
  | .fmin f => some (f, false, false, fun _ a b _ => ivMinMax false a b)
  | .fmax f => some (f, false, false, fun _ a b _ => ivMinMax true a b)
  | .frint f => some (f, false, false, fun m a _ _ => ivEach (frint fp32 (fmtRM m) false) a)
  | .ffloor f => some (f, false, false, fun _ a _ _ => ivEach (frint fp32 rmDown false) a)
  | .fscale f => some (f, true, false, fun _ a b _ => ivScale a (BitVec.ofNat 32 b))
  | .fsat f => some (f, false, false, fun _ a _ _ => ivEach (fsat false) a)
  | .fclass f => some (f, false, true, fun _ a _ _ => ivClass a)
  | .fabs f => some (f, false, false, fun _ a _ _ => ivAbs a)
  | .fneg f => some (f, false, false, fun _ a _ _ => ivNeg a)
  | .fcpsgn f => some (f, false, false, fun _ a b _ => ivCpsgn a b)
  | _ => none

/-- A source of the interval forms: an interval lo + 2^32·hi, or a narrow word. -/
def srcIv (c : Ctx) (narrow : Bool) (code : BitVec 7) (lit : Word) (l : Nat) : Nat :=
  readSlot c (if narrow then .n else .iv) code.toNat lit l

/-- A result in bounds mode and its flags: the scalar operation on the lo parts, for both halves, in a lane in point form
(R327); the interval operation, with no flag, in any other. -/
def boundsLane (c : Ctx) (f : LA) (bn dn : Bool) (sc : Word → Nat → Nat → Nat → Nat × Word)
    (iv : Word → Nat → Nat → Nat → Nat) (l : Nat) : Nat × Word :=
  let a := srcIv c false f.a f.lit l
  let b := srcIv c bn f.b f.lit l
  let d := srcIv c false f.d f.lit l
  if pointForm c.g l then
    let r := sc c.st.fmt (a % 2 ^ 32) (b % 2 ^ 32) (d % 2 ^ 32)
    (if dn then r.1 else r.1 % 2 ^ 32 + 2 ^ 32 * (r.1 % 2 ^ 32), r.2)
  else (iv c.st.fmt a b d, 0)

/-- The FP64 words (R178). -/
def doubleLane : Instr → Option (LA × (Word → Nat → Nat → Nat → Nat × Word))
  | .dadd f => some (f, fun m a b _ => fadd fp64 (fmtRM m) (fmtFZ m) a b)
  | .dsub f => some (f, fun m a b _ => fsub fp64 (fmtRM m) (fmtFZ m) a b)
  | .dmul f => some (f, fun m a b _ => fmul fp64 (fmtRM m) (fmtFZ m) a b)
  | .dfma f => some (f, fun m a b d => ffma fp64 (fmtRM m) (fmtFZ m) a b d)
  | .dmin f => some (f, fun m a b _ => fminmax fp64 (fmtFZ m) false a b)
  | .dmax f => some (f, fun m a b _ => fminmax fp64 (fmtFZ m) true a b)
  | .ddiv f => some (f, fun m a b _ => fdiv fp64 (fmtRM m) (fmtFZ m) a b)
  | .dsqrt f => some (f, fun m a _ _ => fsqrt fp64 (fmtRM m) (fmtFZ m) a)
  | .drint f => some (f, fun m a _ _ => frint fp64 (fmtRM m) (fmtFZ m) a)
  | .dabs f => some (f, fun _ a _ _ => (a % 2 ^ 63, 0))
  | .dneg f => some (f, fun _ a _ _ => (a ^^^ 2 ^ 63, 0))
  | _ => none

/-- The packed words by the operation on each half (R179). -/
def halfLane : Instr → Option (LA × (Word → Nat → Nat → Nat → Nat × Word))
  | .hadd2 f => some (f, fun m a b _ => fadd (halfFmt m) (fmtRM m) (fmtFZ m) a b)
  | .hmul2 f => some (f, fun m a b _ => fmul (halfFmt m) (fmtRM m) (fmtFZ m) a b)
  | .hfma2 f => some (f, fun m a b d => ffma (halfFmt m) (fmtRM m) (fmtFZ m) a b d)
  | .hmin2 f => some (f, fun m a b _ => fminmax (halfFmt m) (fmtFZ m) false a b)
  | .hmax2 f => some (f, fun m a b _ => fminmax (halfFmt m) (fmtFZ m) true a b)
  | _ => none

/-- A packed result: bits 15:0 from the low halves, bits 31:16 from the high halves, flags ORed (R179). -/
def halves (op : Nat → Nat → Nat → Nat × Word) (a b d : Nat) : Nat × Word :=
  ((op (a % 2 ^ 16) (b % 2 ^ 16) (d % 2 ^ 16)).1 + 2 ^ 16 * (op (a / 2 ^ 16) (b / 2 ^ 16) (d / 2 ^ 16)).1,
    (op (a % 2 ^ 16) (b % 2 ^ 16) (d % 2 ^ 16)).2 ||| (op (a / 2 ^ 16) (b / 2 ^ 16) (d / 2 ^ 16)).2)

end Sys2Proof

/-- R171–R177 with FMT.B = 0: each FP32 word completes, d takes the operation's result in every guard-true lane and FX the
flags of those lanes; nothing else changes. -/
def Obligations.FloatResults : Prop :=
  ∀ i f op s c, floatLane i = some (f, op) → fmtB c.st.fmt = false → Issues i s c →
    ∃ t c', exec i s = .next t ∧
      LaneDone i c s t c' .n f.d.toNat (guardLanes c f.g)
        (fun l => (op c.st.fmt (srcN c f.a f.lit l).toNat (srcN c f.b f.lit l).toNat (srcN c f.d f.lit l).toNat).1)
        (orFlags (guardLanes c f.g) fun l =>
          (op c.st.fmt (srcN c f.a f.lit l).toNat (srcN c f.b f.lit l).toNat (srcN c f.d f.lit l).toNat).2)

/-- R178–R180, R323–R327. With FMT.B = 1 each FP32 word completes, its result an interval in a lane in interval form and both halves
of a pair of equal codes in a lane in point form, where alone flags are raised; FCLASS's result is narrow. Each FP64 word completes
on 64-bit codes. A packed word acts on both halves of its sources, and HDOT2 rounds the exact sum of two products once. -/
def Obligations.WideAndPackedResults : Prop :=
  (∀ i f op bn dn iv s c, floatLane i = some (f, op) → intervalLane i = some (f, bn, dn, iv) → fmtB c.st.fmt = true →
    Issues i s c →
    ∃ t c', exec i s = .next t ∧
      LaneDone i c s t c' (if dn then .n else .iv) f.d.toNat (guardLanes c f.g)
        (fun l => (boundsLane c f bn dn op iv l).1) (orFlags (guardLanes c f.g) fun l => (boundsLane c f bn dn op iv l).2)) ∧
  (∀ i f op s c, doubleLane i = some (f, op) → Issues i s c →
    ∃ t c', exec i s = .next t ∧
      LaneDone i c s t c' .f f.d.toNat (guardLanes c f.g)
        (fun l => (op c.st.fmt (readSlot c .f f.a.toNat f.lit l) (readSlot c .f f.b.toNat f.lit l)
          (readSlot c .f f.d.toNat f.lit l)).1)
        (orFlags (guardLanes c f.g) fun l => (op c.st.fmt (readSlot c .f f.a.toNat f.lit l)
          (readSlot c .f f.b.toNat f.lit l) (readSlot c .f f.d.toNat f.lit l)).2)) ∧
  ((∀ i f op s c, halfLane i = some (f, op) → Issues i s c →
    ∃ t c', exec i s = .next t ∧
      LaneDone i c s t c' .n f.d.toNat (guardLanes c f.g)
        (fun l => (halves (op c.st.fmt) (srcN c f.a f.lit l).toNat (srcN c f.b f.lit l).toNat (srcN c f.d f.lit l).toNat).1)
        (orFlags (guardLanes c f.g) fun l =>
          (halves (op c.st.fmt) (srcN c f.a f.lit l).toNat (srcN c f.b f.lit l).toNat (srcN c f.d f.lit l).toNat).2)) ∧
  (∀ f s c, Issues (.hdot2 f) s c →
    ∃ t c', exec (.hdot2 f) s = .next t ∧
      LaneDone (.hdot2 f) c s t c' .n f.d.toNat (guardLanes c f.g)
        (fun l => (hdot2 (halfFmt c.st.fmt) (fmtRM c.st.fmt) (fmtFZ c.st.fmt) (srcN c f.a f.lit l).toNat
          (srcN c f.b f.lit l).toNat).1)
        (orFlags (guardLanes c f.g) fun l => (hdot2 (halfFmt c.st.fmt) (fmtRM c.st.fmt) (fmtFZ c.st.fmt)
          (srcN c f.a f.lit l).toNat (srcN c f.b f.lit l).toNat).2)))

/-! ## Compares, conversions and quantizing -/

namespace Sys2Proof

open Machine

/-- FCMP and DCMP on two codes (R175): the value of a condition and NV. -/
def floatCond (F : Fmt) (fz : Bool) (cond a b : Nat) : Bool × Word :=
  let x := fsrc F fz a
  let y := fsrc F fz b
  let un := x.isNaN || y.isNaN
  (match cond with
    | 0 => !un && fvCmp x y == 0
    | 1 => un || fvCmp x y != 0
    | 2 => !un && decide (fvCmp x y < 0)
    | 3 => !un && decide (fvCmp x y ≤ 0)
    | 4 => !un && decide (fvCmp x y > 0)
    | 5 => !un && decide (fvCmp x y ≥ 0)
    | 6 => un
    | _ => !un,
  if (x.isSig || y.isSig || (un && decide (2 ≤ cond ∧ cond ≤ 5))) = true then 1 else 0)

/-- FCMP in bounds mode (R328): the value and the open bit, and NV of a lane in point form. -/
def boundsCond (c : Ctx) (f : LP) (l : Nat) : (Bool × Bool) × Word :=
  let a := readSlot c .iv f.a.toNat f.lit l
  let b := readSlot c .iv f.b.toNat f.lit l
  if pointForm c.g l then
    let r := floatCond fp32 (fmtFZ c.st.fmt) f.cond.toNat (a % 2 ^ 32) (b % 2 ^ 32)
    (if f.cond.toNat ≤ 5 ∧ ((fdec fp32 (a % 2 ^ 32)).isNaN ∨ (fdec fp32 (b % 2 ^ 32)).isNaN) then (false, true)
      else (r.1, false), r.2)
  else (ivCmp f.cond.toNat a b, 0)

/-- The quantizing words by what they make of the values of a block and its control word (R163, R164). -/
def quantBlock : Instr → Option (LA × (Bool → Nat → List Nat → List Word × Word))
  | .qdx4 f => some (f, fun fz _ xs => qdx 2 fz xs)
  | .qdx8 f => some (f, fun fz _ xs => qdx 6 fz xs)
  | .qaq8 f => some (f, fun fz b xs => qaq (b % 2 == 1) fz xs)
  | _ => none

/-- The lanes of a block of 32 that are in the mask, and their values. -/
def blockLanes (c : Ctx) (blk : Nat) : List Nat := (lanesOf c.st.mask).filter fun l => l / 32 == blk

/-- What a block quantizes to. -/
def blockQuant (c : Ctx) (f : LA) (q : Bool → Nat → List Nat → List Word × Word) (blk : Nat) : List Word × Word :=
  q (fmtFZ c.st.fmt) (srcN c f.b f.lit ((blockLanes c blk).headD 0)).toNat
    ((blockLanes c blk).map fun l => (srcN c f.a f.lit l).toNat)

end Sys2Proof

/-- R175, R328: FCMP and DCMP decide a predicate in the guard-true lanes and raise NV; in bounds mode FCMP writes the
predicate and its open bit. -/
def Obligations.FloatCompareResults : Prop :=
  (∀ f s c, fmtB c.st.fmt = false → Issues (.fcmp f) s c →
    ∃ t c', exec (.fcmp f) s = .next t ∧
      PredDone (.fcmp f) c s t c' f.pd.toNat (guardLanes c f.g)
        (fun l => ((floatCond fp32 (fmtFZ c.st.fmt) f.cond.toNat (srcN c f.a f.lit l).toNat (srcN c f.b f.lit l).toNat).1,
          false))
        (orFlags (guardLanes c f.g) fun l =>
          (floatCond fp32 (fmtFZ c.st.fmt) f.cond.toNat (srcN c f.a f.lit l).toNat (srcN c f.b f.lit l).toNat).2)) ∧
  (∀ f s c, fmtB c.st.fmt = true → Issues (.fcmp f) s c →
    ∃ t c', exec (.fcmp f) s = .next t ∧
      PredDone (.fcmp f) c s t c' f.pd.toNat (guardLanes c f.g) (fun l => (boundsCond c f l).1)
        (orFlags (guardLanes c f.g) fun l => (boundsCond c f l).2)) ∧
  (∀ f s c, Issues (.dcmp f) s c →
    ∃ t c', exec (.dcmp f) s = .next t ∧
      PredDone (.dcmp f) c s t c' f.pd.toNat (guardLanes c f.g)
        (fun l => ((floatCond fp64 (fmtFZ c.st.fmt) f.cond.toNat (readSlot c .f f.a.toNat f.lit l)
          (readSlot c .f f.b.toNat f.lit l)).1, false))
        (orFlags (guardLanes c f.g) fun l => (floatCond fp64 (fmtFZ c.st.fmt) f.cond.toNat
          (readSlot c .f f.a.toNat f.lit l) (readSlot c .f f.b.toNat f.lit l)).2))

/-- R162–R165, R182–R184, R325: CVT converts by its code; in bounds mode code 0 gives an interval and code 2 a pair of integers. A
quantizing word completes; each guard-true lane takes its block's word for it, and FX the flags of the blocks that have a guard-true
lane. -/
def Obligations.ConversionResults : Prop :=
  ((∀ f s c, fmtB c.st.fmt = false → Issues (.cvt f) s c →
    ∃ t c', exec (.cvt f) s = .next t ∧
      LaneDone (.cvt f) c s t c' (slotsOf c.st.fmt 0x54 f.imm.toNat).d f.d.toNat (guardLanes c f.g)
        (fun l => (cvt f.imm.toNat c.st.fmt (readSlot c (slotsOf c.st.fmt 0x54 f.imm.toNat).a f.a.toNat f.lit l)).1)
        (orFlags (guardLanes c f.g) fun l =>
          (cvt f.imm.toNat c.st.fmt (readSlot c (slotsOf c.st.fmt 0x54 f.imm.toNat).a f.a.toNat f.lit l)).2)) ∧
  (∀ f s c, fmtB c.st.fmt = true → Issues (.cvt f) s c →
    ∃ t c', exec (.cvt f) s = .next t ∧
      LaneDone (.cvt f) c s t c' (if f.imm.toNat = 0 then .iv else .w) f.d.toNat (guardLanes c f.g)
        (fun l => (cvtBounds c f l).1) (orFlags (guardLanes c f.g) fun l => (cvtBounds c f l).2))) ∧
  (∀ i f q s c, quantBlock i = some (f, q) → Issues i s c →
    ∃ t c', exec i s = .next t ∧
      LaneDone i c s t c' .n f.d.toNat (guardLanes c f.g)
        (fun l => (((blockQuant c f q (l / 32)).1)[(blockLanes c (l / 32)).idxOf l]?.getD 0).toNat)
        (orFlags (guardLanes c f.g) fun l => (blockQuant c f q (l / 32)).2))


/-! ## Uniform registers -/

namespace Sys2Proof

open Machine

/-- The uniform words with a k result, as a function of k[a] and k[b] (R149). -/
def uniWord : Instr → Option (GA × (Word → Word → Word))
  | .kmov f => some (f, fun a _ => a)
  | .kadd f => some (f, fun a b => BitVec.ofNat 32 (a.toNat + b.toNat))
  | .ksub f => some (f, fun a b => BitVec.ofInt 32 ((a.toNat : Int) - b.toNat))
  | .kmul f => some (f, fun a b => BitVec.ofNat 32 (a.toNat * b.toNat))
  | .kand f => some (f, fun a b => a &&& b)
  | .kor f => some (f, fun a b => a ||| b)
  | .kxor f => some (f, fun a b => a ^^^ b)
  | .kshl f => some (f, fun a b => if b.toNat ≥ 32 then 0 else BitVec.ofNat 32 (a.toNat * 2 ^ b.toNat))
  | .kshrl f => some (f, fun a b => if b.toNat ≥ 32 then 0 else BitVec.ofNat 32 (a.toNat / 2 ^ b.toNat))
  | .kshra f => some (f, fun a b =>
      if b.toNat ≥ 32 then (if a.getLsbD 31 then 0xFFFFFFFF else 0) else BitVec.ofInt 32 (a.toInt / 2 ^ b.toNat))
  | .kaddi f => some (f, fun a _ => a + (f.b ++ f.x).signExtend 32)
  | _ => none

/-- The uniform words with a j result, as a function of the pairs j[a] and j[b] and of k[b] (R149). -/
def uniPair : Instr → Option (GA × (Dword → Dword → Word → Dword))
  | .jmov f => some (f, fun a _ _ => a)
  | .jadd f => some (f, fun a b _ => BitVec.ofNat 64 (a.toNat + b.toNat))
  | .jsub f => some (f, fun a b _ => BitVec.ofInt 64 ((a.toNat : Int) - b.toNat))
  | .jshl f => some (f, fun a _ n => if n.toNat ≥ 64 then 0 else BitVec.ofNat 64 (a.toNat * 2 ^ n.toNat))
  | .jshrl f => some (f, fun a _ n => if n.toNat ≥ 64 then 0 else BitVec.ofNat 64 (a.toNat / 2 ^ n.toNat))
  | _ => none

/-- The lanes of the mask in which p[n] is true. -/
def trueLanes (c : Ctx) (n : Nat) : List Nat := (lanesOf c.st.mask).filter fun l => readP c.g l n

/-- The uniform words with a q result (R136, R149). -/
def uniPred : Instr → Option (GA × (Ctx → GA → Bool))
  | .kcmp f => some (f, fun c f => condHolds (f.x.toNat % 16) (readK c.g f.a.toNat) (readK c.g f.b.toNat))
  | .jcmp f => some (f, fun c f => condHolds (f.x.toNat % 16) (readJ c.g f.a.toNat) (readJ c.g f.b.toNat))
  | .voteAny f => some (f, fun c f => decide (∃ l ∈ lanesOf c.st.mask, readP c.g l f.a.toNat = true))
  | .voteAll f => some (f, fun c f => decide (∀ l ∈ lanesOf c.st.mask, readP c.g l f.a.toNat = true))
  | .voteNone f => some (f, fun c f => decide (∀ l ∈ lanesOf c.st.mask, readP c.g l f.a.toNat = false))
  | _ => none

/-- A lane index names a lane of the group that is in the mask (R137). -/
def laneHeld (c : Ctx) (i : Nat) : Bool := decide (i < c.g.width) && c.st.mask.getLsbD i

/-- Codes of RDSV whose values are 64 bits wide (R138). -/
def wideSv (x : Nat) : Bool := x == 13 || x == 14 || x == 17 || x == 18 || x == 19

/-- A little-endian field of a launch record (R257) or of a task record (R262): `n` bytes at byte `off`. -/
def recField {w : Nat} (r : BitVec w) (off n : Nat) : Nat := r.toNat / 2 ^ (8 * off) % 2 ^ (8 * n)

/-- The launch neither streams nor is a bounds launch: FLAGS bits 2 and 3 (R257). -/
def gridLaunch (l : Launch) : Bool := !(recField l.rcd 11 1).testBit 2 && !(recField l.rcd 11 1).testBit 3

/-- The table of R138 for a strand of team `tm` of launch `l`. -/
def svTable (s : State) (c : Ctx) (tm : Team) (l : Launch) (x : Nat) : Nat :=
  let team := recField tm.rcd 2 3
  let ntx := recField l.rcd 12 4
  let nty := recField l.rcd 16 4
  let ntz := recField l.rcd 20 4
  match x with
  | 0 => c.g.width
  | 1 => c.g.idx
  | 2 => if (recField l.rcd 11 1).testBit 2 then 0 else if (recField l.rcd 11 1).testBit 3 then team else team % ntx
  | 3 => if gridLaunch l then team / ntx % nty else 0
  | 4 => if gridLaunch l then team / (ntx * nty) else 0
  | 5 => if gridLaunch l then ntx else 0
  | 6 => if gridLaunch l then nty else 0
  | 7 => if gridLaunch l then ntz else 0
  | 8 => recField l.rcd 10 1
  | 9 => c.core % 16
  | 10 => c.core / 2 % 8
  | 11 => c.core / 16 % 8
  | 12 => c.core / 128 % 4
  | 13 => s.time.toNat
  | 14 => recField l.rcd 72 8
  | 15 => tm.statBase
  | 16 => Config.retmin
  | 17 => recField tm.rcd 8 8
  | 18 => match tm.left with | some n => n | none => 2 ^ 64 - 1
  | 19 => c.st.mask.toNat
  | 20 => c.st.fx.toNat
  | 21 => c.st.fx.toNat
  | 22 => if c.st.lapse then 1 else 0
  | 23 => if c.st.lapse then 1 else 0
  | 24 => c.g.ctx.toNat
  | _ => c.g.nregs

/-- The control registers of RDCTL that are 64 bits wide, by their values (R279). -/
def wideCreg (s : State) (c : Ctx) (x : Nat) : Option Dword :=
  match x with
  | 1 => some c.st.epc
  | 2 => some c.st.value
  | 3 => some c.st.fpc
  | 6 => some (BitVec.ofNat 64
      ((mget {} (getCore s c.core).energy c.g.ctx.toNat).count.toNat +
        2 ^ 48 * (mget {} (getCore s c.core).energy c.g.ctx.toNat).sat.toNat))
  | _ => none

/-- The control registers of 32 bits (R279): CAUSE, the operand log, HND. -/
def narrowCreg (s : State) (c : Ctx) (x : Nat) : Word :=
  match x with
  | 0 => c.st.cause
  | 4 => match logOf (getCore s c.core) c.slot c.st.sid with
    | [] => 0
    | e :: l => BitVec.ofNat 32 (l.length + 1 + 2 ^ 8 * e.idx + 2 ^ 16 * (e.code % 256))
  | _ => if c.st.hnd then 1 else 0

/-- R126, R129, R130, R190: a write of k, j, q or G takes effect 2 cycles after the last issue cycle of its word. Until that cycle is over
the file is as it stood; its own strand reads the write in that cycle already, and from the next cycle on the file holds it. Of two
writes of one register the one that takes effect later stands, and of two in one cycle the one through the port of the higher number. -/
def UniformWritesLand : Prop :=
  ((∀ f c, landCycle c (firstWord (.kmov f)) = lastCycle c (firstWord (.kmov f)) + 2) ∧
  (∀ f c, landCycle c (firstWord (.jmov f)) = lastCycle c (firstWord (.jmov f)) + 2) ∧
  (∀ f c, landCycle c (firstWord (.kcmp f)) = lastCycle c (firstWord (.kcmp f)) + 2) ∧
  (∀ f c, landCycle c (firstWord (.mgath f)) = lastCycle c (firstWord (.mgath f)) + 2)) ∧
  (∀ i c ws n, c.g.uq = [] → (∀ w ∈ ws, w.1 < 72 ∨ 128 ≤ w.1 ∧ w.1 < 256) → (ws.map Prod.fst).Nodup →
    (n ≤ landCycle c (firstWord i) →
      uSettle (writing c i ws) n = { c.g with uv := [], uw := [], uq := (writing c i ws).uq }) ∧
    (∀ sb r v, n = landCycle c (firstWord i) → ws.lookup r = some v → r < 64 → mget 0 sb (128 + r) = n →
      readK (uView (uSettle (writing c i ws) n) sb n) r = v) ∧
    (landCycle c (firstWord i) < n →
      (uSettle (writing c i ws) n).uq = [] ∧
      (∀ r, r < 64 → readK (uSettle (writing c i ws) n) r = (ws.lookup r).getD (mget 0 c.g.k r)) ∧
      (∀ m, 1 ≤ m → m < 8 →
        readQ (uSettle (writing c i ws) n) m = ((ws.lookup (64 + m)).map fun x => x.getLsbD 0).getD (c.g.q.getLsbD m)) ∧
      (∀ r, r < 128 → mget 0 (uSettle (writing c i ws) n).gset r =
        ((ws.lookup (128 + r)).map fun x => x.extractLsb' 0 16).getD (mget 0 c.g.gset r)))) ∧
  (∀ (g : Group) (a b : UWrite) (r n : Nat), g.uq = [] → g.uv = [] → r < 64 → a.key = r → b.key = r → a.at_ < n → b.at_ < n →
    (a.at_ < b.at_ ∨ (a.at_ = b.at_ ∧ a.port < b.port)) →
    readK (uSettle { g with uq := uInsert a (uInsert b []) } n) r = b.val ∧
      readK (uSettle { g with uq := uInsert b (uInsert a []) } n) r = b.val)

end Sys2Proof

/-- R121, R126, R136, R137, R149, R150: each uniform word with a k or j result completes and writes the value the table gives, KLIT its
immediate and KLITH its upper half; compares and votes write q[d] alone; BALLOT's bit L is lane L's predicate in the mask. KSEL
selects by a q predicate; KREAD reads v[x] of a lane of the mask into k[d] and sets q7, and writes zero and clears q7 where k[a]
names no lane of the mask. No other register changes. The writes take effect as UniformWritesLand says. -/
def Obligations.UniformResults : Prop :=
  ((∀ i f op s c, uniWord i = some (f, op) → Issues i s c →
    ∃ t c', exec i s = .next t ∧
      UniDone i c s t c' (kIs f.d.toNat (op (readK c.g f.a.toNat) (readK c.g f.b.toNat)))) ∧
  (∀ f s c, Issues (.klit f) s c →
    ∃ t c', exec (.klit f) s = .next t ∧
      UniDone (.klit f) c s t c' (kIs f.d.toNat (BitVec.ofNat 32 f.imm.toNat))) ∧
  (∀ f s c, Issues (.klith f) s c →
    ∃ t c', exec (.klith f) s = .next t ∧
      UniDone (.klith f) c s t c'
        (kIs f.d.toNat (BitVec.ofNat 32 (f.imm.toNat * 2 ^ 16 + (readK c.g f.d.toNat).toNat % 2 ^ 16))))) ∧
  ((∀ i f op s c, uniPair i = some (f, op) → Issues i s c →
    ∃ t c', exec i s = .next t ∧
      UniDone i c s t c' (jIs f.d.toNat (op (readJ c.g f.a.toNat) (readJ c.g f.b.toNat) (readK c.g f.b.toNat)))) ∧
  (∀ f s c, Issues (.ballot f) s c →
    ∃ t c' x, exec (.ballot f) s = .next t ∧
      (∀ l, l < 64 → x.getLsbD l = (c.st.mask.getLsbD l && readP c.g l f.a.toNat)) ∧
      UniDone (.ballot f) c s t c' (jIs f.d.toNat x))) ∧
  (∀ i f val s c, uniPred i = some (f, val) → Issues i s c →
    ∃ t c', exec i s = .next t ∧ UniDone i c s t c' (qIs f.d.toNat (val c f))) ∧
  ((∀ f s c, Issues (.ksel f) s c →
    ∃ t c', exec (.ksel f) s = .next t ∧
      UniDone (.ksel f) c s t c'
        (kIs f.d.toNat (if readQ c.g (f.x.toNat % 8) then readK c.g f.a.toNat else readK c.g f.b.toNat))) ∧
  (∀ f s c, Issues (.kread f) s c →
    ∃ t c', exec (.kread f) s = .next t ∧
      UniDone (.kread f) c s t c'
        (kIs f.d.toNat (if laneHeld c (readK c.g f.a.toNat).toNat then
          readV c.g (readK c.g f.a.toNat).toNat f.x.toNat else 0) ++
        qIs 7 (laneHeld c (readK c.g f.a.toNat).toNat)))) ∧ UniformWritesLand

/-- R138, R254, R279, R301: RDSV, GETFMT, GETFMT.LK and RDCTL complete and write the value they name to k[d], or to j[d] where it
is 64 bits wide, 2 cycles after their issue; the clearing reads 21 and 23 of RDSV clear FX and the lapse flag. RDCTL of energy reads
the counter with RDCTL's own charge in it. -/
def Obligations.SystemValueResults : Prop :=
  (∀ f s c tm l, Issues (.rdsv f) s c → getTeam s c.g.team = some tm → mfind (getFe s tm.fe).slots tm.lslot = some l →
    ∃ t c', exec (.rdsv f) s = .next t ∧
      UniDone (.rdsv f) { c with st := { c.st with
          fx := if f.x.toNat = 21 then 0 else c.st.fx, lapse := if f.x.toNat = 23 then false else c.st.lapse } } s t c'
        (if wideSv f.x.toNat then jIs f.d.toNat (BitVec.ofNat 64 (svTable s c tm l f.x.toNat))
          else kIs f.d.toNat (BitVec.ofNat 32 (svTable s c tm l f.x.toNat)))) ∧
  (∀ f s c, Issues (.getfmt f) s c →
    ∃ t c', exec (.getfmt f) s = .next t ∧ UniDone (.getfmt f) c s t c' (kIs f.d.toNat c.st.fmt)) ∧
  (∀ f s c, Issues (.getfmtLk f) s c →
    ∃ t c', exec (.getfmtLk f) s = .next t ∧ UniDone (.getfmtLk f) c s t c' (jIs f.d.toNat c.st.lk)) ∧
  (∀ f s c, Issues (.rdctl f) s c →
    ∃ t c', exec (.rdctl f) s = .next t ∧
      UniDone (.rdctl f) c s t c' (match wideCreg (chargeInstr s c (firstWord (.rdctl f))) c f.a.toNat with
        | some x => jIs f.d.toNat x
        | none => kIs f.d.toNat (narrowCreg s c f.a.toNat)))


/-! ## The strand's own registers, branches and calls -/

namespace Sys2Proof

open Machine

/-- A word offset of 20 bits, or of 32, from an instruction: 4 × offset, signed (R240). -/
def jumpTo {w : Nat} (c : Ctx) (off : BitVec w) : Dword := c.st.pc + BitVec.ofInt 64 (4 * off.toInt)

/-- The lanes of a mask in which p[n] is true, as a mask. -/
def lanesTrue (c : Ctx) (n : Nat) : Dword := BitVec.ofFnLE fun l : Fin 64 => c.st.mask.getLsbD l && readP c.g l n

/-- No lane that a branch on p[n] would remove is in the mask (R330): none is open in interval form. -/
def NoneOpen (c : Ctx) (n : Nat) : Prop :=
  ∀ l, c.st.mask.getLsbD l = true → readOpen c.g l n = true → pointForm c.g l = true

/-- FX after a branch on p[n] (R330): BN is set where a lane in point form is open. -/
def fxOpen (c : Ctx) (n : Nat) : Word :=
  if ∃ l ∈ lanesOf c.st.mask, readOpen c.g l n = true ∧ pointForm c.g l = true then c.st.fx ||| 0x20 else c.st.fx

/-- The offset and number of a branch on a predicate of lanes, with its length (R244, R245). -/
def laneBranch : Instr → Option (Nat × BitVec 20)
  | .bra f => if 8 ≤ f.sel.toNat then some (f.sel.toNat - 7, f.off) else none
  | .brd f => some (f.sel.toNat - 7, f.off)
  | _ => none

end Sys2Proof

/-- R38, R254, R279: NOP leaves a void latch position and GNOP nothing at all. SETFMT writes FMT where its reserved bits are zero and
B may change, SETFMT.LK writes lk, and WRCTL writes the strand's copy of a control register, or the energy counter of its context
on its core. -/
def Obligations.StrandRegisterResults : Prop :=
  ((∀ f s c, Issues (.nop f) s c →
    ∃ t c', exec (.nop f) s = .next t ∧
      StrandDone (.nop f) c s t c' { c.st with pc := nextPc (.nop f) c, lat := c.st.lat ++ [.void] }) ∧
  (∀ f s c, Issues (.gnop f) s c →
    ∃ t c', exec (.gnop f) s = .next t ∧ StrandDone (.gnop f) c s t c' { c.st with pc := nextPc (.gnop f) c })) ∧
  ((∀ f s c, Issues (.setfmt f) s c → (readK c.g f.a.toNat).extractLsb' 6 2 = 0 → (readK c.g f.a.toNat).extractLsb' 17 15 = 0 →
    (fmtB (readK c.g f.a.toNat) = fmtB c.st.fmt ∨ c.g.bounds = true) →
    ∃ t c', exec (.setfmt f) s = .next t ∧
      StrandDone (.setfmt f) c s t c' { c.st with pc := nextPc (.setfmt f) c, fmt := readK c.g f.a.toNat }) ∧
  (∀ f s c, Issues (.setfmtLk f) s c →
    ∃ t c', exec (.setfmtLk f) s = .next t ∧
      StrandDone (.setfmtLk f) c s t c' { c.st with pc := nextPc (.setfmtLk f) c, lk := readJ c.g f.a.toNat }) ∧
  (∀ f s c, Issues (.wrctl f) s c → f.a.toNat ≤ 3 →
    ∃ t c', exec (.wrctl f) s = .next t ∧
      StrandDone (.wrctl f) c s t c' { c.st with
        pc := nextPc (.wrctl f) c
        cause := if f.a.toNat = 0 then BitVec.ofNat 32 ((readK c.g f.b.toNat).toNat % 2 ^ 16) else c.st.cause
        epc := if f.a.toNat = 1 then readJ c.g f.b.toNat else c.st.epc
        value := if f.a.toNat = 2 then readJ c.g f.b.toNat else c.st.value
        fpc := if f.a.toNat = 3 then readJ c.g f.b.toNat else c.st.fpc }) ∧
  (∀ f s c, Issues (.wrctl f) s c → f.a.toNat = 6 →
    ∃ t c', exec (.wrctl f) s = .next t ∧ StrandDone (.wrctl f) c s t c' { c.st with pc := nextPc (.wrctl f) c } ∧
      mget {} (getCore t c.core).energy c.g.ctx.toNat =
        ⟨(readJ c.g f.b.toNat).extractLsb' 0 48, (readJ c.g f.b.toNat).getLsbD 48⟩))

/-- R244, R245, R249, R253, R330: BRA on a q predicate goes to its target or on; CALL does so and writes lk; RET goes to lk. A branch on a
lane predicate whose lanes agree goes one way with the whole strand, and a region begins there. -/
def Obligations.BranchResults : Prop :=
  ((∀ f s c, Issues (.bra f) s c → Quiet c → f.sel.toNat < 8 →
    ∃ t c', exec (.bra f) s = .next t ∧
      StrandDone (.bra f) c s t c' { c.st with
        pc := if readQ c.g f.sel.toNat then jumpTo c f.off else nextPc (.bra f) c }) ∧
  (∀ f s c, Issues (.call f) s c →
    ∃ t c', exec (.call f) s = .next t ∧
      StrandDone (.call f) c s t c' { c.st with
        pc := if readQ c.g f.sel.toNat then jumpTo c f.off else nextPc (.call f) c
        lk := if readQ c.g f.sel.toNat then nextPc (.call f) c else c.st.lk }) ∧
  (∀ f s c, Issues (.ret f) s c →
    ∃ t c', exec (.ret f) s = .next t ∧ StrandDone (.ret f) c s t c' { c.st with pc := c.st.lk })) ∧
  (∀ i n off s c, laneBranch i = some (n, off) → Issues i s c → Quiet c → c.st.mask ≠ 0 → NoneOpen c n →
    (lanesTrue c n = c.st.mask →
      ∃ t c', exec i s = .next t ∧
        StrandDone i c s t c' (regionAt { c.st with pc := jumpTo c off, fx := fxOpen c n })) ∧
    (lanesTrue c n = 0 →
      ∃ t c', exec i s = .next t ∧
        StrandDone i c s t c' (regionAt { c.st with pc := nextPc i c, fx := fxOpen c n })))

/-! ## Splits and joins -/

namespace Sys2Proof

open Machine

/-- Reads words of code one after the other (R61): none where one of them meets a code. -/
def codeWords (c : Ctx) : List Dword → State → Option (List Word × State)
  | [], s => some ([], s)
  | a :: l, s =>
    match fetchWord s c a with
    | (.inl w, s) => (codeWords c l s).map fun x => (w :: x.1, x.2)
    | (.inr _, _) => none

/-- The four-lane slices of a mask that hold lanes (R246). -/
def slicesOf (m : Dword) : List Dword := ((List.range 16).map fun i => m &&& (0xF#64 <<< (4 * i))).filter (· ≠ 0)

/-- REGANG's word. -/
def regangWord : Word := 0xDA000000

end Sys2Proof

/-- R242, R244–R246, R253: a branch on a lane predicate whose lanes differ splits the strand in two, the one that goes on before the one
that jumps. BRD reads REGANG at its reconvergence address and pushes an entry for it. PART makes one strand of each four-lane slice
that holds lanes, and pushes an entry for its reconvergence address; a strand of one slice goes on in a new region. -/
def Obligations.SplitResults : Prop :=
  ((∀ f s c, Issues (.bra f) s c → Quiet c → 8 ≤ f.sel.toNat → NoneOpen c (f.sel.toNat - 7) →
    lanesTrue c (f.sel.toNat - 7) ≠ 0 → lanesTrue c (f.sel.toNat - 7) ≠ c.st.mask →
    ∃ t h, exec (.bra f) s = .next t ∧
      SplitDone (.bra f) c s t { c.st with fx := fxOpen c (f.sel.toNat - 7) }
        [⟨c.st.mask &&& ~~~lanesTrue c (f.sel.toNat - 7), nextPc (.bra f) c, c.st.lk⟩,
          ⟨lanesTrue c (f.sel.toNat - 7), jumpTo c f.off, c.st.lk⟩] c.g.join h) ∧
  (∀ f s c e, Issues (.brd f) s c → Quiet c → NoneOpen c (f.sel.toNat - 7) →
    lanesTrue c (f.sel.toNat - 7) ≠ 0 → lanesTrue c (f.sel.toNat - 7) ≠ c.st.mask →
    codeWords c [jumpTo c f.join] (chargeInstr s c (firstWord (.brd f))) = some ([regangWord], e) → c.g.join.length < 256 →
    ∃ t h, exec (.brd f) s = .next t ∧
      SplitDone (.brd f) c e t { c.st with fx := fxOpen c (f.sel.toNat - 7) }
        [⟨c.st.mask &&& ~~~lanesTrue c (f.sel.toNat - 7), nextPc (.brd f) c, c.st.lk⟩,
          ⟨lanesTrue c (f.sel.toNat - 7), jumpTo c f.off, c.st.lk⟩]
        (entryOf c.st (jumpTo c f.join) c.st.lk :: c.g.join) h)) ∧
  ((∀ f s c, Issues (.part f) s c → Quiet c → (slicesOf c.st.mask).length ≤ 1 →
    ∃ t c', exec (.part f) s = .next t ∧
      StrandDone (.part f) c s t c' (regionAt { c.st with pc := nextPc (.part f) c })) ∧
  (∀ f s c e, Issues (.part f) s c → Quiet c → 2 ≤ (slicesOf c.st.mask).length →
    codeWords c [jumpTo c f.off] (chargeInstr s c (firstWord (.part f))) = some ([regangWord], e) → c.g.join.length < 256 →
    ∃ t h, exec (.part f) s = .next t ∧
      SplitDone (.part f) c e t c.st ((slicesOf c.st.mask).map fun m => ⟨m, nextPc (.part f) c, c.st.lk⟩)
        (entryOf c.st (jumpTo c f.off) c.st.lk :: c.g.join) h))

namespace Sys2Proof

open Machine

/-- The table indices that lanes of the mask name in v[a], ascending. -/
def indicesOf (c : Ctx) (a n : Nat) : List Nat :=
  (List.range n).filter fun k => (lanesOf c.st.mask).any fun l => (readV c.g l a).toNat == k

/-- The targets of the indices `ks` with offsets `ws`. -/
def targetsOf (c : Ctx) (ks : List Nat) (ws : List Word) : List (Nat × Dword) := (ks.zip ws).map fun x => (x.1, jumpTo c x.2)

/-- One part for each target that a lane names, by the lowest of the indices given that names it (R247). -/
def partsOf (c : Ctx) (a : Nat) (ts : List (Nat × Dword)) (lk : Dword) : List SPart :=
  ((ts.map Prod.snd).eraseDups.map fun p =>
    (⟨maskOf ((lanesOf c.st.mask).filter fun l => ts.any fun x => x.1 == (readV c.g l a).toNat && x.2 == p), p, lk⟩ : SPart)).filter
      fun p => p.mask != 0

/-- The addresses of a table's entries `ks` (R247). -/
def entriesAt (c : Ctx) (off : Word) (ks : List Nat) : List Dword := ks.map fun k => jumpTo c off + 4 * BitVec.ofNat 64 (k + 2)

/-- BRX and CALLX: register, offset of the table, and the link that the strands will hold (R247, R248). -/
def tableJump : Instr → Option (Nat × Word × (Ctx → Dword))
  | .brx f => some (f.a.toNat, f.off, fun c => c.st.lk)
  | .callx f => some (f.a.toNat, f.off, fun c => c.st.pc + 8)
  | _ => none

/-- The stores that a strand leaves behind (R239). -/
def leftBy (c : Ctx) : List SStore := c.g.left ++ c.st.slog.filter fun x => !(c.g.left.any fun y => y.id == x.id)

/-- The join stack after lanes of a mask have exited (R251). -/
def exitedBy (js : List Join) (m : Dword) : List Join := js.map fun e => { e with exited := e.exited ||| (m &&& e.mask) }

/-- What the strand of `c` adds to the entry at which instruction `i`, REGANG, finds it (R250): its lanes, FX, the lapse flag, the
barriers it awaits, its stores and its scoreboard, but for what it has seen of memory, which R233 leaves to a choice. -/
def ArrivedAt (i : Instr) (c : Ctx) (e k : Join) : Prop :=
  k = { e with
    arrived := e.arrived ||| c.st.mask, fx := e.fx ||| c.st.fx, lapse := e.lapse || c.st.lapse, bars := e.bars ++ [c.st.bars]
    slog := e.slog ++ c.st.slog.filter fun x => !(e.slog.any fun y => y.id == x.id)
    sb := sbJoin e.sb (restedSb (strandAt c i).sb), cyc := max e.cyc (strandAt c i).cyc
    snap := k.snap, snapNo := k.snapNo, own := k.own, sigma := k.sigma, vis := k.vis }

/-- The strand's top entry: the most recent one whose lanes contain the strand's (R243). -/
def TopIs (js : List Join) (m : Dword) (n : Nat) : Prop :=
  (∃ e, js[n]? = some e ∧ m &&& ~~~e.mask = 0) ∧ ∀ k e, k < n → js[k]? = some e → m &&& ~~~e.mask ≠ 0

end Sys2Proof

/-- R247, R248: BRX and CALLX read the count and the targets that lanes name. With one target the strand goes there in a new
region; with several it splits by target and pushes the table's reconvergence entry. The groups stand by the lowest table index that
names each target; the model reads the whole table for that (log entry 48, DEDUCED). -/
def Obligations.TableTransferResults : Prop :=
  ∀ i a off lk s c n ws e, tableJump i = some (a, off, lk) → Issues i s c → Quiet c → c.st.mask ≠ 0 →
    1 ≤ n → n ≤ 16 → (∀ l ∈ lanesOf c.st.mask, (readV c.g l a).toNat < n) →
    codeWords c (jumpTo c off :: entriesAt c off (indicesOf c a n)) (chargeInstr s c (firstWord i)) = some (BitVec.ofNat 32 n :: ws, e) →
    (∀ p, partsOf c a (targetsOf c (indicesOf c a n) ws) (lk c) = [p] →
      ∃ t c', exec i s = .next t ∧ StrandDone i c e t c' (regionAt { c.st with pc := p.pc, lk := lk c })) ∧
    (∀ w vs e', (partsOf c a (targetsOf c (indicesOf c a n) ws) (lk c)).length ≠ 1 →
      codeWords c (entriesAt c off (List.range n) ++ [jumpTo c off + 4, jumpTo c w]) e = some (vs ++ [w, regangWord], e') → c.g.join.length < 256 →
      ∃ t h, exec i s = .next t ∧
        SplitDone i c e' t c.st (partsOf c a (targetsOf c (List.range n) vs) (lk c))
          (entryOf c.st (jumpTo c w) c.st.lk :: c.g.join) h)

/-- R250, R251, R372, R373: REGANG at the address of the strand's top entry parks the strand there, and the last to arrive makes the
merged strand; at any other address it begins a region and goes on. EXIT ends the strand: its lanes exit every entry, its stores
stay with the group, and entries that become full merge. HALT does the same and sets its core's bit in COREOFF. -/
def Obligations.LeavingResults : Prop :=
  ((∀ f s c n e, Issues (.regang f) s c → Quiet c → TopIs c.g.join c.st.mask n → c.g.join[n]? = some e → e.pc = c.st.pc →
    ∃ t h k, exec (.regang f) s = .next t ∧ ArrivedAt (.regang f) c e k ∧ LeftDone (.regang f) c s t (c.g.join.set n k) c.g.left c.g.seen h) ∧
  (∀ f s c, Issues (.regang f) s c → Quiet c →
    (∀ n e, TopIs c.g.join c.st.mask n → c.g.join[n]? = some e → e.pc ≠ c.st.pc) →
    ∃ t c', exec (.regang f) s = .next t ∧
      StrandDone (.regang f) c s t c' (regionAt { c.st with pc := nextPc (.regang f) c }))) ∧
  ((∀ f s c, Issues (.exit f) s c → Quiet c →
    ∃ t h, exec (.exit f) s = .next t ∧ LeftDone (.exit f) c s t (exitedBy c.g.join c.st.mask) (leftBy c) (seenJoin c.g.seen c.st.vis) h) ∧
  (∀ f s c, Issues (.halt f) s c → Quiet c →
    ∃ t h, exec (.halt f) s = .next t ∧
      LeftDone (.halt f) c (setDie s (dieOf c.core) { getDie s (dieOf c.core) with
        coreoff := (getDie s (dieOf c.core)).coreoff ||| (1#128 <<< (c.core % 128)) }) t
        (exitedBy c.g.join c.st.mask) (leftBy c) (seenJoin c.g.seen c.st.vis) h))

/-! ## Traps -/

/-- R278: RTE in a handler goes to EPC, RTE.TO to j[a], with HND = 0 and a region begun there; outside a handler each takes
an illegal-instruction trap. -/
def Obligations.ReturnResults : Prop :=
  (∀ f s c, Issues (.rte f) s c → c.st.hnd = true →
    ∃ t c', exec (.rte f) s = .next t ∧ StrandDone (.rte f) c s t c' (regionAt { c.st with pc := c.st.epc, hnd := false })) ∧
  (∀ f s c, Issues (.rteTo f) s c → c.st.hnd = true →
    ∃ t c', exec (.rteTo f) s = .next t ∧
      StrandDone (.rteTo f) c s t c' (regionAt { c.st with pc := readJ c.g f.a.toNat, hnd := false })) ∧
  (∀ f s c e h, Issues (.rte f) s c → HandlerAt (chargeInstr s c (firstWord (.rte f))) c 1 e h →
    ∃ t c', exec (.rte f) s = .next t ∧
      Trapped c (issued c (.rte f)) e t 1 0 ((firstWord (.rte f)).setWidth 64) c.st.pc h c') ∧
  (∀ f s c e h, Issues (.rteTo f) s c → HandlerAt (chargeInstr s c (firstWord (.rteTo f))) c 1 e h →
    ∃ t c', exec (.rteTo f) s = .next t ∧
      Trapped c (issued c (.rteTo f)) e t 1 0 ((firstWord (.rteTo f)).setWidth 64) c.st.pc h c')

namespace Sys2Proof

open Machine

/-- The checks of R39 that an instruction fails, by the cause they raise: what is illegal, an operand, E, a latch read. -/
def failsCheck (s : State) (c : Ctx) (i : Instr) : Nat → Prop
  | 1 => rangeOk i = false ∨ privOk s c (firstWord i) = false ∨ fmtOk c.st.fmt (firstWord i) = false ∨
      placeOk s c (firstWord i) = false
  | 2 => ((firstWord i).getLsbD 31 = true ∧ groupOperandOk c.st.fmt c.g.nregs (firstWord i) = false) ∨
      ((firstWord i).getLsbD 31 = false ∧ laneOperandOk c.st.fmt c.g.nregs (firstWord i) = false)
  | 3 => eOf i = false ∧ (mustE (firstWord i) = true ∨ 24 ≤ c.st.cnt + 1)
  | 4 => (firstWord i).getLsbD 31 = false ∧ laneLatchOk c.st.fmt c.st.lat (firstWord i) = false
  | _ => False

/-- Check `n` is the first that instruction `i` of the strand at work fails, and everything the strand issued before has completed its
effects (R39, R40, log entry 47, DEDUCED). -/
def FailsFirst (s : State) (c : Ctx) (i : Instr) (n : Nat) : Prop :=
  curCtx s = some c ∧ failsCheck s c i n ∧ (∀ m, m < n → ¬ failsCheck s c i m) ∧ settled s c.g c.st = true

end Sys2Proof

/-- R39, R40, R274, R275, R277, R284: TRAP and BKPT take their traps in a context with a handler: cause 13 or 12, VALUE the number, EPC
the next instruction. An instruction that fails checks takes the trap of the first one it fails, having changed nothing: VALUE is its
first word and EPC its address. A trap whose table entry can be read but is not enabled, or is zero,
stops the strand with cause 20 and posts code 0x46; one in a handler stops it with cause 19 and code 0x47. -/
def Obligations.TrapResults : Prop :=
  ((∀ f s c e h, Issues (.trap f) s c → HandlerAt (chargeInstr s c (firstWord (.trap f))) c 13 e h →
    ∃ t c', exec (.trap f) s = .next t ∧
      Trapped c (issued c (.trap f)) e t 13 0 (BitVec.ofNat 64 f.d.toNat) (nextPc (.trap f) c) h c') ∧
  (∀ f s c e h, Issues (.bkpt f) s c → HandlerAt (chargeInstr s c (firstWord (.bkpt f))) c 12 e h →
    ∃ t c', exec (.bkpt f) s = .next t ∧
      Trapped c (issued c (.bkpt f)) e t 12 0 (BitVec.ofNat 64 f.d.toNat) (nextPc (.bkpt f) c) h c')) ∧
  (∀ i s c n e h, isEncoded i = true → FailsFirst s c i n →
    HandlerAt s c n e h →
    ∃ t c', exec i s = .next t ∧ Trapped c c.g e t n 0 ((firstWord i).setWidth 64) c.st.pc h c') ∧
  ((∀ i s c n e h, isEncoded i = true → FailsFirst s c i n → TableAt s c n e h →
    (ctxBlock s (dieOf c.core) c.g.ctx.toNat).ttbase.getLsbD 0 = false ∨ h = 0 →
    ∃ t c', exec i s = .next t ∧ StoppedAs c c.g e t 20 n ((firstWord i).setWidth 64) 0x46 c') ∧
  (∀ i s c n, isEncoded i = true → FailsFirst s c i n → c.st.hnd = true →
    ∃ t c', exec i s = .next t ∧ StoppedAs c c.g s t 19 n ((firstWord i).setWidth 64) 0x47 c'))

/-! ## The column -/

namespace Sys2Proof

open Machine

/-- A lane's column address (R105): a + imm7 × size, of 32 bits. -/
def colEa (c : Ctx) (f : LM) (size l : Nat) : Nat := ((srcN c f.a f.lit l).toNat + f.imm.toNat * size) % 2 ^ 32

/-- The core whose column it names (R98): the partner of the pair with bit 30 set. -/
def colOf (c : Ctx) (ea : Nat) : Nat := if ea.testBit 30 then c.core ^^^ 1 else c.core

/-- Its byte address in that column. -/
def colAddr (ea : Nat) : Nat := ea % 2 ^ 25

/-- A byte of a column as a read finds it now (R109): zero in a lapsing sector that has expired. -/
def colByte (s : State) (core x : Nat) : Byte :=
  if lapExpired (getCore s core).col (x / 64) s.time.toNat then 0 else mget 0 (getCore s core).col.bytes x

/-- `n` bytes of a column as a read finds them, little-endian. -/
def colWord (s : State) (core x n : Nat) : Nat := readLE (colByte s core) x n

/-- The subcode of R100 that one access fails with, or 0. -/
def colSub (s : State) (c : Ctx) (size ea : Nat) : Nat := colFault (getCore s (colOf c ea)).col c.g.ctx ea size

/-- The lanes together write every byte of a sector (R110). -/
def wholeSector (c : Ctx) (f : LM) (size : Nat) (core sec : Nat) : Bool :=
  (List.range (64 / size)).all fun n => (guardLanes c f.g).any fun l =>
    colOf c (colEa c f size l) == core && colAddr (colEa c f size l) == 64 * sec + n * size

/-- The core and sector of a lane's access. -/
def laneSector (c : Ctx) (f : LM) (size l : Nat) : Nat × Nat := (colOf c (colEa c f size l), colAddr (colEa c f size l) / 64)

/-- A lane's access meets a trapping, expired sector that is not wholly written (R105). -/
def stale (s : State) (c : Ctx) (f : LM) (size : Nat) (store : Bool) (l : Nat) : Bool :=
  trapExpired (getCore s (laneSector c f size l).1).col (laneSector c f size l).2 s.time.toNat &&
    !(store && wholeSector c f size (laneSector c f size l).1 (laneSector c f size l).2)

/-- A lane's access meets a lapsing, expired sector that is not wholly written (R109, R110). -/
def lapses (s : State) (c : Ctx) (f : LM) (size : Nat) (store : Bool) (l : Nat) : Bool :=
  lapExpired (getCore s (laneSector c f size l).1).col (laneSector c f size l).2 s.time.toNat &&
    !(store && wholeSector c f size (laneSector c f size l).1 (laneSector c f size l).2)

/-- The accesses of a column word pass the checks of R100 and R105; no page is in exchange on the pair of cores, and no array of
the module holds an error or an injection for one. -/
structure ColPass (s : State) (c : Ctx) (f : LM) (size : Nat) (store : Bool) : Prop where
  legal : ∀ l ∈ guardLanes c f.g, colSub s c size (colEa c f size l) = 0
  fresh : ∀ l ∈ guardLanes c f.g, stale s c f size store l = false
  still : (getCore s c.core).col.busy = none ∧ (getCore s (c.core ^^^ 1)).col.busy = none
  sound : s.errs = []

/-- The strand with its lapse flag as the accesses leave it. -/
def lapsing (s : State) (c : Ctx) (f : LM) (size : Nat) (store : Bool) : Ctx :=
  { c with st := { c.st with lapse := c.st.lapse || (guardLanes c f.g).any fun l => lapses s c f size store l } }

/-- The column loads with their sizes and slots (R104). -/
def colLoad : Instr → Option (LM × Nat × SK)
  | .ldo f => some (f, 4, .n)
  | .ldoD f => some (f, 8, .w)
  | .ldoQ f => some (f, 16, .q)
  | _ => none

/-- The column stores with their sizes and slots (R104). -/
def colStore : Instr → Option (LM × Nat × SK)
  | .sto f => some (f, 4, .n)
  | .stoD f => some (f, 8, .w)
  | .stoQ f => some (f, 16, .q)
  | _ => none

/-- The updates, with what they make of a word and a lane's d (R104). -/
def colUpdate : Instr → Option (LM × (Word → Word → Word))
  | .oadd f => some (f, fun x d => BitVec.ofNat 32 (x.toNat + d.toNat))
  | .omaxu f => some (f, fun x d => if x.toNat < d.toNat then d else x)
  | _ => none

/-- Every column word of layout LM, with its size, and whether it can be a full write. -/
def colAny : Instr → Option (LM × Nat × Bool)
  | .ldo f => some (f, 4, false)
  | .ldoD f => some (f, 8, false)
  | .ldoQ f => some (f, 16, false)
  | .sto f => some (f, 4, true)
  | .stoD f => some (f, 8, true)
  | .stoQ f => some (f, 16, true)
  | .oadd f => some (f, 4, false)
  | .omaxu f => some (f, 4, false)
  | _ => none

/-- The result in flight of the lanes `far` of a load into the registers from `d` on (R103, R131). -/
def farPend (g : Group) (size d : Nat) (far : List Nat) (val : Nat → Nat) : Pend :=
  { id := g.nextId, lanes := maskOf far, vregs := (List.range (size / 4)).map (· + d), filled := true
    vw := far.flatMap fun l => (List.range (size / 4)).map fun n => (l, d + n, BitVec.ofNat 32 (val l / 2 ^ (32 * n))) }

/-- `e` is `s` with bytes of columns written: `new` gives what every byte reads as, and every sector of `touched` carries the
stamp of now. -/
structure ColWritten (s e : State) (touched : Nat → Nat → Prop) (new : Nat → Nat → Byte) : Prop where
  state : e = { s with cores := e.cores }
  cores : ∀ n, getCore e n = { getCore s n with col := { (getCore s n).col with
    bytes := (getCore e n).col.bytes, stamps := (getCore e n).col.stamps } }
  bytes : ∀ n x, colByte e n x = new n x
  stamps : ∀ n sec, (touched n sec → mfind (getCore e n).col.stamps sec = some (s.time.toNat : Int)) ∧
    (¬ touched n sec → mfind (getCore e n).col.stamps sec = mfind (getCore s n).col.stamps sec)

/-- A sector that a lane's access touches. -/
def touches (c : Ctx) (f : LM) (size n sec : Nat) : Prop :=
  ∃ l ∈ guardLanes c f.g, colOf c (colEa c f size l) = n ∧ colAddr (colEa c f size l) / 64 = sec

/-- The highest lane whose store covers a byte of a column (R102). -/
def lastLane (c : Ctx) (f : LM) (size n x : Nat) : Option Nat :=
  ((guardLanes c f.g).filter fun l => colOf c (colEa c f size l) == n &&
    decide (colAddr (colEa c f size l) ≤ x ∧ x < colAddr (colEa c f size l) + size)).getLast?

/-- A store completes: its strand goes on with a void latch position and no register changed. -/
def stored (i : Instr) (c : Ctx) : Strand := { c.st with pc := nextPc i c, lat := c.st.lat ++ [.void] }

end Sys2Proof

/-- R104, R105, R109: a column load gives each guard-true lane its bytes of the column as they stand, zeros where a lapsing
sector has expired, which sets the lapse flag. Lanes that name the partner column have their result in flight (R103, R131),
and the latch position is then void. -/
def Obligations.ColumnLoadResults : Prop :=
  ∀ i f size k s c, colLoad i = some (f, size, k) → Issues i s c → ColPass s c f size false →
    ((∀ l ∈ guardLanes c f.g, colOf c (colEa c f size l) = c.core) →
      ∃ t c', exec i s = .next t ∧
        LaneDone i (lapsing s c f size false) s t c' k f.d.toNat (guardLanes c f.g)
          (fun l => colWord s c.core (colAddr (colEa c f size l)) size) 0) ∧
    ((∃ l ∈ guardLanes c f.g, colOf c (colEa c f size l) ≠ c.core) →
      ∃ t c', exec i s = .next t ∧ Completed i c s t c' ∧ c'.st.pc = nextPc i c ∧
        OnlyPc (lapsing s c f size false).st c'.st ∧ (eOf i = false → c'.st.lat = c.st.lat ++ [.void]) ∧
        (∀ l r, r < 96 → readV c'.g l r =
          if l ∈ guardLanes c f.g ∧ colOf c (colEa c f size l) = c.core then
            (dstWord k f.d.toNat (colWord s c.core (colAddr (colEa c f size l)) size) r).getD (readV c.g l r)
          else readV c.g l r) ∧
        c'.g = { issued c i with
          v := c'.g.v, strands := c'.g.strands
          nextId := if 96 ≤ f.d.toNat then c.g.nextId else c.g.nextId + 1
          pend := if 96 ≤ f.d.toNat then c.g.pend else c.g.pend ++
            [farPend c.g size f.d.toNat ((guardLanes c f.g).filter fun l => colOf c (colEa c f size l) != c.core)
              (fun l => colWord s (c.core ^^^ 1) (colAddr (colEa c f size l)) size)] })

/-- R102, R104–R106, R110: after a column store every byte that a guard-true lane stores to holds the highest such lane's
byte; OADD and OMAXU update each word that guard-true lanes name with those lanes' d in ascending order of lanes. Every other
byte of every column reads as before, and each sector touched carries the stamp of now. -/
def Obligations.ColumnStoreResults : Prop :=
  (∀ i f size k s c, colStore i = some (f, size, k) → Issues i s c → ColPass s c f size true →
    ∃ e t c', exec i s = .next t ∧ StrandDone i c e t c' (stored i (lapsing s c f size true)) ∧
      ColWritten s e (touches c f size) (fun n x =>
        match lastLane c f size n x with
        | some l => BitVec.ofNat 8 (readSlot c k f.d.toNat f.lit l / 2 ^ (8 * (x - colAddr (colEa c f size l))))
        | none => colByte s n x)) ∧
  (∀ i f op s c, colUpdate i = some (f, op) → Issues i s c → ColPass s c f 4 false →
    ∃ e t c' new, exec i s = .next t ∧ StrandDone i c e t c' (stored i (lapsing s c f 4 false)) ∧
      ColWritten s e (touches c f 4) new ∧
      ∀ n w, BitVec.ofNat 32 (readLE (new n) (4 * w) 4) =
        ((guardLanes c f.g).filter fun l => colOf c (colEa c f 4 l) == n && colAddr (colEa c f 4 l) == 4 * w).foldl
          (fun x l => op x (srcN c f.d f.lit l)) (BitVec.ofNat 32 (colWord s n (4 * w) 4)))

/-- R100, R105, R274, R275: a column word of which a lane fails R100 takes a COLUMN trap, cause 5, with the lowest subcode of
any lane, and VALUE the address of the lowest lane that fails; one that meets a trapping, expired sector takes EXPIRED, cause 6,
with VALUE the base of the lowest such sector. Nothing is performed. -/
def Obligations.ColumnTraps : Prop :=
  ∀ i f size store s c, colAny i = some (f, size, store) → Issues i s c →
    (getCore s c.core).col.busy = none → (getCore s (c.core ^^^ 1)).col.busy = none →
    (∀ sub l e h, l ∈ guardLanes c f.g → colSub s c size (colEa c f size l) ≠ 0 →
      (∀ m ∈ guardLanes c f.g, m < l → colSub s c size (colEa c f size m) = 0) →
      (∃ m ∈ guardLanes c f.g, colSub s c size (colEa c f size m) = sub) → sub ≠ 0 →
      (∀ m ∈ guardLanes c f.g, colSub s c size (colEa c f size m) ≠ 0 → sub ≤ colSub s c size (colEa c f size m)) →
      HandlerAt (chargeInstr s c (firstWord i)) c 5 e h →
      ∃ t c', exec i s = .next t ∧ Trapped c (issued c i) e t 5 sub (BitVec.ofNat 64 (colEa c f size l)) c.st.pc h c') ∧
    (∀ l e h, l ∈ guardLanes c f.g → stale s c f size store l = true →
      (∀ m ∈ guardLanes c f.g, colSub s c size (colEa c f size m) = 0) →
      (∀ m ∈ guardLanes c f.g, stale s c f size store m = true → colEa c f size l / 64 ≤ colEa c f size m / 64) →
      HandlerAt (chargeInstr s c (firstWord i)) c 6 e h →
      ∃ t c', exec i s = .next t ∧
        Trapped c (issued c i) e t 6 0 (BitVec.ofNat 64 (colEa c f size l / 64 * 64)) c.st.pc h c')

namespace Sys2Proof

open Machine

/-- The run's context, with a region begun at the instruction after `i` (R125). -/
def begins (i : Instr) (c : Ctx) : Ctx :=
  { c with st := { regionAt { c.st with pc := nextPc i c } with pc := c.st.pc } }

/-- Granule `g` is the lowest with which `n` free ones begin (R111). -/
def LowestFree (s : State) (core n g : Nat) : Prop :=
  (∀ i < n, g + i < 98304 ∧ tagAt (getCore s core).col (g + i) = .free) ∧
    ∀ h < g, ∃ i < n, tagAt (getCore s core).col (h + i) ≠ .free

/-- The table of the energy counters of a context on a core, where there is one, lies in memory that is present (R43, R301). -/
def EnergyFits (s : State) (core ctx : Nat) : Prop := ∀ a, energyEntry s core ctx = some a → physOk s a 8 = true

/-- `e` is `s` with an allocation of a core made (R111): its granules tagged, its bytes zero and its sectors stamped with now;
the team's next number counted on. The context's energy counter may have been loaded (R301); a table in a hole is reported. -/
structure Allotted (s e : State) (core : Nat) (al : Alloc) : Prop where
  state : e = { s with cores := e.cores, teams := e.teams, rep := e.rep }
  cores : ∀ n, n ≠ core → getCore e n = getCore s n
  here : getCore e core = { getCore s core with col := (getCore e core).col, energy := (getCore e core).energy }
  energy : ∀ x, x ≠ al.ctx.toNat → mget {} (getCore e core).energy x = mget {} (getCore s core).energy x
  report : EnergyFits s core al.ctx.toNat → e.rep = s.rep
  allocs : (getCore e core).col.allocs = al :: (getCore s core).col.allocs
  tags : ∀ g, tagAt (getCore e core).col g =
    if al.base ≤ 256 * g ∧ 256 * g < al.base + al.size then .alloc al.ctx al.team al.num else tagAt (getCore s core).col g
  bytes : ∀ x, mget 0 (getCore e core).col.bytes x =
    if al.base ≤ x ∧ x < al.base + al.size then 0 else mget 0 (getCore s core).col.bytes x
  stamps : ∀ sec, mfind (getCore e core).col.stamps sec =
    if al.base ≤ 64 * sec ∧ 64 * sec < al.base + al.size then none else mfind (getCore s core).col.stamps sec
  teams : ∀ u, getTeam e u = if u = al.team then (getTeam s u).map fun t => { t with nextAlloc := t.nextAlloc + 1 } else getTeam s u

/-- The pieces of an allocation on a core: more than one once OSWAP has moved part of it (R118). -/
def piecesOf (s : State) (core : Nat) (al : Alloc) : List Alloc := (getCore s core).col.allocs.filter (sameAlloc al)

/-- A granule belongs to an allocation. -/
def holds (s : State) (core : Nat) (al : Alloc) (g : Nat) : Prop :=
  ∃ x ∈ piecesOf s core al, x.base ≤ 256 * g ∧ 256 * g < x.base + x.size

/-- `e` is `s` with an allocation released (R112): its granules free, and a pass of the cluster's dispatcher called for (R267). The
context's energy counter may have been saved (R301); a table in a hole is reported. -/
structure Freed (s e : State) (core : Nat) (al : Alloc) : Prop where
  state : e = { s with cores := e.cores, mem := e.mem, hist := e.hist, errs := e.errs, rep := e.rep, banks := e.banks }
  cores : ∀ n, n ≠ core → getCore e n = getCore s n
  here : getCore e core = { getCore s core with col := (getCore e core).col, energy := (getCore e core).energy }
  energy : ∀ x, x ≠ al.ctx.toNat → mget {} (getCore e core).energy x = mget {} (getCore s core).energy x
  mem : ∀ a, memByte e.mem a = memByte s.mem a ∨ ∃ b, energyEntry s core al.ctx.toNat = some b ∧ b ≤ a ∧ a < b + 8
  errs : s.errs = [] → e.errs = []
  report : EnergyFits s core al.ctx.toNat → e.rep = s.rep
  allocs : (getCore e core).col.allocs =
    (getCore s core).col.allocs.filter fun x => !((piecesOf s core al).any fun y => y.base == x.base)
  freed : ∀ g, holds s core al g → tagAt (getCore e core).col g = .free
  tags : ∀ g, ¬ holds s core al g → tagAt (getCore e core).col g = tagAt (getCore s core).col g
  pass : e.banks = (askPass s (clusterOf core)).banks

/-- The bounds of a lifetime (R107). -/
def lifetimeOk (cls l : Nat) : Prop := (cls = 0 ∧ l = 0) ∨ (cls ≠ 0 ∧ 1 ≤ l ∧ l ≤ 65535 ∧ l ≤ Config.retmin / 64)

/-- OALLOC's request is within R111. -/
def allocOk (s : State) (c : Ctx) (f : GA) : Prop :=
  (readK c.g f.a.toNat).toNat ≠ 0 ∧ (readK c.g f.a.toNat).toNat ≤ 0x1800000 ∧
    lifetimeOk (f.x.toNat % 4) (readK c.g f.b.toNat).toNat ∧ dynAllocs s c.g.team < 64

/-- The live dynamic allocation of the strand's team whose base is k[a] (R112). -/
def OwnAlloc (s : State) (c : Ctx) (f : GA) (al : Alloc) : Prop :=
  (getCore s c.core).col.allocs.find? (fun x =>
    x.base == (readK c.g f.a.toNat).toNat && x.off == 0 && x.team == c.g.team && !x.static) = some al

end Sys2Proof

/-- R107, R108, R111, R112: OALLOC makes an allocation at the lowest free place, with its address in k[d] and q7 set, or changes
nothing and answers 0xFFFFFFFF with q7 clear; OFREE releases an allocation of its own team, wherever OSWAP has put its pages, or clears
q7. A region begins after
each. -/
def Obligations.AllocationResults : Prop :=
  (∀ f s c tm g, Issues (.oalloc f) s c → allocOk s c f → getTeam s c.g.team = some tm → tm.uid = c.g.team → s.errs = [] →
    mwf Tag.free (getCore s c.core).col.tags = true →
    LowestFree s c.core (((readK c.g f.a.toNat).toNat + 255) / 256) g →
    ∃ e t c', exec (.oalloc f) s = .next t ∧
      Allotted s e c.core
        { base := 256 * g, size := ((readK c.g f.a.toNat).toNat + 255) / 256 * 256, cls := clsOf (f.x.toNat % 4)
          life := (readK c.g f.b.toNat).toNat, ctx := c.g.ctx, team := c.g.team, num := tm.nextAlloc, static := false
          born := s.time.toNat, root := 256 * g } ∧
      UniDone (.oalloc f) (begins (.oalloc f) c) e t c' (kIs f.d.toNat (BitVec.ofNat 32 (256 * g)) ++ qIs 7 true)) ∧
  (∀ f s c, Issues (.oalloc f) s c → mwf Tag.free (getCore s c.core).col.tags = true →
    (¬ allocOk s c f ∨ ∀ g, ¬ LowestFree s c.core (((readK c.g f.a.toNat).toNat + 255) / 256) g) →
    ∃ t c', exec (.oalloc f) s = .next t ∧
      UniDone (.oalloc f) (begins (.oalloc f) c) s t c' (kIs f.d.toNat 0xFFFFFFFF ++ qIs 7 false)) ∧
  (∀ f s c al, Issues (.ofree f) s c → OwnAlloc s c f al →
    (∀ x ∈ piecesOf s c.core al, x.size % 256 = 0 ∧ x.base % 256 = 0 ∧ x.ctx = al.ctx) →
    ∃ e t c', exec (.ofree f) s = .next t ∧ Freed s e c.core al ∧
      UniDone (.ofree f) (begins (.ofree f) c) e t c' (qIs 7 true)) ∧
  (∀ f s c, Issues (.ofree f) s c → (∀ al, ¬ OwnAlloc s c f al) →
    ∃ t c', exec (.ofree f) s = .next t ∧ UniDone (.ofree f) (begins (.ofree f) c) s t c' (qIs 7 false))

namespace Sys2Proof

open Machine

/-- A sector that ORENEW's range overlaps: k[a] and k[b] (R113). -/
def renewed (c : Ctx) (f : GA) (sec : Nat) : Prop :=
  colAddr (readK c.g f.a.toNat).toNat / 64 ≤ sec ∧
    64 * sec < colAddr (readK c.g f.a.toNat).toNat + (readK c.g f.b.toNat).toNat

/-- The core whose column ORENEW names. -/
def renewCore (c : Ctx) (f : GA) : Nat := colOf c (readK c.g f.a.toNat).toNat

/-- The pages that OSWAP may exchange (R118): aligned, inside the own column, two, and with no register granule. -/
def swapOk (s : State) (c : Ctx) (x y : Nat) : Prop :=
  x % 65536 = 0 ∧ y % 65536 = 0 ∧ x < 0x1800000 ∧ y < 0x1800000 ∧ x ≠ y ∧
    ∀ g r, tagAt (getCore s c.core).col g = .reg r → g / 256 ≠ x / 65536 ∧ g / 256 ≠ y / 65536

/-- A number `k` of a unit of which a page holds `n`, as an exchange of pages `x` and `y` finds its contents. -/
def exchanged (n x y k : Nat) : Nat :=
  if k / n = x then k % n + n * y else if k / n = y then k % n + n * x else k

/-- `e` is `s` with two pages of a core's column exchanged (R116, R118): bytes, stamps, owner tags, allocations and remap entries. The
exchange is in progress. -/
structure Exchanged (s e : State) (core x y : Nat) : Prop where
  state : e = { s with cores := e.cores }
  cores : ∀ n, n ≠ core → getCore e n = getCore s n
  here : getCore e core = { getCore s core with col := (getCore e core).col }
  busy : (getCore e core).col.busy = some (x, y)
  bytes : ∀ a, mget 0 (getCore e core).col.bytes a = mget 0 (getCore s core).col.bytes (exchanged 65536 x y a)
  tags : ∀ g, tagAt (getCore e core).col g = tagAt (getCore s core).col (exchanged 256 x y g)
  stamps : ∀ n, mfind (getCore e core).col.stamps n = mfind (getCore s core).col.stamps (exchanged 1024 x y n)
  allocs : (getCore e core).col.allocs = swapAllocs (65536 * x) (65536 * y) 65536 (getCore s core).col.allocs
  remap : ∀ p, mget p (getCore e core).col.remap p = mget (exchanged 1 x y p) (getCore s core).col.remap (exchanged 1 x y p)

/-- No entry of a column's maps is doubled. -/
def ColDistinct (k : Column) : Prop :=
  (k.bytes.map Prod.fst).Nodup ∧ (k.tags.map Prod.fst).Nodup ∧ (k.stamps.map Prod.fst).Nodup

end Sys2Proof

/-- R113, R116, R118: ORENEW stamps every sector it covers with now and leaves their contents, zeros in those that had lapsed,
which sets the lapse flag; q7 is 1. A length of 0 or beyond 65,536 changes nothing and clears q7. OSWAP in a privileged context
exchanges two pages and sets q7, or changes nothing and clears q7, once an earlier exchange has ended; each page's bytes, stamps and
owner tags then stand at the other's address. The exchange stands from OSWAP on, and its end changes nothing but that (log entry 19,
DEDUCED). -/
def Obligations.RenewAndExchangeResults : Prop :=
  (∀ f s c, Issues (.orenew f) s c → s.errs = [] → (getCore s (renewCore c f)).col.busy = none →
    1 ≤ (readK c.g f.b.toNat).toNat → (readK c.g f.b.toNat).toNat ≤ 65536 →
    (readK c.g f.a.toNat).extractLsb' 25 5 = 0 → (readK c.g f.a.toNat).getLsbD 31 = false →
    (∀ sec, renewed c f sec → sec < 0x60000 ∧ ownedBy (getCore s (renewCore c f)).col c.g.ctx (64 * sec) = true ∧
      trapExpired (getCore s (renewCore c f)).col sec s.time.toNat = false) →
    ∃ e t c' lapse, exec (.orenew f) s = .next t ∧
      (lapse = true ↔ c.st.lapse = true ∨ ∃ sec, renewed c f sec ∧ lapExpired (getCore s (renewCore c f)).col sec s.time.toNat = true) ∧
      ColWritten s e (fun n sec => n = renewCore c f ∧ renewed c f sec)
        (fun n x => colByte s n x) ∧
      UniDone (.orenew f) { c with st := { c.st with lapse := lapse } } e t c' (qIs 7 true)) ∧
  (∀ f s c, Issues (.orenew f) s c → (readK c.g f.b.toNat).toNat = 0 ∨ 65536 < (readK c.g f.b.toNat).toNat →
    ∃ t c', exec (.orenew f) s = .next t ∧ UniDone (.orenew f) c s t c' (qIs 7 false)) ∧
  (∀ f s c, Issues (.oswap f) s c → s.errs = [] → swapOk s c (readK c.g f.a.toNat).toNat (readK c.g f.b.toNat).toNat →
    mwf Tag.free (getCore s c.core).col.tags = true → ColDistinct (getCore s c.core).col →
    ∃ e t c', exec (.oswap f) s = .next t ∧
      Exchanged s e c.core ((readK c.g f.a.toNat).toNat / 65536) ((readK c.g f.b.toNat).toNat / 65536) ∧
      UniDone (.oswap f) c e t c' (qIs 7 true)) ∧
  (∀ f s c, Issues (.oswap f) s c → ¬ swapOk s c (readK c.g f.a.toNat).toNat (readK c.g f.b.toNat).toNat →
    mwf Tag.free (getCore s c.core).col.tags = true →
    ∃ t c', exec (.oswap f) s = .next t ∧ UniDone (.oswap f) c (settle s c.core) t c' (qIs 7 false)) ∧
  (∀ s core, (getCore s core).col.busy.isSome →
    ∃ t, exec (.oswapComplete core) s = .next t ∧
      t = setCore s core { getCore s core with col := { (getCore s core).col with busy := none } })

/-! ## Accesses to global memory -/

namespace Sys2Proof

open Machine

/-- What the strand of `c` sends toward memory at the addresses `pas`: with its team's owner tag (R295) and the selectors under which the
addresses are routed in `s` (R47). -/
def sends (s : State) (c : Ctx) (pas : List Nat) (o : MemOp) : Sent := ⟨c.st.sid, teamTag s c.g.team, routes s pas, o⟩

/-- The strand has completed `i` and become `u`, but for its run and cycle counts; it has sent `ops` toward memory, and the
results `ps` are in flight. No register has changed. -/
structure SentDone (i : Instr) (c : Ctx) (s t : State) (c' : Ctx) (u : Strand) (ops : List Sent) (ps : List Pend) : Prop where
  done : Completed i c s t c'
  pc : c'.st.pc = nextPc i c
  strand : OnlyPc u c'.st
  latch : eOf i = false → c'.st.lat = u.lat
  group : c'.g = { issued c i with
    ops := c.g.ops ++ ops, pend := c.g.pend ++ ps, nextId := c'.g.nextId
    strands := c'.g.strands }

/-- The strand has become `u`, parked for `w` with its run ended and its slot given up (R241); it has sent `ops` toward memory.
No register has changed. -/
structure ParkedAs (i : Instr) (c : Ctx) (s t : State) (c' : Ctx) (u : Strand) (w : Wait) (ops : List Sent) : Prop where
  strand : ctxAt t c.core c.slot c.st.sid = some c'
  untouched : Untouched c s t
  others : ∀ sid, sid ≠ c.st.sid → findStrand c'.g sid = findStrand c.g sid
  saved : OnlyPc { u with slot := false } c'.st
  pc : c'.st.pc = u.pc
  ended : t.cur = none ∧ c'.st.status = .parked w ∧ c'.st.cnt = 0 ∧ c'.st.lat = []
  group : c'.g = { issued c i with
    ops := c.g.ops ++ ops
    strands := c'.g.strands }

/-- The strand after `i`, and with a region begun there. -/
def after (i : Instr) (c : Ctx) : Strand := { c.st with pc := nextPc i c }
def afterRegion (i : Instr) (c : Ctx) : Strand := regionAt (after i c)

/-- A lane's virtual address (R72): a + imm7 × size, of 64 bits. -/
def globalEa (c : Ctx) (f : LM) (size l : Nat) : Nat := ((srcW c f.a f.lit l).toNat + f.imm.toNat * size) % 2 ^ 64

/-- Lanes with their addresses, physical addresses, page sizes and classes, each translated in turn: none where one meets a code
(R63, R72). -/
def reached (c : Ctx) (a : Acc) (align : Nat) (wr : Bool) :
    List (Nat × Nat) → State → Option (List LaneTr × State)
  | [], s => some ([], s)
  | (l, va) :: t, s =>
    match translate s c.core (dieOf c.core) c.g.ctx.toNat a align va wr with
    | (.ok pa lg cls, s) => (reached c a align wr t s).map fun x => (⟨l, va, pa, lg, cls⟩ :: x.1, x.2)
    | (.code _, _) => none

/-- A strand's view of memory (R233): its own latest write since its last acquire, else what memory held then. -/
def viewOf (t : Strand) (a : Nat) : Byte := (mfind t.own a).getD (memByte t.snap a)

/-- The lines of an access have been counted at their channels as reads (R51). -/
def counted (e : State) (c : Ctx) (pas : List Nat) : State := countLines e c.g.ctx.toNat false pas

/-- What a load reads at a physical address (R48, R233): a channel counter where the page is a counter page. -/
def loadOf (s : State) (t : Strand) (pa n : Nat) : Nat :=
  match place pa with
  | .ctr d o => chanRead s d o n
  | _ => readLE (viewOf t) pa n

/-- Words of a result for the registers from `d` on. -/
def wordsOf (size d lane x : Nat) : List (Nat × Nat × Word) :=
  (List.range (size / 4)).map fun n => (lane, d + n, BitVec.ofNat 32 (x / 2 ^ (32 * n)))

/-- The loads with their sizes (R71). -/
def globalLoad : Instr → Option (LM × Nat)
  | .ldg f => some (f, 4)
  | .ldgD f => some (f, 8)
  | .ldgQ f => some (f, 16)
  | _ => none

/-- The stores with their sizes and slots (R71). -/
def globalStore : Instr → Option (LM × Nat × SK)
  | .stg f => some (f, 4, .n)
  | .stgD f => some (f, 8, .w)
  | .stgQ f => some (f, 16, .q)
  | _ => none

/-- The atomics and compensated additions with their sizes, slots and whether they answer the old word (R71, R213). -/
def globalAtomic : Instr → Option (LM × Nat × SK × Bool)
  | .aadd f => some (f, 4, .n, true)
  | .amins f => some (f, 4, .n, true)
  | .amaxs f => some (f, 4, .n, true)
  | .aand f => some (f, 4, .n, true)
  | .aor f => some (f, 4, .n, true)
  | .axor f => some (f, 4, .n, true)
  | .axchg f => some (f, 4, .n, true)
  | .acas f => some (f, 4, .w, true)
  | .credf f => some (f, 8, .n, false)
  | .credd f => some (f, 16, .f, false)
  | _ => none

/-- The lanes of an access with their addresses. -/
def laneEas (c : Ctx) (f : LM) (size : Nat) : List (Nat × Nat) := (guardLanes c f.g).map fun l => (l, globalEa c f size l)

/-- The result in flight of a load or an atomic: none where no lane or no register waits for one. -/
def flight (c : Ctx) (size d : Nat) (ls : List Nat) (fill : Pend → Pend) : List Pend :=
  if ls = [] ∨ 96 ≤ d then []
  else [fill { id := c.g.nextId, lanes := maskOf ls, vregs := (List.range (size / 4)).map (· + d) }]

/-- The highest-numbered lane of an access that covers a byte. -/
def lastOf (ls : List LaneTr) (size a : Nat) : Option LaneTr :=
  (ls.filter fun x => decide (x.pa ≤ a ∧ a < x.pa + size)).getLast?

/-- The access as it goes to the Carillons (R72, R210). -/
def sentAccess (i : Instr) (c : Ctx) (f : LM) (size : Nat) (k : SK) (ls : List LaneTr) (pend : Option Nat) : Access :=
  { instr := i, pc := c.st.pc, ea := (laneEas c f size).map fun e => (e.1, BitVec.ofNat 64 e.2)
    data := (guardLanes c f.g).map fun l => (l, BitVec.ofNat 128 (readSlot c k f.d.toNat f.lit l))
    pend := pend, pas := ls.map fun x => (x.lane, x.pa), syncL := (ls.filter fun x => x.cls == 1).map (·.lane) }

/-- The strand has no entry in its core's operand log. -/
def NoLog (s : State) (c : Ctx) : Prop := logOf (getCore s c.core) c.slot c.st.sid = []

end Sys2Proof

/-- R71, R72, R131, R233: a load all of whose lanes translate completes, its values in flight for its registers: of each byte,
the strand's own latest write since its last acquire, else memory as that acquire found it (which of the writes that R233 allows that is
is free, log entry 5, DEDUCED). -/
def Obligations.GlobalLoadResults : Prop :=
  ∀ i f size s c ls e, globalLoad i = some (f, size) → Issues i s c → Quiet c → NoLog s c →
    reached c (.load size) size false (laneEas c f size) (chargeInstr s c (firstWord i)) = some (ls, e) → e.errs = [] →
    ∃ t c', exec i s = .next t ∧
      SentDone i c (counted e c (ls.map (·.pa))) t c' { after i c with lat := c.st.lat ++ [.void] } []
        (flight c size f.d.toNat (guardLanes c f.g) fun p => { p with
          filled := true, vw := ls.flatMap fun x => wordsOf size f.d.toNat x.lane (loadOf (counted e c (ls.map (·.pa))) c.st x.pa size) })

/-- R72, R73, R210, R211, R213, R233, R234: a store all of whose lanes translate enters the store log and the strand's own view,
the highest lane last, and leaves memory as it is; an atomic or a compensated addition is sent to the Carillons with its
addresses and data, its old words in flight, and a region begins. -/
def Obligations.GlobalWriteResults : Prop :=
  (∀ i f size k s c ls e, globalStore i = some (f, size, k) → Issues i s c → Quiet c → NoLog s c →
    storeOverflow s c ((laneEas c f size).map Prod.snd) = false → (∀ x ∈ c.st.slog, x.id < c.g.nextId) →
    reached c .store size true (laneEas c f size) (chargeInstr s c (firstWord i)) = some (ls, e) →
    ∃ t c' own, exec i s = .next t ∧
      SentDone i c e t c' { after i c with
        lat := c.st.lat ++ [.void], own := own
        slog := c.st.slog ++ ls.zipIdx.map fun x =>
          { id := c.g.nextId + x.2, va := x.1.va, size := size, pa := some x.1.pa
            val := readSlot c k f.d.toNat f.lit x.1.lane % 2 ^ 128, young := true, epoch := e.epoch, lg := x.1.lg
            sel := selectorAt e x.1.pa, lane := x.1.lane } } [] [] ∧
      ∀ a, viewOf { c.st with own := own } a =
        match lastOf ls size a with
        | some x => BitVec.ofNat 8 (readSlot c k f.d.toNat f.lit x.lane / 2 ^ (8 * (a - x.pa)))
        | none => viewOf c.st a) ∧
  (∀ i f size k old s c ls e, globalAtomic i = some (f, size, k, old) → Issues i s c → Quiet c → NoLog s c →
    reached c (if old then .atomic else .sync) size true (laneEas c f size) (chargeInstr s c (firstWord i)) = some (ls, e) →
    ∃ t c', exec i s = .next t ∧
      SentDone i c e t c' { afterRegion i c with lat := c.st.lat ++ [.void] }
        [sends e c (ls.map (·.pa)) (.atomic (sentAccess i c f size k ls
          (if old = true ∧ guardLanes c f.g ≠ [] ∧ f.d.toNat < 96 then some c.g.nextId else none)))]
        (if old = true then flight c 4 f.d.toNat (guardLanes c f.g) fun p => { p with car := true } else []))

/-! ## Counters, phases, waits -/

namespace Sys2Proof

open Machine

/-- The result in flight of a CREAD of a kind (R219). -/
def creadPend (c : Ctx) (kind d : Nat) : Pend :=
  { id := c.g.nextId, lanes := c.st.mask, kregs := if kind = 0 ∨ kind = 2 then [d, d + 1] else [d], q7 := true, car := true }

/-- The bytes a CREAD of a kind reads, which its address is aligned to. -/
def creadSize (kind : Nat) : Nat := match kind with | 2 => 16 | 3 => 4 | _ => 8

/-- The limit of a CWAIT (R218). -/
def cwaitLimit (s : State) (c : Ctx) (f : GA) : Option Nat :=
  if f.x.getLsbD 3 then some (s.time.toNat + (readK c.g f.d.toNat).toNat) else none

/-- A counter's value: zero for a free unit (R209). -/
def counterOf (s : State) (pa : Nat) : Nat := if (getUnit s pa).kind = .free then 0 else memRead s.mem pa 8

end Sys2Proof

/-- R217–R219, R221, R230, R372: CADD sends its release, if it has one, and its addition; CREAD sends its read; CWAIT parks for the
counter, which a value at or above the target satisfies at once, and marks the Carillon used (R208); REL sends a release; ACQ parks for an acquire; PHASE does both;
SLEEP parks until its TIME. -/
def Obligations.CounterAndPhaseResults : Prop :=
  (∀ f s c pa lg cls e, Issues (.cadd f) s c → Quiet c → NoLog s c →
    translate (chargeInstr s c (firstWord (.cadd f))) c.core (dieOf c.core) c.g.ctx.toNat .sync 8 (readJ c.g f.a.toNat).toNat true =
      (.ok pa lg cls, e) →
    ∃ t c', exec (.cadd f) s = .next t ∧
      SentDone (.cadd f) c e t c' (afterRegion (.cadd f) c)
        ((if f.x.getLsbD 3 then [sends e c [] (.release (f.x.toNat % 8) c.st.pc)] else []) ++
          [sends e c [pa] (.cadd (readJ c.g f.a.toNat) pa (readK c.g f.b.toNat) c.st.pc)]) []) ∧
  (∀ f s c pa lg cls e, Issues (.cread f) s c → Quiet c → NoLog s c →
    translate (chargeInstr s c (firstWord (.cread f))) c.core (dieOf c.core) c.g.ctx.toNat .sync (creadSize (f.x.toNat % 4))
      (readJ c.g f.a.toNat).toNat false = (.ok pa lg cls, e) →
    ∃ t c', exec (.cread f) s = .next t ∧
      SentDone (.cread f) c e t c' (after (.cread f) c)
        [sends e c [pa] (.cread (readJ c.g f.a.toNat) pa (f.x.toNat % 4) f.d.toNat c.g.nextId c.st.pc)]
        [creadPend c (f.x.toNat % 4) f.d.toNat]) ∧
  (∀ f s c pa lg cls e, Issues (.cwait f) s c → Quiet c → NoLog s c →
    translate (chargeInstr s c (firstWord (.cwait f))) c.core (dieOf c.core) c.g.ctx.toNat .sync 8 (readJ c.g f.a.toNat).toNat false =
      (.ok pa lg cls, e) →
    ((getUnit e pa).kind = .free ∨ (getUnit e pa).kind = .counter) → (getUnit e pa).bad = false → e.errs = [] →
    ∃ t c' met, exec (.cwait f) s = .next t ∧
      (met = true ↔ (readJ c.g f.b.toNat).toNat ≤ counterOf e pa ∧ ∀ l, cwaitLimit s c f = some l → e.time.toNat ≤ l) ∧
      ParkedAs (.cwait f) c (counted (carUse e pa) c [pa]) t c' (after (.cwait f) c)
        (.cwait (readJ c.g f.a.toNat) (some pa) (readJ c.g f.b.toNat) (cwaitLimit s c f) (f.x.toNat % 8) met) []) ∧
  (∀ f s c, Issues (.rel f) s c →
    ∃ t c', exec (.rel f) s = .next t ∧
      SentDone (.rel f) c s t c' (afterRegion (.rel f) c) [sends s c [] (.release (f.x.toNat % 8) c.st.pc)] []) ∧
  (∀ f s c, Issues (.acq f) s c →
    ∃ t c', exec (.acq f) s = .next t ∧ ParkedAs (.acq f) c s t c' (after (.acq f) c) (.acquire (f.x.toNat % 8) false) []) ∧
  (∀ f s c, Issues (.phase f) s c →
    ∃ t c', exec (.phase f) s = .next t ∧
      ParkedAs (.phase f) c s t c' (afterRegion (.phase f) c) (.acquire (f.x.toNat % 8) true)
        [sends s c [] (.release (f.x.toNat % 8) c.st.pc)]) ∧
  (∀ f s c, Issues (.sleep f) s c →
    ∃ t c', exec (.sleep f) s = .next t ∧
      ParkedAs (.sleep f) c s t c' (after (.sleep f) c) (.sleep (s.time.toNat + (readK c.g f.a.toNat).toNat)) [])

namespace Sys2Proof

open Machine

/-- A strand's pending arrival at a barrier (R225). -/
def arrivedIn (t : Strand) (scope line : Nat) : Option Nat :=
  (t.bars.find? fun b => b.scope = scope ∧ b.line = line).map (·.gen)

/-- The strand with its pending arrival at a barrier as given. -/
def withArrival (t : Strand) (scope line : Nat) (gen : Option Nat) : Strand :=
  { t with bars := (gen.map fun g => (⟨scope, line, g⟩ : BarRec)).toList ++ t.bars.filter fun b => !(b.scope == scope && b.line == line) }

/-- A release of the strand of `c` has been made that had no store to perform (R230–R232): what the strand sees is published in the
scope's domains. -/
def published (s : State) (c : Ctx) (scope : Nat) : State := publishIn s (domainsOf c.g.core c.g.team c.g.idx scope) c.st.vis

end Sys2Proof

/-- R224–R226: BAR arrives in the current generation and waits for it, with its region at the BAR; BARA arrives and goes on with a
region after it; BARW waits for the generation in which it arrived. A generation that has been released, and for BARW no arrival
at all, leaves the acquire alone. Stated for strands whose store log is empty: the release publishes what the strand sees. -/
def Obligations.BarrierResults : Prop :=
  (∀ f s c, Issues (.bar f) s c → Quiet c → c.st.slog = [] → arrivedIn c.st f.x.toNat f.d.toNat = none →
    ∃ t c', exec (.bar f) s = .next t ∧
      ParkedAs (.bar f) c (published s c f.x.toNat) t c'
        { regionAt (withArrival c.st f.x.toNat f.d.toNat (some (barGen s c.g f.x.toNat f.d.toNat))) with pc := nextPc (.bar f) c }
        (.bar 0 f.x.toNat f.d.toNat (barGen s c.g f.x.toNat f.d.toNat)) []) ∧
  (∀ f s c gen, Issues (.bar f) s c → Quiet c → arrivedIn c.st f.x.toNat f.d.toNat = some gen →
    (barGen s c.g f.x.toNat f.d.toNat ≤ gen →
      ∃ t c', exec (.bar f) s = .next t ∧
        ParkedAs (.bar f) c s t c' { regionAt c.st with pc := nextPc (.bar f) c } (.bar 0 f.x.toNat f.d.toNat gen) []) ∧
    (gen < barGen s c.g f.x.toNat f.d.toNat →
      ∃ t c', exec (.bar f) s = .next t ∧
        ParkedAs (.bar f) c s t c' (regionAt (withArrival (after (.bar f) c) f.x.toNat f.d.toNat none)) (.acquire f.x.toNat false) [])) ∧
  (∀ f s c, Issues (.bara f) s c → Quiet c → c.st.slog = [] →
    (∀ gen, arrivedIn c.st f.x.toNat f.d.toNat = some gen → gen < barGen s c.g f.x.toNat f.d.toNat) →
    ∃ t c', exec (.bara f) s = .next t ∧
      SentDone (.bara f) c (published s c f.x.toNat) t c'
        (regionAt (withArrival (after (.bara f) c) f.x.toNat f.d.toNat (some (barGen s c.g f.x.toNat f.d.toNat)))) [] []) ∧
  (∀ f s c gen, Issues (.bara f) s c → Quiet c → arrivedIn c.st f.x.toNat f.d.toNat = some gen →
    barGen s c.g f.x.toNat f.d.toNat ≤ gen →
    ∃ t c', exec (.bara f) s = .next t ∧
      ParkedAs (.bara f) c s t c' (after (.bara f) c) (.bar 1 f.x.toNat f.d.toNat gen) []) ∧
  (∀ f s c gen, Issues (.barw f) s c → Quiet c → arrivedIn c.st f.x.toNat f.d.toNat = some gen →
    barGen s c.g f.x.toNat f.d.toNat ≤ gen →
    ∃ t c', exec (.barw f) s = .next t ∧
      ParkedAs (.barw f) c s t c' (after (.barw f) c) (.bar 2 f.x.toNat f.d.toNat gen) []) ∧
  (∀ f s c, Issues (.barw f) s c → Quiet c →
    (∀ gen, arrivedIn c.st f.x.toNat f.d.toNat = some gen → gen < barGen s c.g f.x.toNat f.d.toNat) →
    ∃ t c', exec (.barw f) s = .next t ∧
      ParkedAs (.barw f) c s t c' (withArrival (after (.barw f) c) f.x.toNat f.d.toNat none) (.acquire f.x.toNat false) [])

/-! ## The matrix engine -/

namespace Sys2Proof

open Machine

/-- An operand of a product keeps R188, R189 and R192: reserved fields, shape, placement, and those of its scale tile. -/
structure OperandOk (isB is64 : Bool) (f : Nat) (t sc : TileRec) : Prop where
  zeros : t.zeros = true ∧ (blockFmt is64 f = true → sc.zeros = true)
  shape : 1 ≤ t.rows ∧ t.rows ≤ (if isB then 256 else 128) ∧ 32 ≤ t.cols ∧ t.cols ≤ 1024 ∧ t.cols % 32 = 0
  scales : blockFmt is64 f = true →
    if isB then sc.rows = t.cols / 32 ∧ sc.cols = t.rows else sc.rows = t.rows ∧ sc.cols = t.cols / 32
  place : t.base % 16 = 0 ∧ t.pitch % 16 = 0 ∧ (t.rows ≤ 1 ∨ (t.cols * elemBits is64 f + 7) / 8 ≤ t.pitch)
  scalePlace : blockFmt is64 f = true → sc.base % 256 = 0 ∧ sc.pitch % 2 = 0 ∧ 2 * sc.cols ≤ sc.pitch

/-- Rows of elements of `e` entries stay within an accumulator reservation (R192). -/
def AccFits (size : Nat) (acc : Word) (e rows cols : Nat) : Prop :=
  rows = 0 ∨ cols = 0 ∨
    (accBaseOf acc + accPitchOf acc * (rows - 1) + e * cols ≤ size ∧ (rows ≤ 1 ∨ e * cols ≤ accPitchOf acc))

/-- A tile record in four registers from k[a] (R188). -/
def tileAt (c : Ctx) (a : Nat) : TileRec := tileOf (kWords c.g a 4)

/-- The entries of an accumulator element (R187). -/
def accUnit (m : Word) : Nat := if fmt64 m then 2 else 1

/-- The column ranges of a product's operands on the issuing core (R193), of A the given rows: the stored row of A's row r is the gather
set's entry r with GATHER. -/
def productFoot (i : Instr) (c : Ctx) (f : GA) (rows : List Nat) (useB : Bool) : List Range :=
  let fa := fmtFA c.st.fmt
  let fb := fmtFB c.st.fmt
  let is64 := fmt64 c.st.fmt
  let ix := fun r => if f.x.toNat.testBit 1 then (mget 0 c.g.gset r).toNat else r
  let b := tileAt c f.b.toNat
  (if readsA (wOp (firstWord i)) c.core then tileRanges (tileAt c f.a.toNat) rows (elemBits is64 fa) ix ++
    (if blockFmt is64 fa then tileRanges (tileAt c (f.a.toNat + 4)) rows 16 ix else []) else []) ++
  (if readsB (wOp (firstWord i)) c.core ∧ useB then tileRanges b (List.range b.rows) (elemBits is64 fb) id ++
    (if blockFmt is64 fb then tileRanges (tileAt c (f.b.toNat + 4)) (List.range (tileAt c (f.b.toNat + 4)).rows) 16 id else []) else [])

/-- All that a product's operands name. -/
def productAll (i : Instr) (c : Ctx) (f : GA) : List Range := productFoot i c f (List.range (tileAt c f.a.toNat).rows) true

/-- What a product reads (R193, R194): the rows of A that it processes, and B unless it processes none; the panels that MMAX reads for other
cores are taken whole (log entry 26, DEDUCED). -/
def productReadsOf (i : Instr) (c : Ctx) (f : GA) : List Range :=
  let rows := if wOp (firstWord i) = 0x22 then List.range (tileAt c f.a.toNat).rows
    else procRows (f.x.toNat.testBit 2) c.g.width c.st.mask (tileAt c f.a.toNat).rows
  productFoot i c f rows !(wOp (firstWord i) == 0x20 && rows.isEmpty)

/-- Every byte of column ranges is an allocation of the context (R192). -/
def FootOk (s : State) (c : Ctx) (rs : List Range) : Prop :=
  ∀ r ∈ rs, ∀ x, r.1 ≤ x → x < r.1 + r.2 → x < 0x1800000 ∧ ownedBy (getCore s c.core).col c.g.ctx x = true

/-- Column ranges touch a sector. -/
def sectorIn (rs : List Range) (sec : Nat) : Prop := ∃ r ∈ rs, ∃ x, r.1 ≤ x ∧ x < r.1 + r.2 ∧ x / 64 = sec

/-- Column ranges cover all of a sector. -/
def sectorAll (rs : List Range) (sec : Nat) : Prop := ∀ y, y / 64 = sec → ∃ r ∈ rs, r.1 ≤ y ∧ y < r.1 + r.2

/-- The sectors whose expiry is judged at issue: those read, and those written in part (R193, R202). -/
def judged (reads parts : List Range) (sec : Nat) : Prop := sectorIn reads sec ∨ (sectorIn parts sec ∧ ¬ sectorAll parts sec)

/-- No trapping sector that is judged has expired (R193). -/
def Fresh (s : State) (c : Ctx) (reads parts : List Range) : Prop :=
  ∀ sec, judged reads parts sec → trapExpired (getCore s c.core).col sec s.time.toNat = false

/-- The lapsed sectors of an operation (R193). -/
def LapsedAre (s : State) (c : Ctx) (reads parts : List Range) (l : List Nat) : Prop :=
  ∀ sec, sec ∈ l ↔ lapExpired (getCore s c.core).col sec s.time.toNat = true ∧ judged reads parts sec

/-- The checks that a product passes before it takes its place in the queue (R191, R192). -/
structure ProductOk (i : Instr) (f : GA) (s : State) (c : Ctx) : Prop where
  a : readsA (wOp (firstWord i)) c.core = true →
    OperandOk false (fmt64 c.st.fmt) (fmtFA c.st.fmt) (tileAt c f.a.toNat) (tileAt c (f.a.toNat + 4))
  b : readsB (wOp (firstWord i)) c.core = true →
    OperandOk true (fmt64 c.st.fmt) (fmtFB c.st.fmt) (tileAt c f.b.toNat) (tileAt c (f.b.toNat + 4))
  both : readsA (wOp (firstWord i)) c.core = true → readsB (wOp (firstWord i)) c.core = true →
    (tileAt c f.a.toNat).cols = (tileAt c f.b.toNat).cols ∧
      AccFits (accOn s c.g.team c.core).2 (readK c.g f.d.toNat) (accUnit c.st.fmt) (tileAt c f.a.toNat).rows (tileAt c f.b.toNat).rows
  teams : wOp (firstWord i) = 0x22 → mmaxTeams s c.g = true
  foot : FootOk s c (productAll i c f)
  fresh : Fresh s c (productReadsOf i c f) []
  still : (getCore s c.core).col.busy = none
  room : (getCore s c.core).mq.length < 16

/-- The state with an operation at the end of a core's matrix queue. -/
def queuedMat (s : State) (core : Nat) (o : MOp) : State :=
  setCore s core { getCore s core with mq := (getCore s core).mq ++ [o] }

/-- A product as queued (R191): its records as they stood at issue. -/
def productOp (i : Instr) (f : GA) (c : Ctx) (lapsed : List Nat) : MOp := {
  instr := i, grp := c.slot, sid := c.st.sid, pc := c.st.pc, mask := c.st.mask, fmt := c.st.fmt, word := firstWord i
  acc := readK c.g f.d.toNat, a := kWords c.g f.a.toNat 4, as_ := kWords c.g (f.a.toNat + 4) 4
  b := kWords c.g f.b.toNat 4, bs := kWords c.g (f.b.toNat + 4) 4, gset := c.g.gset, lapsed := lapsed }

/-- The strand after a matrix word: the lapse flag, and a region where one begins. -/
def afterMat (i : Instr) (c : Ctx) (region : Bool) (lapsed : List Nat) : Strand :=
  let t := { after i c with lapse := c.st.lapse || !lapsed.isEmpty }
  if region then regionAt t else t

/-- MCLR, MSTA and MLDA as queued. -/
def moveOp (i : Instr) (f : GA) (c : Ctx) (a : List Word) (lapsed : List Nat) : MOp := {
  instr := i, grp := c.slot, sid := c.st.sid, pc := c.st.pc, mask := c.st.mask, fmt := c.st.fmt, word := firstWord i
  acc := readK c.g f.d.toNat, a := a, as_ := [], b := [], bs := [], gset := [], lapsed := lapsed }

/-- MSTA and MLDA, and whether they store. -/
def matMove : Instr → Option (GA × Bool)
  | .msta f => some (f, true)
  | .mlda f => some (f, false)
  | _ => none

/-- MGATH's writes of the gather set, one for each lane whose entry exists (R190). -/
def gathers (f : GA) (c : Ctx) : List (Nat × Word) :=
  ((lanesOf c.st.mask).filter fun l => decide ((readK c.g f.a.toNat).toNat + l < 128)).flatMap fun l =>
    gIs ((readK c.g f.a.toNat).toNat + l) ((readV c.g l f.x.toNat).extractLsb' 0 16)

/-- The column rows of MSTA or MLDA, and those of the rows that it processes (R194, R202). -/
def moveFoot (c : Ctx) (f : GA) : List Range :=
  tileRanges (tileAt c f.a.toNat) (List.range (tileAt c f.a.toNat).rows) (codeBits (f.x.toNat % 16)) id
def moveParts (c : Ctx) (f : GA) : List Range :=
  tileRanges (tileAt c f.a.toNat) (procRows (f.x.toNat.testBit 4) c.g.width c.st.mask (tileAt c f.a.toNat).rows)
    (codeBits (f.x.toNat % 16)) id

end Sys2Proof

/-- R191–R195, R199–R203, R190: MMA, MCLR, MSTA and MLDA whose checks pass take their place in the core's queue with their records
and go on; MMAP and MMAX do so and park for their engine; a region begins after an MMA that adds to its accumulator. MFENCE
goes on. MGATH writes entries of the gather set, for its lanes, that take effect 2 cycles after issue, as UniformWritesLand says. -/
def Obligations.MatrixQueueResults : Prop :=
  (∀ f s c, Issues (.mma f) s c → ProductOk (.mma f) f s c →
    ∃ t c' l, exec (.mma f) s = .next t ∧ LapsedAre s c (productReadsOf (.mma f) c f) [] l ∧
      StrandDone (.mma f) c (queuedMat s c.core (productOp (.mma f) f c l)) t c' (afterMat (.mma f) c (!f.x.getLsbD 0) l)) ∧
  (∀ f s c, Issues (.mmap f) s c → ProductOk (.mmap f) f s c →
    ∃ t c' l, exec (.mmap f) s = .next t ∧ LapsedAre s c (productReadsOf (.mmap f) c f) [] l ∧
      ParkedAs (.mmap f) c (queuedMat s c.core (productOp (.mmap f) f c l)) t c' (afterMat (.mmap f) c false l) .engine []) ∧
  (∀ f s c, Issues (.mmax f) s c → ProductOk (.mmax f) f s c →
    ∃ t c' l, exec (.mmax f) s = .next t ∧ LapsedAre s c (productReadsOf (.mmax f) c f) [] l ∧
      ParkedAs (.mmax f) c (queuedMat s c.core (productOp (.mmax f) f c l)) t c' (afterMat (.mmax f) c false l) .engine []) ∧
  (∀ f s c, Issues (.mclr f) s c → (getCore s c.core).mq.length < 16 →
    AccFits (accOn s c.g.team c.core).2 (readK c.g f.d.toNat) (accUnit c.st.fmt) ((readK c.g f.a.toNat).extractLsb' 0 16).toNat
      ((readK c.g f.a.toNat).extractLsb' 16 16).toNat →
    ∃ t c', exec (.mclr f) s = .next t ∧
      StrandDone (.mclr f) c (queuedMat s c.core (moveOp (.mclr f) f c [readK c.g f.a.toNat] [])) t c' (after (.mclr f) c)) ∧
  (∀ i f store s c, matMove i = some (f, store) → Issues i s c → (getCore s c.core).mq.length < 16 →
    (tileAt c f.a.toNat).zeros = true → tileOk (tileAt c f.a.toNat) (codeBits (f.x.toNat % 16)) = true →
    AccFits (accOn s c.g.team c.core).2 (readK c.g f.d.toNat) (accUnit c.st.fmt) (tileAt c f.a.toNat).rows (tileAt c f.a.toNat).cols →
    FootOk s c (moveFoot c f) → Fresh s c (if store then [] else moveParts c f) (if store then moveParts c f else []) →
    (getCore s c.core).col.busy = none →
    ∃ t c' l, exec i s = .next t ∧ LapsedAre s c (if store then [] else moveParts c f) (if store then moveParts c f else []) l ∧
      StrandDone i c (queuedMat s c.core (moveOp i f c (kWords c.g f.a.toNat 4) l)) t c' (afterMat i c false l)) ∧
  (∀ f s c, Issues (.mfence f) s c → ∃ t c', exec (.mfence f) s = .next t ∧ StrandDone (.mfence f) c s t c' (after (.mfence f) c)) ∧
  (∀ f s c, Issues (.mgath f) s c → ∃ t c', exec (.mgath f) s = .next t ∧ UniDone (.mgath f) c s t c' (gathers f c))

namespace Sys2Proof

open Machine

/-- A core's die does not meter heat tokens (R366): RATE is 0. -/
def Unmetered (s : State) (core : Nat) : Prop := (mget 0x00400000 s.mg.htcfg (dieOf core)).extractLsb' 0 16 = 0

/-- Where an operation's accumulator begins on its core. -/
def accStart (s : State) (core : Nat) (g : Group) (o : MOp) : Nat := (accOn s g.team core).1 + accBaseOf o.acc

/-- The first entry of element (i, j) of an operation's accumulator (R187). -/
def accPos (s : State) (core : Nat) (g : Group) (o : MOp) (i j : Nat) : Nat :=
  accStart s core g o + accPitchOf o.acc * i + accUnit o.fmt * j

/-- Element (i, n) of a product (R196), A and B from the operations `a` and `b` with their columns. In FP64 mode one fused multiply-add
for each k, ascending; else in FP32 blocks of 32 products, each summed exactly and rounded to nearest even, added in turn with that
rounding. It starts from the old element, or from −0 with CLR. -/
def productElem (s : State) (core : Nat) (g : Group) (o : MOp) (a b : Source) (i n : Nat) : Nat :=
  let ra := matByte (getCore s a.core).col a.op.lapsed
  let rb := matByte (getCore s b.core).col b.op.lapsed
  let row := if o.word.toNat.testBit 1 then (mget 0 a.op.gset i).toNat else i
  let old := if o.word.getLsbD 0 then (if fmt64 o.fmt then 2 ^ 63 else 2 ^ 31)
    else accRead (getCore s core).acc (accPos s core g o i n) (fmt64 o.fmt)
  let ta := tileOf a.op.a
  let tb := tileOf b.op.b
  if fmt64 o.fmt then
    (List.range ta.cols).foldl (fun x k =>
      (ffma fp64 rmNear false (elemCode ra 64 (ta.base + ta.pitch * row) k) (elemCode rb 64 (tb.base + tb.pitch * n) k) x).1) old
  else
    (List.range (ta.cols / 32)).foldl (fun x kb =>
      let terms := (List.range 32).map fun j =>
        (fvMul (operandVal ra false (fmtFA o.fmt) ta (tileOf a.op.as_) row (32 * kb + j))
          (operandVal rb true (fmtFB o.fmt) tb (tileOf b.op.bs) n (32 * kb + j))).1
      (fadd fp32 rmNear false x (roundFormat fp32 rmNear false (blockSum terms)).1).1) old

/-- The rows that a core's part of a product processes (R194): those of A's tile under its own mask. -/
def partRows (g : Group) (o : MOp) (a : Source) : List Nat := procRows (o.word.toNat.testBit 2) g.width o.mask (tileOf a.op.a).rows

/-- A product of the engines of `cores` that has started: the heads of their queues are `l`, no heat is metered, no error stands in the
way and no exchange of pages is in progress. -/
structure Started (s : State) (op core : Nat) (l : List Source) : Prop where
  product : op = 0x20 ∨ op = 0x21 ∨ op = 0x22
  heads : headsOf s op true (productCores op core) = some l
  cool : Unmetered s core
  sound : s.errs = []
  still : ∀ x ∈ l, (getCore s x.core).col.busy = none
  fits : ∀ x ∈ l, ∀ g, getGroup s x.core x.op.grp = some g →
    AccFits (accOn s g.team x.core).2 x.op.acc (accUnit x.op.fmt) (tileOf (sourceA op l x).op.a).rows (tileOf (sourceB op l x).op.b).rows

/-- The heads of a list of cores each hold an unstarted product of an opcode, whose engines hold together (R199, R200). -/
def AllHold (s : State) (op : Nat) (cores : List Nat) (l : List Source) : Prop :=
  headsOf s op false cores = some l ∧ heldTogether s op cores = true

/-- The started products go on in `t`, and a strand that was parked for its engine is ready (R199, R200). -/
def Going (s t : State) (l : List Source) : Prop :=
  ∀ x ∈ l, headOp t x.core = some { x.op with started := true } ∧
    ∀ c, ctxAt s x.core x.op.grp x.op.sid = some c → c.st.status = .parked .engine →
      ∃ c', ctxAt t x.core x.op.grp x.op.sid = some c' ∧ c'.st.status = .ready

/-- A tile move of the head of a core's queue that has started, with its group: no error stands in the way and no exchange of pages is in
progress. -/
structure Moving (s : State) (core : Nat) (o : MOp) (g : Group) : Prop where
  head : headOp s core = some o
  started : o.started = true
  group : getGroup s core o.grp = some g
  sound : s.errs = []
  still : (getCore s core).col.busy = none
  tile : tileOk (tileOf o.a) (codeBits (o.word.toNat % 16)) = true
  fits : AccFits (accOn s g.team core).2 o.acc (accUnit o.fmt) (tileOf o.a).rows (tileOf o.a).cols

/-- The rows and column address of a tile move's elements (R194, R202). -/
def moveRows (g : Group) (o : MOp) : List Nat := procRows (o.word.toNat.testBit 4) g.width o.mask (tileOf o.a).rows
def moveAddr (o : MOp) (i j : Nat) : Nat := (tileOf o.a).base + (tileOf o.a).pitch * i + codeBits (o.word.toNat % 16) / 8 * j

/-- The accumulator's format of an operation. -/
def accFmt (o : MOp) : Fmt := if fmt64 o.fmt then fp64 else fp32

/-- What MSTA stores for element (i, j), and what MLDA loads (R202): the conversion between the accumulator's format and that of the
code, under FMT.RM with the sat of the code, without FZ. -/
def storedElem (s : State) (core : Nat) (g : Group) (o : MOp) (i j : Nat) : Nat :=
  (convFF (accFmt o) (codeFmt (o.word.toNat % 16)).1 (fmtRM o.fmt) (codeFmt (o.word.toNat % 16)).2 false false
    (accRead (getCore s core).acc (accPos s core g o i j) (fmt64 o.fmt))).1
def loadedElem (s : State) (core : Nat) (o : MOp) (i j : Nat) : Nat :=
  (convFF (codeFmt (o.word.toNat % 16)).1 (accFmt o) (fmtRM o.fmt) false false false
    (readLE (matByte (getCore s core).col o.lapsed) (moveAddr o i j) (codeBits (o.word.toNat % 16) / 8))).1

/-- An entry of an accumulator belongs to an element that an operation writes. -/
def accTouched (s : State) (core : Nat) (g : Group) (o : MOp) (rows : List Nat) (cols p : Nat) : Prop :=
  ∃ i ∈ rows, ∃ j < cols, accPos s core g o i j ≤ p ∧ p < accPos s core g o i j + accUnit o.fmt

/-- A byte of the column belongs to an element that MSTA writes. -/
def tileTouched (g : Group) (o : MOp) (y : Nat) : Prop :=
  ∃ i ∈ moveRows g o, ∃ j < (tileOf o.a).cols, moveAddr o i j ≤ y ∧ y < moveAddr o i j + codeBits (o.word.toNat % 16) / 8

/-- MSTA writes in a sector, and it clears the rest of it, for it had lapsed at issue and nothing has written it since (R110, R202). -/
def writesIn (g : Group) (o : MOp) (sec : Nat) : Prop := ∃ y, tileTouched g o y ∧ y / 64 = sec
def clears (s : State) (core : Nat) (g : Group) (o : MOp) (sec : Nat) : Prop :=
  writesIn g o sec ∧ sec ∈ o.lapsed ∧ lapExpired (getCore s core).col sec s.time.toNat = true

end Sys2Proof

/-- R187, R194, R196–R202: MATRIX_OP_START starts the head of a queue, or makes the engine hold for its partners. Where heat is not
metered and no error stands in the way, MATRIX_OP_COMPLETE of an MMA, MMAP or MMAX gives every element that its cores process its sum,
in FP32 or FP64, and leaves every other entry; of MCLR it clears the processed elements; of MSTA it stores the converted elements,
stamps their sectors, and clears the rest of a sector that had lapsed at issue; of MLDA it loads the converted elements. MMAP_START and
MMAX_START start products whose engines hold together and whose records agree, and their strands go on; a hold of 65,536 cycles without
its partners ends in PAIR_TIMEOUT's trap. -/
def Obligations.MatrixCompletionResults : Prop :=
  ((∀ s core o, headOp s core = some o → o.started = false →
    exec (.matrixOpStart core) s = .next
      (if wOp o.word = 0x21 ∨ wOp o.word = 0x22 then
        (if (getCore s core).hold = none then setCore s core { getCore s core with hold := some (nowCycle s core) } else s)
      else setHead s core { o with started := true })) ∧
  (∀ s pair l, AllHold s 0x21 [2 * pair, 2 * pair + 1] l → startSub s 0x21 l = 0 →
    ∃ t, exec (.mmapStart pair) s = .next t ∧ Going s t l) ∧
  (∀ s cluster l, AllHold s 0x22 ((List.range 16).map (16 * cluster + ·)) l → multicastRoom s cluster = true → startSub s 0x22 l = 0 →
    ∃ t, exec (.mmaxStart cluster) s = .next t ∧ Going s t l) ∧
  (∀ s core o t0, headOp s core = some o → (getCore s core).hold = some t0 → o.started = false → t0 + 65536 ≤ nowCycle s core →
    (∃ d ∈ productCores (wOp o.word) core, holdsBy s (wOp o.word) d (t0 + 65536) = false) →
    exec (.pairTimeout core) s = .next (trapAt (popHead s core) core o.grp o.sid o.pc 9 0 (o.word.setWidth 64)))) ∧
  (∀ s op core l, Started s op core l → (op = 0x22 → multicastWaits s (clusterOf core) = false) →
    ∃ t, exec (.matrixOpComplete core) s = .next t ∧ (op ≠ 0x22 → t = { s with cores := t.cores }) ∧
      ∀ x ∈ l, (getCore t x.core).mq = (getCore s x.core).mq.tail ∧ (getCore t x.core).hold = none ∧
        (getCore t x.core).col = (getCore s x.core).col ∧
        ∀ g, getGroup s x.core x.op.grp = some g →
          (∀ i ∈ partRows g x.op (sourceA op l x), ∀ n < (tileOf (sourceB op l x).op.b).rows,
            accRead (getCore t x.core).acc (accPos s x.core g x.op i n) (fmt64 x.op.fmt) =
              productElem s x.core g x.op (sourceA op l x) (sourceB op l x) i n % 2 ^ (32 * accUnit x.op.fmt)) ∧
          ∀ p, ¬ accTouched s x.core g x.op (partRows g x.op (sourceA op l x)) (tileOf (sourceB op l x).op.b).rows p →
            mget 0 (getCore t x.core).acc p = mget 0 (getCore s x.core).acc p) ∧
  ((∀ s core o g, headOp s core = some o → o.started = true → wOp o.word = 0x23 → getGroup s core o.grp = some g → s.errs = [] →
    ∃ t, exec (.matrixOpComplete core) s = .next t ∧ t = { s with cores := t.cores } ∧
      (getCore t core).mq = (getCore s core).mq.tail ∧
      ∀ p, mget 0 (getCore t core).acc p =
        if ∃ i ∈ procRows (o.word.toNat.testBit 2) g.width o.mask ((o.a.headD 0).extractLsb' 0 16).toNat,
            accStart s core g o + accPitchOf o.acc * i ≤ p ∧
              p < accStart s core g o + accPitchOf o.acc * i + accUnit o.fmt * ((o.a.headD 0).extractLsb' 16 16).toNat
        then 0 else mget 0 (getCore s core).acc p) ∧
  (∀ s core o g, Moving s core o g → wOp o.word = 0x24 →
    ∃ t, exec (.matrixOpComplete core) s = .next t ∧ t = { s with cores := t.cores } ∧
      (getCore t core).mq = (getCore s core).mq.tail ∧ (getCore t core).acc = (getCore s core).acc ∧
      (∀ i ∈ moveRows g o, ∀ j < (tileOf o.a).cols, ∀ b < codeBits (o.word.toNat % 16) / 8,
        mget 0 (getCore t core).col.bytes (moveAddr o i j + b) = BitVec.ofNat 8 (storedElem s core g o i j / 2 ^ (8 * b))) ∧
      (∀ y, ¬ tileTouched g o y →
        (clears s core g o (y / 64) → mget 0 (getCore t core).col.bytes y = 0) ∧
        (¬ clears s core g o (y / 64) → mget 0 (getCore t core).col.bytes y = mget 0 (getCore s core).col.bytes y)) ∧
      ∀ sec, (writesIn g o sec → mfind (getCore t core).col.stamps sec = some (s.time.toNat : Int)) ∧
        (¬ writesIn g o sec → mfind (getCore t core).col.stamps sec = mfind (getCore s core).col.stamps sec)) ∧
  (∀ s core o g, Moving s core o g → wOp o.word = 0x25 →
    ∃ t, exec (.matrixOpComplete core) s = .next t ∧ t = { s with cores := t.cores } ∧
      (getCore t core).mq = (getCore s core).mq.tail ∧ (getCore t core).col = (getCore s core).col ∧
      (∀ i ∈ moveRows g o, ∀ j < (tileOf o.a).cols,
        accRead (getCore t core).acc (accPos s core g o i j) (fmt64 o.fmt) = loadedElem s core o i j % 2 ^ (32 * accUnit o.fmt)) ∧
      ∀ p, ¬ accTouched s core g o (moveRows g o) (tileOf o.a).cols p →
        mget 0 (getCore t core).acc p = mget 0 (getCore s core).acc p))

/-! ## Engine commands, launches, streams -/

namespace Sys2Proof

open Machine

/-- The commands of a single block, with the TYPE that their record holds (R83). -/
def engineCmd : Instr → Option (GA × Nat)
  | .copy f => some (f, 1)
  | .tile f => some (f, 2)
  | .puts f => some (f, 3)
  | _ => none

/-- A refusal's value (R84): 0x80000000 + code. -/
def refusal (code : Nat) : Word := BitVec.ofNat 32 (0x80000000 + code)

/-- A strand that has refused: k[d] and q7 written, and a region begun at the next instruction. -/
def Refused (i : Instr) (c : Ctx) (s : State) (d code : Nat) : Prop :=
  ∃ t c', exec i s = .next t ∧ UniDone i (begins i c) s t c' (kIs d (refusal code) ++ qIs 7 false)

/-- The ticket that a core gives next (R84). -/
def nextTicket (s : State) (core : Nat) : Word := BitVec.ofNat 32 (core * 2 ^ 22 + (getCore s core).seq % 2 ^ 22)

/-- `e` is `s` with a command accepted (R76, R84): it takes the lowest free slot of the walker, unless others wait before it, or
waits behind them; its ticket is kept at its core. -/
structure CmdAccepted (s e : State) (core walker : Nat) (cmd : Cmd) : Prop where
  state : e = { s with cores := e.cores, walkers := e.walkers }
  cores : ∀ n, n ≠ core → getCore e n = getCore s n
  here : getCore e core = { getCore s core with
    seq := ((getCore s core).seq + 1) % 2 ^ 22, tickets := (getCore e core).tickets }
  ticket : ∃ x, mfind (getCore e core).tickets ((getCore s core).seq % 2 ^ 22) = some x ∧ x.ctx = cmd.ctx ∧ x.team = cmd.team ∧
    x.err = 0 ∧ x.blocks = 0 ∧ x.state = if (getWalker s walker).pendq = [] ∧ freeSlot s walker ≠ none then 1 else 0
  walkers : ∀ n, n ≠ walker → getWalker e n = getWalker s n
  placed : ∀ i, (getWalker s walker).pendq = [] → freeSlot s walker = some i →
    (getWalker e walker).pendq = [] ∧ ∃ x, mfind (getWalker e walker).slots i = some x ∧ x.cmd = cmd ∧ x.blk = cmd.blk ∧
      x.phase = if cmd.chain then .fetch else .permit
  waits : (getWalker s walker).pendq ≠ [] ∨ freeSlot s walker = none →
    getWalker e walker = { getWalker s walker with pendq := (getWalker s walker).pendq ++ [cmd] }

/-- The command that an instruction makes. -/
def cmdOf (s : State) (c : Ctx) (chain : Bool) (addr : Nat) (blk : BitVec 1024) : Cmd :=
  { ticket := nextTicket s c.core, chain := chain, ctx := c.g.ctx, core := c.core, team := c.g.team
    part := (teamTag s c.g.team).1, gen := (teamTag s c.g.team).2, addr := addr, blk := blk }

/-- The number of the walker that a command names, among all. -/
def walkerOf (c : Ctx) (f : GA) : Nat := 4 * clusterOf c.core + f.x.toNat % 4

/-- A record of `n` bytes of the own column can be read: its bytes are the context's, fresh, not in exchange, without error. -/
structure RecordOk (s : State) (c : Ctx) (a n : Nat) : Prop where
  owned : ∀ x, a ≤ x → x < a + n → ownedBy (getCore s c.core).col c.g.ctx x = true
  fresh : ∀ x, a ≤ x → x < a + n → trapExpired (getCore s c.core).col (x / 64) s.time.toNat = false
  still : (getCore s c.core).col.busy = none
  sound : s.errs = []

/-- The context with the lapse flag that reading a record leaves. -/
def readLapse (s : State) (c : Ctx) (a n : Nat) : Ctx :=
  let t := c.st.lapse || (List.range n).any fun x => lapExpired (getCore s c.core).col ((a + x) / 64) s.time.toNat
  { c with st := { c.st with lapse := t } }

/-- The block that a command's record holds (R85). -/
def blockAt (s : State) (c : Ctx) (a : Nat) : BitVec 1024 := BitVec.ofNat 1024 (colWord s c.core a 128)

/-- The walker slot of a chain that a token reaches. -/
def chainSlot (s : State) (c : Ctx) (t : Word) (w i : Nat) (x : WSlot) : Prop :=
  t.getLsbD 31 = false ∧ (t.extractLsb' 26 5).toNat = clusterOf c.core ∧
    findTicket s (clusterOf c.core) t = some (w, some i, x.cmd) ∧ mfind (getWalker s w).slots i = some x ∧ x.cmd.ctx = c.g.ctx

end Sys2Proof

/-- R76, R83–R86: COPY, TILE and PUTS take the 128 bytes at their address as a block, and CHAIN the address of one; a block that is
not of the type, or is malformed, an address out of form, and a walker without room are refused with their codes. An accepted
command takes a slot or waits, and k[d] holds its ticket. A region begins either way. -/
def Obligations.EngineCommandResults : Prop :=
  (∀ i f ty s c, engineCmd i = some (f, ty) → Issues i s c → Quiet c → c.core < 512 →
    ((readK c.g f.a.toNat).toNat % 128 ≠ 0 ∨ 0x1800000 ≤ (readK c.g f.a.toNat).toNat → Refused i c s f.d.toNat 1) ∧
    ((readK c.g f.a.toNat).toNat % 128 = 0 → (readK c.g f.a.toNat).toNat < 0x1800000 →
      RecordOk s c (readK c.g f.a.toNat).toNat 128 →
      (bType (blockAt s c (readK c.g f.a.toNat).toNat) ≠ ty →
        Refused i (readLapse s c (readK c.g f.a.toNat).toNat 128) s f.d.toNat 2) ∧
      (bType (blockAt s c (readK c.g f.a.toNat).toNat) = ty →
        (bLinkc (blockAt s c (readK c.g f.a.toNat).toNat) ≠ 0 ∨
          blockOk c.core (blockAt s c (readK c.g f.a.toNat).toNat) = false →
          Refused i (readLapse s c (readK c.g f.a.toNat).toNat 128) s f.d.toNat 3) ∧
        (bLinkc (blockAt s c (readK c.g f.a.toNat).toNat) = 0 → blockOk c.core (blockAt s c (readK c.g f.a.toNat).toNat) = true →
          (walkerRoom s c.core (f.x.toNat % 4) = false →
            Refused i (readLapse s c (readK c.g f.a.toNat).toNat 128) s f.d.toNat 4) ∧
          (walkerRoom s c.core (f.x.toNat % 4) = true →
            ∃ e t c', exec i s = .next t ∧
              CmdAccepted s e c.core (walkerOf c f) (cmdOf s c false 0 (blockAt s c (readK c.g f.a.toNat).toNat)) ∧
              UniDone i (begins i (readLapse s c (readK c.g f.a.toNat).toNat 128)) e t c'
                (kIs f.d.toNat (nextTicket s c.core) ++ qIs 7 true)))))) ∧
  (∀ f s c, Issues (.chain f) s c → Quiet c → c.core < 512 →
    ((readJ c.g f.a.toNat).toNat % 128 ≠ 0 ∨ 2 ^ 57 ≤ (readJ c.g f.a.toNat).toNat → Refused (.chain f) c s f.d.toNat 5) ∧
    ((readJ c.g f.a.toNat).toNat % 128 = 0 → (readJ c.g f.a.toNat).toNat < 2 ^ 57 →
      (walkerRoom s c.core (f.x.toNat % 4) = false → Refused (.chain f) c s f.d.toNat 4) ∧
      (walkerRoom s c.core (f.x.toNat % 4) = true →
        ∃ e t c', exec (.chain f) s = .next t ∧
          CmdAccepted s e c.core (walkerOf c f) (cmdOf s c true (readJ c.g f.a.toNat).toNat 0) ∧
          UniDone (.chain f) (begins (.chain f) c) e t c' (kIs f.d.toNat (nextTicket s c.core) ++ qIs 7 true))))

/-- R91–R93: TOKEN appends a token to a chain of its cluster and context, and is refused where the value is too large, the ticket
not the cluster's or unknown, the chain ended, or four tokens queued; ESTAT answers the status of a ticket that its core keeps for
the context, and q7 says whether it is complete. That TOKEN's value is tested before its ticket is log entry 22, DEDUCED. -/
def Obligations.TokenAndStatusResults : Prop :=
  (∀ f s c, Issues (.token f) s c → Quiet c →
    (256 ≤ (readK c.g f.b.toNat).toNat → Refused (.token f) c s f.d.toNat 3) ∧
    ((readK c.g f.b.toNat).toNat < 256 →
      ((readK c.g f.a.toNat).getLsbD 31 = true ∨ ((readK c.g f.a.toNat).extractLsb' 26 5).toNat ≠ clusterOf c.core ∨
          findTicket s (clusterOf c.core) (readK c.g f.a.toNat) = none → Refused (.token f) c s f.d.toNat 0x0C) ∧
      (∀ w i x, chainSlot s c (readK c.g f.a.toNat) w i x →
        (x.cmd.chain = false ∨ x.phase = .ended → Refused (.token f) c s f.d.toNat 0x0E) ∧
        (x.cmd.chain = true → x.phase ≠ .ended →
          (4 ≤ x.cmd.tokens.length → Refused (.token f) c s f.d.toNat 0x0D) ∧
          (x.cmd.tokens.length < 4 →
            ∃ t c', exec (.token f) s = .next t ∧
              UniDone (.token f) (begins (.token f) c)
                (setSlot s w i { x with cmd := { x.cmd with
                  tokens := x.cmd.tokens ++ [(readK c.g f.b.toNat).extractLsb' 0 8] } }) t c' (kIs f.d.toNat 0 ++ qIs 7 true)))))) ∧
  (∀ f s c, Issues (.estat f) s c →
    ((∀ x, mfind (getCore s c.core).tickets ((readK c.g f.a.toNat).toNat % 2 ^ 22) = some x →
        (readK c.g f.a.toNat).getLsbD 31 = true ∨ (readK c.g f.a.toNat).toNat / 2 ^ 22 ≠ c.core ∨ x.ctx ≠ c.g.ctx) →
      ∃ t c', exec (.estat f) s = .next t ∧ UniDone (.estat f) c s t c' (kIs f.d.toNat 0x8000000C ++ qIs 7 false)) ∧
    (∀ x, mfind (getCore s c.core).tickets ((readK c.g f.a.toNat).toNat % 2 ^ 22) = some x →
      (readK c.g f.a.toNat).toNat / 2 ^ 22 = c.core → c.core < 512 → x.ctx = c.g.ctx → x.state < 4 →
      ∃ t c' v, exec (.estat f) s = .next t ∧ UniDone (.estat f) c s t c' (kIs f.d.toNat v ++ qIs 7 (x.state == 2)) ∧
        (v.extractLsb' 0 2).toNat = x.state ∧ v.getLsbD 3 = x.lapse ∧ v.extractLsb' 4 4 = 0 ∧ v.extractLsb' 8 8 = x.err ∧
        v.extractLsb' 16 8 = x.fcode ∧ (v.extractLsb' 24 7).toNat = min x.blocks 127 ∧ v.getLsbD 31 = false))

namespace Sys2Proof

open Machine

/-- The front end of a context (R57). -/
def homeFe (s : State) (c : Ctx) : Nat := ctxPart s (dieOf c.core) c.g.ctx.toNat

/-- The lowest free launch slot. -/
def LowestSlot (s : State) (f n : Nat) : Prop :=
  n < 2048 ∧ mfind (getFe s f).slots n = none ∧ ∀ m < n, mfind (getFe s f).slots m ≠ none

/-- TSPAWN and TSPAWN.EOS. -/
def spawnWord : Instr → Option GA
  | .tspawn f => some f
  | .tspawnEos f => some f
  | _ => none

/-- The records that a TSPAWN reads: one for each lane, none with 0xFFFFFFFF (R270). -/
def spawnRecords (s : State) (c : Ctx) (a : Nat) : List (BitVec 512) :=
  if a = 0xFFFFFFFF then []
  else (List.range (lanesOf c.st.mask).length).map fun n => BitVec.ofNat 512 (colWord s c.core a (64 * (lanesOf c.st.mask).length) / 2 ^ (512 * n))

/-- A record as a producer may spawn it (R270): LREF, AGE and BUDGET zero. -/
def mayspawn (r : BitVec 512) : Prop := tfield r 0 2 = 0 ∧ tfield r 5 1 = 0 ∧ tfield r 6 2 = 0

/-- The address of TSPAWN's first record is in form (R98, R270). -/
def spawnAddr (a : Nat) : Prop := a < 0x1800000 ∧ a % 64 = 0

/-- The context as reading the records of a TSPAWN leaves it. -/
def spawnLapse (s : State) (c : Ctx) (a : Nat) : Ctx :=
  if a = 0xFFFFFFFF then c else readLapse s c a (64 * (lanesOf c.st.mask).length)

end Sys2Proof

/-- R256, R259, R260, R269, R270: LAUNCH hands a record's address to the front end of its context and answers the number of the
lowest free slot, with what its strand sees of memory, or is refused; TSPAWN hands records to the staging of its stream and counts an end of stream, or is refused and
does neither. YIELD, with no ready unit in its cluster's bank, renews the budget of the team. A region begins after each. -/
def Obligations.LaunchResults : Prop :=
  (∀ f s c, Issues (.launch f) s c → Quiet c →
    ((readJ c.g f.a.toNat).toNat % 256 ≠ 0 ∨ 2 ^ 57 ≤ (readJ c.g f.a.toNat).toNat → Refused (.launch f) c s f.d.toNat 1) ∧
    ((readJ c.g f.a.toNat).toNat % 256 = 0 → (readJ c.g f.a.toNat).toNat < 2 ^ 57 →
      (64 ≤ (getFe s (homeFe s c)).queue.length ∨ feClusters s (homeFe s c) = [] → Refused (.launch f) c s f.d.toNat 4) ∧
      ((getFe s (homeFe s c)).queue.length < 64 → feClusters s (homeFe s c) ≠ [] →
        ((∀ n, ¬ LowestSlot s (homeFe s c) n) → Refused (.launch f) c s f.d.toNat 6) ∧
        (∀ n, LowestSlot s (homeFe s c) n →
          ∃ t c', exec (.launch f) s = .next t ∧
            UniDone (.launch f) (begins (.launch f) c)
              (setFe s (homeFe s c) { getFe s (homeFe s c) with
                queue := (getFe s (homeFe s c)).queue ++ [n]
                slots := mput (getFe s (homeFe s c)).slots n {
                  asid := c.g.ctx, va := readJ c.g f.a.toNat, by_ := some (c.core, c.g.team, c.g.idx), seen := c.st.vis } }) t c'
              (kIs f.d.toNat (BitVec.ofNat 32 (2048 * homeFe s c + n)) ++ qIs 7 true))))) ∧
  (∀ i f s c, spawnWord i = some f → Issues i s c → Quiet c →
    ((readK c.g f.b.toNat = 0xFFFFFFFF ∧ f.x.getLsbD 0 = false) → Refused i c s f.d.toNat 1) ∧
    (¬ (readK c.g f.b.toNat = 0xFFFFFFFF ∧ f.x.getLsbD 0 = false) →
      (streamOf s c.g.ctx (readK c.g f.a.toNat).toNat = none → Refused i c s f.d.toNat 8) ∧
      (∀ l, streamOf s c.g.ctx (readK c.g f.a.toNat).toNat = some l →
        (readK c.g f.b.toNat ≠ 0xFFFFFFFF → ¬ spawnAddr (readK c.g f.b.toNat).toNat → Refused i c s f.d.toNat 1) ∧
        (readK c.g f.b.toNat = 0xFFFFFFFF ∨ spawnAddr (readK c.g f.b.toNat).toNat ∧ c.st.mask ≠ 0 ∧
            RecordOk s c (readK c.g f.b.toNat).toNat (64 * (lanesOf c.st.mask).length) →
          ((∃ r ∈ spawnRecords s c (readK c.g f.b.toNat).toNat, ¬ mayspawn r) →
            Refused i (spawnLapse s c (readK c.g f.b.toNat).toNat) s f.d.toNat 3) ∧
          ((∀ r ∈ spawnRecords s c (readK c.g f.b.toNat).toNat, mayspawn r) →
            (4096 < stagedCount (getFe s ((readK c.g f.a.toNat).toNat / 2048)) +
                (spawnRecords s c (readK c.g f.b.toNat).toNat).length →
              Refused i (spawnLapse s c (readK c.g f.b.toNat).toNat) s f.d.toNat 7) ∧
            (stagedCount (getFe s ((readK c.g f.a.toNat).toNat / 2048)) +
                (spawnRecords s c (readK c.g f.b.toNat).toNat).length ≤ 4096 →
              ∃ t c', exec i s = .next t ∧
                UniDone i (begins i (spawnLapse s c (readK c.g f.b.toNat).toNat))
                  (setFe s ((readK c.g f.a.toNat).toNat / 2048) { getFe s ((readK c.g f.a.toNat).toNat / 2048) with
                    staging := (getFe s ((readK c.g f.a.toNat).toNat / 2048)).staging ++
                      (spawnRecords s c (readK c.g f.b.toNat).toNat).map (spawned (readK c.g f.a.toNat).toNat l)
                    slots := mput (getFe s ((readK c.g f.a.toNat).toNat / 2048)).slots ((readK c.g f.a.toNat).toNat % 2048)
                      { l with
                        ntasks := l.ntasks + (spawnRecords s c (readK c.g f.b.toNat).toNat).length
                        eos := l.eos + (if f.x.getLsbD 0 then 1 else 0) } }) t c'
                  (kIs f.d.toNat (BitVec.ofNat 32 (spawnRecords s c (readK c.g f.b.toNat).toNat).length) ++ qIs 7 true))))))) ∧
  (∀ f s c tm, Issues (.yield f) s c → Quiet c → getTeam s c.g.team = some tm → tm.uid = c.g.team →
    passUnits s tm.cluster 0 = [] → passUnits s tm.cluster 1 = [] →
    ∃ t c' e, exec (.yield f) s = .next t ∧
      e = setTeam s { tm with
        left := if tfield tm.rcd 6 2 = 0 then none else some (65536 * tfield tm.rcd 6 2), budgetStop := false } ∧
      StrandDone (.yield f) c e t c' (afterRegion (.yield f) c))

/-! ## The search tree, bounds mode, hints and error logs -/

namespace Sys2Proof

open Machine

/-- The tree forms with their numbers (R345). -/
def treeForm : Instr → Option (GA × Nat)
  | .tdesc f => some (f, 0)
  | .texpand f => some (f, 1)
  | .tback f => some (f, 2)
  | .troot f => some (f, 3)
  | .tfree f => some (f, 4)
  | .tnew f => some (f, 5)
  | _ => none

/-- The column bytes that a lane of a form reads or checks (R345–R351): address and length. -/
def treeBytes (form : Nat) (f : GA) (c : Ctx) (l : Nat) : Option (Nat × Nat) := (treeCols form f c l).map fun x => (x.1, x.2.1)

/-- The pool base of a lane (R345). -/
def poolVa (c : Ctx) (f : GA) (l : Nat) : Nat := (readV c.g l f.a.toNat).toNat + 2 ^ 32 * (readV c.g l (f.a.toNat + 1)).toNat

/-- Every lane's column bytes are aligned, in the own column, the context's, and in no trapping sector that has expired; no exchange, no
errors. -/
structure TreeCols (s : State) (c : Ctx) (form : Nat) (f : GA) : Prop where
  owned : ∀ l ∈ lanesOf c.st.mask, ∀ a n w, treeCols form f c l = some (a, n, w) →
    a % w = 0 ∧ ∀ x, a ≤ x → x < a + n → x < 0x1800000 ∧ ownedBy (getCore s c.core).col c.g.ctx x = true ∧
      trapExpired (getCore s c.core).col (x / 64) s.time.toNat = false
  still : (getCore s c.core).col.busy = none
  sound : s.errs = []

/-- The lapse flag after a form's column operands: set where a lane's bytes lie in a lapsing sector that has expired (R109, R110). -/
def treeLapse (s : State) (c : Ctx) (form : Nat) (f : GA) : Bool :=
  c.st.lapse || (lanesOf c.st.mask).any fun l =>
    match treeCols form f c l with
    | some (a, n, _) => (List.range n).any fun x => lapExpired (getCore s c.core).col ((a + x) / 64) s.time.toNat
    | none => false

/-- What a form's lane takes to the engine (R345–R352). TDESC: the node at which it starts, first of its path, and its path buffer. TEXPAND:
the node, the number of children and their records of 8 bytes. TBACK: the depth, the value and the path of depth + 1 nodes, from the
last on. TNEW: the image of a header. TROOT and TFREE: a node. -/
def treePayload (s : State) (c : Ctx) (form : Nat) (f : GA) (x : LaneTr) : TreeLane :=
  let b := (readV c.g x.lane f.b.toNat).toNat
  let b1 := (readV c.g x.lane (f.b.toNat + 1)).toNat
  let d := (readV c.g x.lane f.d.toNat).toNat
  let depth := b1 / 256 % 256
  let at_ : TreeLane := { lane := x.lane, va := x.va, pool := x.pa, lg := x.lg, node := b, arg := 0 }
  match form with
  | 0 => { at_ with arg := b1, path := [b] }
  | 1 => { at_ with left := d, data := if 1 ≤ d ∧ d ≤ 4096 then colWord s c.core b1 (8 * d) else 0 }
  | 2 => { at_ with
    node := 0, arg := depth, data := d, left := depth + 1
    path := (List.range (depth + 1)).map fun n => colWord s c.core (b + 4 * n) 4 }
  | 5 => { at_ with node := 0, data := colWord s c.core b 64 }
  | _ => at_

/-- The result in flight of a form: two registers of TDESC and TROOT, none of TBACK. -/
def treeFlight (form : Nat) (f : GA) (c : Ctx) : List Pend :=
  if form = 2 then []
  else [{ id := c.g.nextId, lanes := c.st.mask, vregs := if form = 0 ∨ form = 3 then [f.d.toNat, f.d.toNat + 1] else [f.d.toNat]
          tree := true, car := true }]

/-- Lanes of a branch-like removal that are in interval form and whose register is not zero (R332). -/
def flaggedIn (c : Ctx) (a : Nat) : List Nat :=
  (lanesOf c.st.mask).filter fun l => readV c.g l a != 0 && !pointForm c.g l

/-- BSPLIT and BPOINT, with what decides that a tile of log2 edge `k` is pointed. -/
def bndWord : Instr → Option (GA × (Nat → Bool))
  | .bsplit f => some (f, fun k => k == 0)
  | .bpoint f => some (f, fun k => decide (2 ^ k ≤ 16))
  | _ => none

/-- The tile of a lane on its way to the open-tile list (R331). -/
def tileMsg (tm : Team) (pt : Nat → Bool) (t : Tile) : TileMsg := ⟨tm.lslot, t.ix, t.iy, t.el, pt t.el⟩

/-- The state with the tiles of lanes sent to their front end. -/
def tilesSent (s : State) (c : Ctx) (tm : Team) (pt : Nat → Bool) (ls : List Nat) : State :=
  setFe s tm.fe { getFe s tm.fe with
    tiles := (getFe s tm.fe).tiles ++ ls.filterMap fun l => (mfind c.g.tiles l).map (tileMsg tm pt) }

/-- The stores that outlive removed lanes (R331): those of the lanes of `m`, and the stores that the strand keeps. -/
def storesLeft (c : Ctx) (m : Dword) : List SStore :=
  c.g.left ++ (c.st.slog.filter fun x => m.getLsbD x.lane).filter fun x => !(c.g.left.any fun y => y.id == x.id)
def storesKept (c : Ctx) (m : Dword) : List SStore := c.st.slog.filter fun x => !m.getLsbD x.lane

/-- The word that BOPEN writes in a lane (R333). -/
def openWord (c : Ctx) (l : Nat) : Word :=
  BitVec.ofNat 32 (65536 * ((lanesOf c.st.mask).countP fun m => mget 0 c.g.op m != 0) + (mget 0 c.g.op l).toNat / 2 * 2)

/-- The strand of a tree form once it has been sent: a region begins after the instruction. -/
def treeStrand (i : Instr) (s : State) (c : Ctx) (form : Nat) (f : GA) : Strand :=
  regionAt { after i c with lapse := treeLapse s c form f }

/-- A tree form as it is sent (R345): its lanes with what they take to the engine, the number of its result, and for TEXPAND the region
start to which a trap gives the strand back (R350). -/
def treeSent (s e : State) (c : Ctx) (form : Nat) (f : GA) (ls : List LaneTr) : Sent :=
  sends e c (ls.map (·.pa)) (.tree form f.d.toNat c.st.pc ((treeFlight form f c).head?.map (·.id)) (ls.map (treePayload s c form f)) none
    (if form = 1 then some (c.st.region, (c.st.slog.filter (·.young)).map (·.id)) else none))

/-- TEXPAND's strand waits for its allocation (R350): it is `u`, parked with its run ended until the register of its result can be read;
its operation `o` is on its way and the results `ps` are in flight. Nothing else has changed. -/
structure TreeParked (i : Instr) (c : Ctx) (s t : State) (c' : Ctx) (u : Strand) (d : Nat) (o : Sent) (ps : List Pend) : Prop where
  strand : ctxAt t c.core c.slot c.st.sid = some c'
  untouched : Untouched c s t
  others : ∀ sid, sid ≠ c.st.sid → findStrand c'.g sid = findStrand c.g sid
  saved : OnlyPc { u with slot := false } c'.st
  pc : c'.st.pc = u.pc
  ended : t.cur = none ∧ c'.st.status = .parked (.retry { vregs := [d] }) ∧ c'.st.cnt = 0 ∧ c'.st.lat = []
  group : c'.g = { issued c i with
    ops := c.g.ops ++ [o], pend := c.g.pend ++ ps, nextId := c.g.nextId + 1, strands := c'.g.strands }

end Sys2Proof

/-- R345–R353, R385: a tree form whose column operands pass and whose pools translate is sent to the Carillon of its lanes' pool with
what its lanes take there, its result in flight, and a region begins; TEXPAND parks until its allocation has been made. -/
def Obligations.TreeIssueResults : Prop :=
  ∀ i f form s c ls e, treeForm i = some (f, form) → Issues i s c → Quiet c → TreeCols s c form f →
    reached c .sync 64 true ((lanesOf c.st.mask).map fun l => (l, poolVa c f l)) (chargeInstr s c (firstWord i)) = some (ls, e) →
    (form ≠ 1 → ∃ t c', exec i s = .next t ∧
      SentDone i c e t c' (treeStrand i s c form f) [treeSent s e c form f ls] (treeFlight form f c)) ∧
    (form = 1 → ∃ t c', exec i s = .next t ∧
      TreeParked i c e t c' (treeStrand i s c form f) f.d.toNat (treeSent s e c form f ls) (treeFlight form f c))

/-- R331–R333: BSPLIT and BPOINT send the tiles of their flagged interval lanes to the front end and take those lanes out of the
strand, whose stores of those lanes stay with the group; the strand ends where none is left; BOPEN writes each lane's open bits and the number of lanes that have any. -/
def Obligations.BoundsResults : Prop :=
  (∀ i f pt s c, bndWord i = some (f, pt) → Issues i s c → Quiet c → flaggedIn c f.a.toNat = [] → c.st.mask ≠ 0 →
    ∃ t c', exec i s = .next t ∧ StrandDone i c s t c' (afterRegion i c)) ∧
  (∀ i f pt s c tm, bndWord i = some (f, pt) → Issues i s c → Quiet c → getTeam s c.g.team = some tm →
    flaggedIn c f.a.toNat ≠ [] →
    (c.st.mask &&& ~~~(maskOf (flaggedIn c f.a.toNat)) ≠ 0 →
      (∀ j ∈ exitedBy c.g.join (maskOf (flaggedIn c f.a.toNat)), joinFull j = false) →
      ∃ t c', exec i s = .next t ∧ Completed i c (tilesSent s c tm pt (flaggedIn c f.a.toNat)) t c' ∧ c'.st.pc = nextPc i c ∧
        OnlyPc (regionAt { after i c with
          mask := c.st.mask &&& ~~~(maskOf (flaggedIn c f.a.toNat)), slog := storesKept c (maskOf (flaggedIn c f.a.toNat)) }) c'.st ∧
        c'.g = { issued c i with
          join := exitedBy c.g.join (maskOf (flaggedIn c f.a.toNat)), left := storesLeft c (maskOf (flaggedIn c f.a.toNat))
          ended := c'.g.ended
          strands := c'.g.strands }) ∧
    (c.st.mask &&& ~~~(maskOf (flaggedIn c f.a.toNat)) = 0 →
      ∃ t h, exec i s = .next t ∧
        LeftDone i c (tilesSent s c tm pt (flaggedIn c f.a.toNat)) t (exitedBy c.g.join (maskOf (flaggedIn c f.a.toNat)))
          (storesLeft c (maskOf (flaggedIn c f.a.toNat)) ++ (storesKept c (maskOf (flaggedIn c f.a.toNat))).filter fun x =>
            !((storesLeft c (maskOf (flaggedIn c f.a.toNat))).any fun y => y.id == x.id))
          (seenJoin c.g.seen c.st.vis) h)) ∧
  (∀ f s c, Issues (.bopen f) s c →
    ∃ t c', exec (.bopen f) s = .next t ∧ Completed (.bopen f) c s t c' ∧ c'.st.pc = nextPc (.bopen f) c ∧
      OnlyPc c.st c'.st ∧ OnlyV (issued c (.bopen f)) c'.g ∧
      ∀ l r, l < 64 → r < 96 → readV c'.g l r = if c.st.mask.getLsbD l = true ∧ r = f.d.toNat then openWord c l else readV c.g l r)

namespace Sys2Proof

open Machine

/-- The instance whose log serves a core, by array kind (R302). -/
def logInst (core kind : Nat) : Nat :=
  match kind with
  | 2 => core / 16
  | 3 => core / 128
  | 4 => core / 128
  | 5 => core / 128
  | _ => core

/-- EREAD's operand names a word that exists (R304). -/
def ereadOk (x : Word) : Prop :=
  (x.extractLsb' 0 4).toNat ≤ 6 ∧ x.extractLsb' 10 22 = 0 ∧ (x.getLsbD 9 = true → (x.extractLsb' 7 2).toNat < 2)

/-- The word that EREAD's operand names: a count, or a word of an entry. -/
def ereadValue (s : State) (c : Ctx) (x : Word) : Word :=
  let log := getErr s (x.extractLsb' 0 4).toNat (logInst c.core (x.extractLsb' 0 4).toNat)
  if x.getLsbD 9 then (if (x.extractLsb' 7 2).toNat = 0 then log.corr else log.uncorr)
  else (mget 0 log.log (x.extractLsb' 4 3).toNat).extractLsb' (32 * (x.extractLsb' 7 2).toNat) 32

/-- The context may read that word: privileged, or no count and no entry of another context. -/
def ereadMay (s : State) (c : Ctx) (x : Word) : Prop :=
  ctxPriv s (dieOf c.core) c.g.ctx.toNat = true ∨
    (x.getLsbD 9 = false ∧
      let e := mget 0 (getErr s (x.extractLsb' 0 4).toNat (logInst c.core (x.extractLsb' 0 4).toNat)).log (x.extractLsb' 4 3).toNat
      (e.getLsbD 0 = true → e.extractLsb' 8 8 = c.g.ctx))

/-- ERRINJ's operands are in range (R305): kind, UNC, and an address that the array has. -/
def injectOk (c : Ctx) (x b : Word) : Prop := x.extractLsb' 5 27 = 0 ∧ injectWord c.core (x.extractLsb' 0 4).toNat b.toNat ≠ none

end Sys2Proof

/-- R70, R302, R304, R305: MHINT adds a hint, of whole pages up to 64 MiB, to its core's unfinished ones, of which it keeps 16; EREAD
answers a word of an error log or of its counts where the context may read it; ERRINJ in a privileged context arms an injection
of its array. Which place of a log an index names is log entry 21, DEDUCED. -/
def Obligations.HintAndErrorLogResults : Prop :=
  (∀ f s c, Issues (.mhint f) s c →
    (16 ≤ (getCore s c.core).hints.length →
      ∃ t c', exec (.mhint f) s = .next t ∧ StrandDone (.mhint f) c s t c' (after (.mhint f) c)) ∧
    ((getCore s c.core).hints.length < 16 →
      ∃ t c', exec (.mhint f) s = .next t ∧
        StrandDone (.mhint f) c (setCore s c.core { getCore s c.core with
          hints := (getCore s c.core).hints ++ [{
            id := (getCore s c.core).nextHint, code := f.d.toNat, asid := c.g.ctx
            va := (readJ c.g f.a.toNat).toNat / 4096 * 4096
            len := min (((readK c.g f.b.toNat).toNat + 4095) / 4096 * 4096) 0x4000000 }]
          nextHint := (getCore s c.core).nextHint + 1 }) t c' (after (.mhint f) c))) ∧
  (∀ f s c, Issues (.eread f) s c →
    (ereadOk (readK c.g f.a.toNat) → ereadMay s c (readK c.g f.a.toNat) →
      ∃ t c', exec (.eread f) s = .next t ∧
        UniDone (.eread f) c s t c' (kIs f.d.toNat (ereadValue s c (readK c.g f.a.toNat)) ++ qIs 7 true)) ∧
    (¬ (ereadOk (readK c.g f.a.toNat) ∧ ereadMay s c (readK c.g f.a.toNat)) →
      ∃ t c', exec (.eread f) s = .next t ∧ UniDone (.eread f) c s t c' (kIs f.d.toNat 0 ++ qIs 7 false))) ∧
  (∀ f s c, Issues (.errinj f) s c →
    (∀ w, (readK c.g f.a.toNat).extractLsb' 5 27 = 0 →
      injectWord c.core ((readK c.g f.a.toNat).extractLsb' 0 4).toNat (readK c.g f.b.toNat).toNat = some w →
      ∃ t c' kind inst, exec (.errinj f) s = .next t ∧ kind = ((readK c.g f.a.toNat).extractLsb' 0 4).toNat ∧
        inst = logInst c.core kind ∧
        UniDone (.errinj f) c (setErr s kind inst { getErr s kind inst with armed := some (w, (readK c.g f.a.toNat).getLsbD 4) })
          t c' (qIs 7 true)) ∧
    (¬ injectOk c (readK c.g f.a.toNat) (readK c.g f.b.toNat) →
      ∃ t c', exec (.errinj f) s = .next t ∧ UniDone (.errinj f) c s t c' (qIs 7 false)))

/-! ## Events of the module: power, starts, heat -/

namespace Sys2Proof

open Machine

/-- What a reset of the compute dies leaves (R364, R367, R369): TIME, power, the management block, memory beyond the A-die's ports,
and the model's agenda; everything else is as at reset. -/
structure ColdFrom (s t : State) : Prop where
  time : t.time = s.time
  powered : t.powered = s.powered
  agenda : t.agenda = s.agenda
  mem : ∀ a, memByte t.mem a = if 0x100000000000 ≤ a then memByte s.mem a else 0
  rest : t = { State.reset with time := t.time, powered := t.powered, agenda := t.agenda, mem := t.mem, mg := t.mg }

/-- What of the management block a reset of the module keeps (R369, R370): the start count S, cleared by a CLR that waits, the reason, and COUNT
as S. -/
def survives (m : Mgmt) : Mgmt :=
  { starts := if m.clrNext then 0 else m.starts, reason := m.reason, bootCount := if m.clrNext then 0 else min m.starts 3 }

/-- The management block of a failed attempt (R369). -/
def failedWith (m : Mgmt) (reason : Byte) : Mgmt := { survives m with reason := reason }

/-- A manifest is accepted (R368): the key in its body has the fused digest, its signature of 2,420 bytes verifies over the digest of the body,
and every image that it covers has the digest that the body gives. -/
def accepted (i : Nat) : Prop :=
  sha3 (Config.bodyKey i) = Config.fusedKey ∧ (Config.signature i).length = 2420 ∧
    Config.dsaVerify (Config.bodyKey i) (sha3 (Config.body i)) (Config.signature i) = true ∧
    (Config.images i).map sha3 = Config.bodyDigests i

/-- The first thing that fails of a list of tests with their reasons. -/
def FirstFault : List (Prop × Byte) → Option Byte → Prop
  | [], r => r = none
  | (ok, x) :: l, r => (¬ ok → r = some x) ∧ (ok → FirstFault l r)

/-- Steps 3 and 4 of R369: the manifest of the compute-die image with its security version, the memories, the links. -/
def upTests (mem link : Bool) : List (Prop × Byte) :=
  [(accepted 1, 2), (Config.fusedVersion ≤ Config.bodyVersion 1, 3), (mem = true, 4), (link = true, 5)]

/-- Every test of an attempt from step 1 (R368, R369): first the manifest of the firmware, with its version. -/
def startTests (mem link : Bool) : List (Prop × Byte) :=
  (accepted 0, 1) :: (Config.fusedVersion ≤ Config.bodyVersion 0, 3) :: upTests mem link

/-- The dies are up and every cluster is being scrubbed (R369 step 5, log entry 32). -/
structure Scrubbing (s t : State) : Prop where
  cold : ColdFrom s { t with dies := State.reset.dies, reown := State.reset.reown }
  step : t.mg.mode = 0 ∧ t.mg.bootStep = 5 ∧ t.mg.meas.length = 4
  scrubs : ∀ n < 32, (cownOf t n).scrub = true ∧ (mfind t.reown n).map (fun x => (x.step, x.since)) = some (6, s.time.toNat)

end Sys2Proof

/-- R3, R365, R368–R370: main power brings TIME 0 and every volatile register to its reset, and its removal does so without
power (that memory beyond the ports goes with it is the model's choice, log entry 1); the start count, which a CLR that waits then clears, and the
reason survive (log entry 32). A start with three counted starts behind it stops in MODE 2; one
whose manifests verify and whose memories and links train counts itself and begins the scrub; a failure is recorded with its
reason. The dies that leave P4 or a trip are brought up from step 3 on. BOOTSTAT.OK ends a start at step 6 within its 60 s. A start that is late,
or whose scrub is, fails. -/
def Obligations.StartEvents : Prop :=
  (∀ s, s.powered = false →
    exec .mainPowerOn s = .next { State.reset with mg := survives s.mg, agenda := s.agenda }) ∧
  (∀ s, exec .mainPowerRemoval s = .next { State.reset with powered := false, mg := survives s.mg, agenda := s.agenda }) ∧
  (∀ s mem link, s.powered = true → s.mg.mode = 0 → s.mg.bootStep = 0 → 3 ≤ s.mg.starts →
    ∃ t, exec (.startAttempt mem link) s = .next t ∧ ColdFrom s t ∧
      t.mg = { s.mg with mode := 2, bootCount := 3, startTime := s.time.toNat }) ∧
  (∀ s mem link f, s.powered = true → s.mg.mode = 0 → s.mg.bootStep = 0 → s.mg.starts < 3 → FirstFault (startTests mem link) f →
    ∃ t, exec (.startAttempt mem link) s = .next t ∧
      (∀ r, f = some r → ColdFrom s t ∧ t.mg = failedWith { s.mg with starts := s.mg.starts + 1 } r) ∧
      (f = none → Scrubbing s t ∧ t.mg = { s.mg with
        starts := s.mg.starts + 1, bootCount := s.mg.starts, startTime := s.time.toNat, bootStep := 5, meas := t.mg.meas })) ∧
  (∀ s mem link f, s.powered = true → s.mg.bootStep = 3 → FirstFault (upTests mem link) f →
    ∃ t, exec (.startAttempt mem link) s = .next t ∧
      (∀ r, f = some r → ColdFrom s t ∧ t.mg = failedWith s.mg r) ∧
      (f = none → Scrubbing s t ∧ t.mg = { s.mg with mode := 0, bootStep := 5, meas := t.mg.meas })) ∧
  (∀ s, s.mg.mode = 0 → s.mg.bootStep = 6 →
    (s.time.toNat ≤ s.mg.startTime + 60000000000 →
      exec .bootstatOk s = .next { s with mg := { s.mg with starts := 0, mode := 1, bootStep := 0 } }) ∧
    (s.mg.startTime + 60000000000 < s.time.toNat → exec .bootstatOk s = .next s)) ∧
  (∀ s, exec .bootstatClr s = .next { s with mg := { s.mg with clrNext := true } }) ∧
  (∀ s, s.powered = true → s.mg.mode = 0 → s.mg.bootStep ≠ 0 → s.mg.startTime + 60000000000 ≤ s.time.toNat →
    ∃ t, exec .bootOkTimeout s = .next t ∧ ColdFrom s t ∧ t.mg = failedWith s.mg 7) ∧
  (∀ s e, s.powered = true → s.mg.bootStep = 5 → e ∈ s.reown → e.2.since + 50000 ≤ s.time.toNat →
    ∃ t, exec .bootScrubTimeout s = .next t ∧ ColdFrom s t ∧ t.mg = failedWith s.mg 6)

namespace Sys2Proof

open Machine

/-- A written value waits for the tick; where none does the value in force stays. -/
def onTick (cur : BitVec 32) (next : Option (BitVec 32)) : BitVec 32 := next.getD cur

/-- Nothing calls for a pass at the end of the tick, and no scrub ends there. -/
def NoPass (s : State) : Prop :=
  (∀ n < 32, (getBank s n).pass = false) ∧ ∀ e ∈ s.reown, e.2.step = 6 → s.time.toNat < e.2.since + 50000

/-- What a tick with no pass and no scrub at its end changes (R3, R52, R298–R300, R366): TIME and the clock, HTCFG, of a core its energy counters
and heat tokens, of a die its energy weights and channel counters. -/
structure Ticked (s t : State) : Prop where
  rest : t = { s with
    time := s.time + 1, clk := s.clk + cyclesTen s.mg.state, cores := t.cores, dies := t.dies
    mg := { s.mg with htcfg := t.mg.htcfg, htNext := [] } }
  cores : ∀ n, getCore t n = { (getCore s n) with energy := (getCore t n).energy, heat := (getCore t n).heat }
  dies : ∀ d, getDie t d = { (getDie s d) with
    ewt := (getDie s d).ewtNext.getD (getDie s d).ewt, ewtNext := none
    ews := (getDie s d).ewsNext.getD (getDie s d).ews, ewsNext := none
    chans := (getDie t d).chans }
  heat : (s.mg.htNext.map Prod.fst).Nodup → ∀ d,
    mget 0x00400000 t.mg.htcfg d = onTick (mget 0x00400000 s.mg.htcfg d) (mfind s.mg.htNext d)
  counters : ∀ d i k, k < 5 → mget {} (mget {} (getDie t d).chans i).cnt k = mget {} (mget {} (getDie t d).chans i).seen k

end Sys2Proof

/-- R3, R364–R367: TICK advances TIME by one and, at the end of one with no pass and no scrub to do, puts written energy weights and heat settings
into effect and changes nothing but what `Ticked` names; the power commands, the
end of a transition, the power limit, heat and its trip do to the management block what their rules say. In minimal mode a command that would
bring the dies up does not (log entry 32). -/
def Obligations.PowerAndHeatEvents : Prop :=
  (∀ s, s.powered = true → ∃ t, exec .tick s = .next t ∧ t.time = s.time + 1 ∧ t.clk = s.clk + cyclesTen s.mg.state ∧
    (NoPass s → Ticked s t)) ∧
  (∀ s temp, s.powered = true → 115 ≤ temp.toNat →
    ∃ t, exec (.thermalTrip temp) s = .next t ∧ ColdFrom s t ∧ t.mg = { s.mg with
      tmax := temp, warn := s.mg.warn || decide (s.mg.twarn.toNat ≤ temp.toNat)
      state := 7, busy := false, mode := 3, reason := 8, bootStep := 0 }) ∧
  (∀ s temp, s.powered = true → temp.toNat < 115 →
    exec (.thermalWarning temp) s = .next { s with mg := { s.mg with
      tmax := temp, warn := s.mg.warn || decide (s.mg.twarn.toNat ≤ temp.toNat) } }) ∧
  (∀ s watts, s.powered = true →
    exec (.powerLimitExceeded watts) s = .next { s with mg := { s.mg with
      ovr := s.mg.ovr || decide (max 1000 (min 3000 s.mg.plim.toNat) < watts) } }) ∧
  (∀ s cmd, cmd.toNat ≤ 3 → s.mg.busy = false →
    (s.mg.state ≠ 4 → s.mg.state ≠ 7 → s.mg.state ≠ cmd.toNat →
      exec (.powerStateCmd cmd) s = .next { s with mg := { s.mg with busy := true, target := cmd.toNat } }) ∧
    (s.mg.state = 4 ∨ (s.mg.state = 7 ∧ cmd = 0 ∧ s.mg.tmax.toNat ≤ s.mg.twarn.toNat) →
      (3 ≤ s.mg.bootCount → exec (.powerStateCmd cmd) s = .next { s with mg := { s.mg with state := 0, mode := 2 } }) ∧
      (s.mg.bootCount < 3 → exec (.powerStateCmd cmd) s = .next { s with mg := { s.mg with
        busy := true, target := 0, mode := 0, bootStep := 3, startTime := s.time.toNat } })) ∧
    (s.mg.state = 7 → cmd ≠ 0 ∨ s.mg.twarn.toNat < s.mg.tmax.toNat →
      exec (.powerStateCmd cmd) s = .next { s with mg := { s.mg with err := true } })) ∧
  (∀ s cmd, s.mg.busy = true → exec (.powerStateCmd cmd) s = .next s ∧ exec .powerOffCmd s = .next s ∧ exec (.powerCmdReserved cmd) s = .next s) ∧
  (∀ s, s.mg.busy = false → s.mg.state ≠ 4 →
    (s.mg.state = 7 ∨ workHeld s = true → exec .powerOffCmd s = .next { s with mg := { s.mg with err := true } }) ∧
    (s.mg.state ≠ 7 → workHeld s = false → exec .powerOffCmd s = .next { s with mg := { s.mg with busy := true, target := 4 } })) ∧
  (∀ s cmd, 5 ≤ cmd.toNat → s.mg.busy = false →
    exec (.powerCmdReserved cmd) s = .next { s with mg := { s.mg with err := true } }) ∧
  (∀ s, s.mg.busy = true → s.mg.state ≠ 4 → s.mg.state ≠ 7 →
    (quiesced s = false → exec .powerTransitionDone s = .next s)) ∧
  (∀ s, s.mg.busy = true → s.mg.state ≠ 4 → s.mg.state ≠ 7 → quiesced s = true →
    (s.mg.target ≠ 4 →
      exec .powerTransitionDone s = .next { s with mg := { s.mg with busy := false, state := s.mg.target } }) ∧
    (s.mg.target = 4 → ∃ t, exec .powerTransitionDone s = .next t ∧ ColdFrom s t ∧ t.mg = { s.mg with busy := false, state := 4 })) ∧
  (∀ s die val, ∃ t, exec (.htcfgWrite die val) s = .next t ∧ t = { s with mg := { s.mg with htNext := t.mg.htNext } } ∧
    mfind t.mg.htNext (die % 4) = some val ∧ ∀ d, d ≠ die % 4 → mfind t.mg.htNext d = mfind s.mg.htNext d)

/-! ## Events at the host's side -/

namespace Sys2Proof

open Machine

/-- The responder's answer (R371). -/
def answers (s : State) (m : SpdmMsg) : State := { s with mg := { s.mg with spdmOut := some m } }

/-- The answer UnsupportedRequest. -/
def declined (s : State) (req : Nat) : State := answers s { req := req, ver := s.mg.spdmVer.getD 0, error := true }

/-- The ring header that a record of a queue names (R280, R283). -/
def headerOf (s : State) (kind key : Nat) : Nat :=
  match kind with
  | 0 => bits (ctxBlock s 0 key).rring.toNat 51 5 * 32
  | 1 => bits (ctxBlock s 0 key).tring.toNat 51 5 * 32
  | _ => bits s.rep.vfrtab.toNat 51 14 * 16384 + 32 * key

end Sys2Proof

/-- R55, R361–R363, R371: a link trains at what both ends support; a VF's mailbox takes a value and interrupts; a root port's DMA
reads or writes where it translates; a window forwards an address; and the SPDM responder answers each request under the versions
that the rule gives. The text that is signed, and which slot and measurement a request may name, are the model's reading (log entry 36); a mailbox
interrupt's form is log entry 42, a hole's answer log entry 12. -/
def Obligations.HostEvents : Prop :=
  (∀ s port gen width, s.powered = true → port ≤ 8 → 4 ≤ gen → 4 ≤ width →
    exec (.pcieLinkTrain port gen width) s = .next { s with mg := { s.mg with
      links := mput s.mg.links port (min gen 6, if 16 ≤ width then 16 else if 8 ≤ width then 8 else 4) } }) ∧
  (∀ s vf val, s.powered = true → 1 ≤ vf → vf ≤ 512 →
    exec (.vfMailboxWrite vf val) s = .next { s with mg := { s.mg with
      mailbox := mput s.mg.mailbox vf val, mailIrq := s.mg.mailIrq ++ [(vf, val)] } }) ∧
  (∀ s storage asid va val pa lg cls e, s.errs = [] → waiting s (.port storage.toNat) = false →
    translate s (if storage then 641 else 640) 0 asid.toNat .store 8 va.toNat true = (.ok pa lg cls, e) →
    ∃ t, exec (.portDmaRequest storage asid va true val) s = .next t ∧ t = { e with mem := t.mem, hist := t.hist } ∧
      memRead t.mem pa 8 = val.toNat ∧ ∀ a, a < pa ∨ pa + 8 ≤ a → memByte t.mem a = memByte s.mem a) ∧
  (∀ s storage asid va write val, waiting s (.port storage.toNat) = true → exec (.portDmaRequest storage asid va write val) s = .next s) ∧
  (∀ s storage asid va val pa lg cls e, waiting s (.port storage.toNat) = false →
    translate s (if storage then 641 else 640) 0 asid.toNat (.load 8) 8 va.toNat false = (.ok pa lg cls, e) →
    exec (.portDmaRequest storage asid va false val) s = .next e) ∧
  (∀ s addr, s.powered = true → 0x100000000000 ≤ addr.toNat →
    exec (.forwardedRequest addr) s = .next { s with mg := { s.mg with
      fwdOut := (findWindow s addr.toNat).map fun w => (w.port.toNat % 16, addr.setWidth 64 + w.off) } }) ∧
  (∀ s, s.powered = true →
    exec .getVersion s =
      .next (answers { s with mg := { s.mg with spdmVer := none, spdmAlg := none } } { req := 0x84, ver := 10, payload := [13, 14] })) ∧
  (∀ s ver, s.powered = true → ver = 13 ∨ ver = 14 →
    exec (.getCapabilities ver) s =
      .next (answers { s with mg := { s.mg with spdmVer := some ver, spdmAlg := none } } { req := 0xE1, ver := ver })) ∧
  (∀ s dsa sha, s.powered = true →
    ((s.mg.spdmVer = some 14 ∧ dsa = true ∧ sha = true) ∨ (s.mg.spdmVer = some 13 ∧ dsa = false ∧ sha = true) →
      exec (.negotiateAlgorithms dsa sha) s = .next (answers { s with mg := { s.mg with spdmAlg := some dsa } }
        { req := 0xE3, ver := s.mg.spdmVer.getD 0, payload := [dsa.toNat, 1] })) ∧
    (s.mg.spdmVer = none ∨ sha = false → exec (.negotiateAlgorithms dsa sha) s = .next (declined s 0xE3))) ∧
  (∀ s, s.powered = true →
    (s.mg.spdmVer = some 14 →
      exec .getDigests s = .next (answers s { req := 0x81, ver := 14, digests := [sha3 Config.chain] }) ∧
      (∀ off len, exec (.getCertificate 0 off len) s =
        .next (answers s { req := 0x82, ver := 14, payload := ((Config.chain.drop off).take len).map BitVec.toNat })) ∧
      (∀ nonce, exec (.challenge 0 nonce) s = .next (answers s {
        req := 0x83, ver := 14, digests := [sha3 Config.chain]
        sig := some (signed [0x83, (sha3 Config.chain).toNat, nonce.toNat]) })) ∧
      (∀ nonce, exec (.getMeasurements 255 true nonce) s = .next (answers s {
        req := 0xE0, ver := 14, digests := s.mg.meas
        sig := some (signed (0xE0 :: nonce.toNat :: s.mg.meas.map BitVec.toNat)) }))) ∧
    (s.mg.spdmVer ≠ some 14 →
      exec .getDigests s = .next (declined s 0x81) ∧
      (∀ off len, exec (.getCertificate 0 off len) s = .next (declined s 0x82)) ∧
      (∀ nonce, exec (.challenge 0 nonce) s = .next (declined s 0x83)) ∧
      (∀ idx nonce, exec (.getMeasurements idx true nonce) s = .next (declined s 0xE0))) ∧
    (∀ code, exec (.unsupportedRequest code) s = .next (declined s code.toNat)))

/-- R281–R283, R302, R303: the reporting port writes the record at the head of the queue that it grants into its ring and advances
TAIL, or discards one whose context has no ring; a ring found full is looked at again at RING_HEAD_REREAD. A corrected error is
logged and counted; an uncorrectable one marks its word for the first consumer, and a translation-cache entry or a queue-bank place is logged at once.
The marks, and that a record without a ring is discarded at its turn, are the model's reading (log entries 21 and 39). -/
def Obligations.ReportingEvents : Prop :=
  (∀ s k x credit, portChoice s = some (k, credit) → portHead s k = some x → s.errs = [] →
    (∀ n, n < 2 → ∀ y, portHead s n = some y → ringRoom s n y.key ≠ .full) →
    (∀ y ∈ (mget [] s.rep.waitq k).head?, ∀ w i, y.who ≠ .slot w i) →
    ∃ t, exec .ringRecordWrite s = .next t ∧
      mget [] t.rep.q k = (mget [] s.rep.q k).tail ++ (mget [] s.rep.waitq k).head?.toList ∧
      mget [] t.rep.waitq k = (mget [] s.rep.waitq k).tail ∧
      (headerOf s k x.key = 0 → t = { s with rep := t.rep }) ∧
      (ringRoom s k x.key = .full → k = 2 ∧ t = { s with rep := t.rep, mem := t.mem, hist := t.hist } ∧
        ∃ n, n = memRead s.mem (headerOf s k x.key + 12) 4 ∧
          t.mem = memWrite s.mem (headerOf s k x.key + 12) 4 (min (2 ^ 32 - 1) (n + 1))) ∧
      (ringRoom s k x.key = .free →
        t = { s with rep := t.rep, mem := t.mem, hist := t.hist, mg := { s.mg with msix := t.mg.msix } } ∧
        (k ≠ 2 → t.mg.msix = s.mg.msix) ∧ (k = 2 → t.mg.msix = s.mg.msix ++ [(x.key + 1, 0)]) ∧
        ∃ base n tail, base = memRead s.mem (headerOf s k x.key) 8 ∧ n = memRead s.mem (headerOf s k x.key + 8) 4 ∧
          tail = memRead s.mem (headerOf s k x.key + 24) 8 ∧
          t.mem = memWrite (memWrite s.mem (base + 32 * (tail % n)) 32 x.data.toNat) (headerOf s k x.key + 24) 8 (tail + 1))) ∧
  (∀ s kind key, ringRoom s kind key ≠ .full →
    exec (.ringHeadReread kind key) s = .next { s with rep := { s.rep with full := s.rep.full.filter fun x => x != (kind, key) } }) ∧
  (∀ s kind inst addr ctx synd, kind ≤ 6 →
    ∃ t, exec (.correctedError kind inst addr ctx synd) s = .next t ∧ t = { s with errs := t.errs } ∧
      (getErr t kind inst).corr = (if (getErr s kind inst).corr = BitVec.allOnes 32 then BitVec.allOnes 32 else (getErr s kind inst).corr + 1) ∧
      (getErr t kind inst).uncorr = (getErr s kind inst).uncorr ∧ (getErr t kind inst).next = (getErr s kind inst).next + 1 ∧
      ∃ v, mfind (getErr t kind inst).log ((getErr s kind inst).next % 8) = some v ∧ v.getLsbD 0 = true ∧ v.getLsbD 1 = false ∧
        v.extractLsb' 8 8 = ctx ∧ v.extractLsb' 16 16 = synd ∧ v.extractLsb' 32 52 = addr) ∧
  (∀ s kind inst addr ctx synd, kind = 0 ∨ kind = 1 ∨ kind = 3 ∨ kind = 4 ∨ kind = 5 →
    ∃ t, exec (.uncorrectableError kind inst addr ctx synd) s = .next t ∧ t = { s with errs := t.errs } ∧
      mfind (getErr t kind inst).bad (errWord kind addr.toNat) = some true ∧
      (getErr t kind inst).log = (getErr s kind inst).log ∧ (getErr t kind inst).uncorr = (getErr s kind inst).uncorr) ∧
  (∀ s inst addr ctx synd, (mget [] s.tlbs inst).any (tlbCovers addr.toNat) = true →
    ∃ t, exec (.uncorrectableError 6 inst addr ctx synd) s = .next t ∧ t = { s with errs := t.errs, tlbs := t.tlbs } ∧
      (getErr t 6 inst).next = (getErr s 6 inst).next + 1 ∧
      mget [] t.tlbs inst = (mget [] s.tlbs inst).filter fun x => !tlbCovers addr.toNat x) ∧
  (∀ s inst addr ctx synd, (getBank s inst).tasks[addr.toNat]? = none →
    ∃ t, exec (.uncorrectableError 2 inst addr ctx synd) s = .next t ∧ t = { s with errs := t.errs } ∧
      (getErr t 2 inst).next = (getErr s 2 inst).next + 1)

/-! ## Events of the registers -/

namespace Sys2Proof

open Machine

/-- A channel's block of a die (R48). -/
def chanAt (s : State) (d i : Nat) : Chan := mget {} (getDie s d).chans i

/-- Only the block of one channel has changed, to `c`. -/
def OnlyChan (s t : State) (d i : Nat) (c : Chan) : Prop :=
  t = { s with dies := t.dies } ∧ chanAt t d i = c ∧
    (∀ j, j ≠ i → chanAt t d j = chanAt s d j) ∧ (∀ e, e ≠ d → getDie t e = getDie s e)

/-- A counter after `n` events (R51). -/
def counterPlus (x : Ctr) (n : Nat) : Ctr :=
  if x.count.toNat + n < 2 ^ 48 then ⟨BitVec.ofNat 48 (x.count.toNat + n), x.sat⟩ else ⟨BitVec.allOnes 48, true⟩

/-- The number that a request carries (R50): the context of the launch that caused it, or 0xFF for traffic of no launch. -/
def numberOf (ctx : Option (BitVec 8)) : Nat := match ctx with | some c => c.toNat | none => 255

/-- A channel's filter keeps a request out of its counters (R50). -/
def Filtered (c : Chan) (ctx : Option (BitVec 8)) : Bool := c.filtEn && ((c.filtCtx.toNat == numberOf ctx) == c.filtInv)

/-- A GO of FRRESUME names a page of a context (R285). -/
def Names (val : Dword) (ctx : BitVec 8) (va : Dword) : Prop :=
  val.extractLsb' 0 8 = ctx ∧ (val.getLsbD 8 = true ∨ va.extractLsb' 12 52 = (val.extractLsb' 12 45).setWidth 52)

/-- The operation of CCCMD that is in progress on a die (R208). -/
def Commanded (s : State) (d op : Nat) : Prop := d < 4 ∧ (getDie s d).ccDone = false ∧ (getDie s d).ccGo.toNat = op

/-- CCADDR names sync space whose home is this die. -/
def Homed (s : State) (d : Nat) : Prop :=
  syncPlaceOk s (getDie s d).ccaddr.toNat = true ∧ homeDie (getDie s d).ccaddr.toNat = d

end Sys2Proof

/-- R62, R285: a GO of TXINVC drops at once, in every unit, the entries it names, and DONE returns to 1 when no access translated
with one of them is left (which of the accesses that are left the model waits for is log entry 15); a GO of FRRESUME makes strands
that wait on a named page ready and marks the operand-log entries that wait on it, all in one step, after
which DONE is still 1 (log entry 35, DEDUCED). -/
def Obligations.TranslationEvents : Prop :=
  (∀ s die val, die < 4 → val.getLsbD 16 = true → (getDie s die).txDone = true → val.extractLsb' 8 2 ≠ 3 →
    ∃ t, exec (.txinvcGo die val) s = .next t ∧ t = { s with dies := t.dies, tlbs := t.tlbs, invs := t.invs, epoch := t.epoch } ∧
      (getDie t die).txDone = false ∧ (getDie t die).txAsid = val.extractLsb' 0 8 ∧ (getDie t die).txScope = val.extractLsb' 8 2 ∧
      (∀ u x, x ∈ mget [] t.tlbs u ↔ x ∈ mget [] s.tlbs u ∧
        ¬ (val.extractLsb' 8 2 = 2 ∨ (x.asid = val.extractLsb' 0 8 ∧
          (val.extractLsb' 8 2 = 1 ∨ x.page / 2 ^ x.lg = (getDie s die).txinva.toNat / 2 ^ x.lg))))) ∧
  (∀ s die val, die < 4 → val.getLsbD 16 = false ∨ (getDie s die).txDone = false ∨ val.extractLsb' 8 2 = 3 →
    exec (.txinvcGo die val) s =
      .next (setDie s die { getDie s die with txAsid := val.extractLsb' 0 8, txScope := val.extractLsb' 8 2 })) ∧
  (∀ s die v, die < 4 → s.invs.find? (fun x => x.die == die) = some v →
    (invBusy s v = false →
      exec (.invalidationComplete die) s =
        .next (setDie { s with invs := s.invs.filter fun x => x.die != die } die { getDie s die with txDone := true })) ∧
    (∀ core slot g st x, getGroup s core slot = some g → st ∈ g.strands → x ∈ st.slog → x.pa.isSome = true →
      x.epoch ≤ v.epoch → invNames v.asid v.scope v.va.toNat g.ctx.toNat x.va x.lg = true →
      exec (.invalidationComplete die) s = .next s)) ∧
  (∀ s die val, die < 4 → val.getLsbD 57 = true → (getDie s die).frDone = true → s.mg.dma = [] →
    ∃ t, exec (.frresumeGo die val) s = .next t ∧ (getDie t die).frDone = true ∧ t.mem = s.mem ∧
      (∀ core slot g, getGroup s core slot = some g →
        ∃ h : Group, getGroup t core slot = some h ∧ h = { g with strands := h.strands, ops := h.ops } ∧
          h.strands.length = g.strands.length ∧
          ∀ (n : Nat) (x : Strand), g.strands[n]? = some x → ∃ y : Strand, h.strands[n]? = some y ∧ y = { x with status := y.status, kept := y.kept } ∧
            (∀ va, x.status = .parked (.fetch va) → Names val g.ctx va → y.status = .ready) ∧
            (∀ va, x.status = .parked (.fetch va) → ¬ Names val g.ctx va → y.status = x.status) ∧
            (x.status = .ready → y.status = .ready)) ∧
      (∀ (core n : Nat) (e : LogEntry) (g : Group), (getCore s core).olog[n]? = some e → getGroup s core e.grp = some g → retryable e.code = true →
        (∃ pg ∈ entryPages e, Names val g.ctx (BitVec.ofNat 64 (4096 * pg)) ∧ pg < 2 ^ 52) →
        ∃ u, (getCore t core).olog[n]? = some u ∧ u = { e with go := true }))

/-- R208: an operation of CCCMD ends with DONE 1; OP 00 sets a counter, OP 01 clears a sync page, OP 10 reads a unit with its kind
and flag; a place that is not sync space of the die, a wrong kind, or OP 11 performs nothing and sets ERR. CSPLIT takes a value
before the die's first operation and none after it. That OP 00 makes a free unit a counter is log entry 33, DEDUCED. -/
def Obligations.CarillonRegisterEvents : Prop :=
  (∀ s d, Commanded s d 0 → s.errs = [] →
    (Homed s d → (getDie s d).ccaddr.toNat % 8 = 0 →
      (getUnit s (getDie s d).ccaddr.toNat).kind = .free ∨ (getUnit s (getDie s d).ccaddr.toNat).kind = .counter →
      ∃ t, exec (.cccmdSetCounter d) s = .next t ∧
        t = { s with mem := memWrite s.mem (getDie s d).ccaddr.toNat 8 (getDie s d).ccdata.toNat, hist := t.hist
                     units := t.units, dies := t.dies, groups := t.groups } ∧
        (∀ u, mget {} t.units u = if u = (getDie s d).ccaddr.toNat / 8 then { kind := .counter } else mget {} s.units u) ∧
        getDie t d = { getDie s d with carUsed := true, ccDone := true, ccErr := false } ∧
        ∀ e, e ≠ d → getDie t e = getDie s e) ∧
    (¬ Homed s d ∨ (getDie s d).ccaddr.toNat % 8 ≠ 0 ∨ ((getUnit s (getDie s d).ccaddr.toNat).kind ≠ .free ∧
        (getUnit s (getDie s d).ccaddr.toNat).kind ≠ .counter) →
      exec (.cccmdSetCounter d) s = .next (setDie s d { getDie s d with ccDone := true, ccErr := true }))) ∧
  (∀ s d, Commanded s d 1 → s.errs = [] →
    (Homed s d → (getDie s d).ccaddr.toNat % 4096 = 0 →
      ∃ t, exec (.cccmdClearPage d) s = .next t ∧ t = { s with mem := t.mem, hist := t.hist, units := t.units, dies := t.dies } ∧
        (∀ a, memByte t.mem a =
          if (getDie s d).ccaddr.toNat ≤ a ∧ a < (getDie s d).ccaddr.toNat + 4096 then 0 else memByte s.mem a) ∧
        (∀ u, mget {} t.units u =
          if (getDie s d).ccaddr.toNat ≤ 8 * u ∧ 8 * u < (getDie s d).ccaddr.toNat + 4096 then {} else mget {} s.units u) ∧
        getDie t d = { getDie s d with carUsed := true, ccDone := true, ccErr := false }) ∧
    (¬ Homed s d ∨ (getDie s d).ccaddr.toNat % 4096 ≠ 0 →
      exec (.cccmdClearPage d) s = .next (setDie s d { getDie s d with ccDone := true, ccErr := true }))) ∧
  (∀ s d, Commanded s d 2 →
    (Homed s d → (getDie s d).ccaddr.toNat % 8 = 0 →
      ∃ t, exec (.cccmdRead d) s = .next t ∧ t = { s with dies := t.dies } ∧
        getDie t d = { getDie s d with
          carUsed := true, ccDone := true, ccErr := false
          ccdata := if (getUnit s (getDie s d).ccaddr.toNat).kind = .free then 0
            else BitVec.ofNat 64 (memRead s.mem (getDie s d).ccaddr.toNat 8)
          ccKind := match (getUnit s (getDie s d).ccaddr.toNat).kind with
            | .free => 0 | .counter => 1 | .words => 2 | .pair32 => 3 | .pair64 => 4 | .tree => 5
          ccOvf := (getUnit s (getDie s d).ccaddr.toNat).ovf && (getUnit s (getDie s d).ccaddr.toNat).kind == .counter }) ∧
    (¬ Homed s d ∨ (getDie s d).ccaddr.toNat % 8 ≠ 0 →
      exec (.cccmdRead d) s = .next (setDie s d { getDie s d with ccDone := true, ccErr := true }))) ∧
  (∀ s d, Commanded s d 3 →
    exec (.cccmdReserved d) s = .next (setDie s d { getDie s d with ccDone := true, ccErr := true })) ∧
  (∀ s d val, d < 4 →
    ((getDie s d).carUsed = true → exec (.csplitWrite d val) s = .next s) ∧
    ((getDie s d).carUsed = false →
      exec (.csplitWrite d val) s = .next (setDie s d { getDie s d with csplit := val.extractLsb' 0 6 })))

/-- R44, R47–R53: writes of a channel's controls and counters, the events of a tick, and what the end of the tick makes of them;
a request under a selector that differs from its domain's entry is refused with a terminal fault (where it is counted and that other devices' accesses
reach the counters only so are the model's reading, log entry 30). A write of CTXBASE keeps its reserved bits; writes
where no register stands, and to dies that are held in reset (log entry 32), have no effect; nor has one of the external host outside the management block, or in
its windows. -/
def Obligations.CounterEvents : Prop :=
  (∀ s d tierL ch, d < 4 → ∃ t, exec (.chctlClear d tierL ch) s = .next t ∧
    OnlyChan s t d (chanIx tierL ch) { chanAt s d (chanIx tierL ch) with clr := true, wrote := [] }) ∧
  (∀ s d tierL ch on, d < 4 → ∃ t, exec (.chctlFreeze d tierL ch on) s = .next t ∧
    OnlyChan s t d (chanIx tierL ch) { chanAt s d (chanIx tierL ch) with freeze := on }) ∧
  (∀ s d tierL ch which val, d < 4 → which < 5 → ∃ t c, exec (.counterWrite d tierL ch which val) s = .next t ∧
    OnlyChan s t d (chanIx tierL ch) c ∧ c = { chanAt s d (chanIx tierL ch) with cnt := c.cnt, wrote := c.wrote } ∧
    (∀ i, mfind c.wrote i = if i = which then some (val.extractLsb' 0 48) else mfind (chanAt s d (chanIx tierL ch)).wrote i) ∧
    ∀ i, mget {} c.cnt i = if i = which
      then { mget {} (chanAt s d (chanIx tierL ch)).cnt i with sat := (mget {} (chanAt s d (chanIx tierL ch)).cnt i).sat && !val.getLsbD 63 }
      else mget {} (chanAt s d (chanIx tierL ch)).cnt i) ∧
  (∀ s d tierL ch waits, d < 4 → ∃ t c, exec (.tierRefresh d tierL ch waits) s = .next t ∧ OnlyChan s t d (chanIx tierL ch) c ∧
    c = { chanAt s d (chanIx tierL ch) with ev := c.ev } ∧
    ((∀ x ∈ waits, Filtered (chanAt s d (chanIx tierL ch)) x = true) → c = chanAt s d (chanIx tierL ch)) ∧
    ((∃ x ∈ waits, Filtered (chanAt s d (chanIx tierL ch)) x = false) →
      ∀ i, mget 0 c.ev i = if i = 4 then 1 else mget 0 (chanAt s d (chanIx tierL ch)).ev i)) ∧
  (∀ s pa sel ctx write n conflict,
    (selectorAt s pa.toNat ≠ some sel.toNat → exec (.memoryChannelRequest pa sel ctx write n conflict) s =
      .next (post s .device 8 0 (numberOf ctx) write.toNat 0 pa.toNat 0)) ∧
    (selectorAt s pa.toNat = some sel.toNat → ∀ d i,
      ((∃ o, place pa.toNat = .tierH d o ∧ (channelOf 7 sel.toNat (o / 256)).1 % 128 = i) ∨
        (∃ o, place pa.toNat = .tierL d o ∧ 128 + (channelOf 5 sel.toNat (o / 256)).1 % 32 = i)) →
      ∃ t c, exec (.memoryChannelRequest pa sel ctx write n conflict) s = .next t ∧ OnlyChan s t d i c ∧
        c = { chanAt s d i with ev := c.ev } ∧
        (Filtered (chanAt s d i) ctx = true → c = chanAt s d i) ∧
        (Filtered (chanAt s d i) ctx = false → ∀ k, mget 0 c.ev k = mget 0 (chanAt s d i).ev k +
          (if k = 0 then n else if k = 1 then (!write).toNat else if k = 2 then write.toNat else if k = 3 then conflict.toNat else 0)))) ∧
  (∀ s d i c, s.powered = true → NoPass s → mfind (getDie s d).chans i = some c →
    ∃ t, exec .tick s = .next t ∧
      (chanAt t d i).ev = [] ∧ (chanAt t d i).clr = false ∧ (chanAt t d i).wrote = [] ∧ (chanAt t d i).seen = (chanAt t d i).cnt ∧
      (chanAt t d i).frozen = c.freeze ∧ (chanAt t d i).freeze = c.freeze ∧ (chanAt t d i).filtNext = none ∧
      ((chanAt t d i).filtCtx, (chanAt t d i).filtEn, (chanAt t d i).filtInv) = c.filtNext.getD (c.filtCtx, c.filtEn, c.filtInv) ∧
      ∀ k < 5, ∀ b, b = (if c.clr then {} else mget {} c.cnt k) →
        mget {} (chanAt t d i).cnt k = match mfind c.wrote k with
          | some v => { b with count := v }
          | none => if c.freeze then b else counterPlus b (mget 0 c.ev k)) ∧
  (∀ s addr size val,
    (∀ d, addr.pf0 = false → place addr.pa.toNat = .regs d 0 → diesUp s = true → size = 8 →
      exec (.registerWrite addr size val) s = .next (setDie s d { getDie s d with
        ctxbase := ((getDie s d).ctxbase &&& ~~~(0xFFFFFFFFFE000 : Dword)) ||| (val &&& 0xFFFFFFFFFE000) })) ∧
    (∀ d o, place addr.pa.toNat = .regs d o ∨ place addr.pa.toNat = .ctr d o → diesUp s = false ∨ addr.pf0 = true →
      exec (.registerWrite addr size val) s = .next s) ∧
    (∀ o, addr.pf0 = true → place addr.pa.toNat = .mgmt o → 0x1000 ≤ o → exec (.registerWrite addr size val) s = .next s) ∧
    ((∀ d o, place addr.pa.toNat ≠ .regs d o ∧ place addr.pa.toNat ≠ .ctr d o) → (∀ o, place addr.pa.toNat ≠ .mgmt o) →
      exec (.registerWrite addr size val) s = .next s))

/-! ## Events of ownership and of teams -/

namespace Sys2Proof

open Machine

/-- The range of a front end takes in a cluster (R256). -/
def Covers (s : State) (f g : Nat) : Prop :=
  ((getFe s f).fecfg.extractLsb' 0 5).toNat ≤ g ∧ g ≤ ((getFe s f).fecfg.extractLsb' 5 5).toNat

/-- The front end to which the ranges give a cluster: the lowest-numbered that covers it (R293). -/
def Owner (s : State) (g : Nat) : Option Nat → Prop
  | none => ∀ f < 32, ¬ Covers s f g
  | some f => f < 32 ∧ Covers s f g ∧ ∀ e < f, ¬ Covers s e g

/-- The groups of a team stand where their own fields say, and their strands have numbers of their own. -/
structure Placed (s : State) (u : Nat) : Prop where
  home : ∀ h ∈ teamGroups s u, getGroup s h.core h.slot = some h
  once : (teamGroups s u).Nodup
  sids : ∀ h ∈ teamGroups s u, (h.strands.map fun x => x.sid).Nodup

/-- A strand restarted at its region start, but for the acquire that comes before its next run (R289). -/
def restarted (x : Strand) : Strand :=
  { x with
    pc := x.region.pc, mask := x.region.mask, fmt := x.region.fmt, fx := x.region.fx, lapse := x.region.lapse
    cause := x.region.cause, epc := x.region.epc, value := x.region.value, fpc := x.region.fpc, hnd := x.region.hnd
    status := .ready, slot := false, kept := none, cnt := 0, lat := [], occ := 0, sb := restedSb x.sb, paid := false
    slog := x.slog.filter fun y => !y.young, acqNext := true }

/-- Each strand of a team's groups has become what `f` makes of it. -/
def EachStrand (s t : State) (u : Nat) (f : Strand → Strand) : Prop :=
  ∀ h ∈ teamGroups s u, ∃ k, getGroup t h.core h.slot = some k ∧ k.core = h.core ∧ k.slot = h.slot ∧ k.team = u ∧ k.v = h.v ∧ k.p = h.p ∧
    k.k = h.k ∧ k.q = h.q ∧ k.strands = h.strands.map f

/-- OP 0 on a strand that no operand-log entry holds (R286). -/
def resumed (x : Strand) : Strand :=
  match x.status with
  | .stopped cause _ =>
    if cause = 19 ∨ cause = 20 then restarted x
    else if cause = 17 then { x with pc := x.epc, status := .ready }
    else { x with pc := x.fpc, status := .ready }
  | _ => x

/-- A strand that a log entry does not hold, and that keeps no wait. -/
def Plain (x : Strand) : Prop := x.kept = none ∧ ∀ cause log, x.status = .stopped cause log → log = none

/-- TEAMCMD names, on an idle die, a group of team `tm`. -/
structure Commands (s : State) (die cluster core grp : Nat) (tm : Team) : Prop where
  onDie : die < 4
  idle : (getDie s die).tcDone = true
  group : ∃ g, getGroup s (cmdCore die cluster core) (grp % 1024) = some g ∧ g.team = tm.uid
  team : getTeam s tm.uid = some tm
  placed : Placed s tm.uid

/-- What a command of TEAMCMD leaves in its register. -/
def Answered (t : State) (die : Nat) (done err : Bool) : Prop := (getDie t die).tcDone = done ∧ (getDie t die).tcErr = err

/-- The fields that a command leaves in TEAMCMD; one that has no UNITS keeps them (R6, R286). -/
structure Fields (w old : Dword) (cluster core grp op : Nat) (units : Option (BitVec 16)) : Prop where
  cluster : w.extractLsb' 0 3 = BitVec.ofNat 3 cluster
  core : w.extractLsb' 3 4 = BitVec.ofNat 4 core
  grp : w.extractLsb' 7 10 = BitVec.ofNat 10 grp
  op : w.extractLsb' 17 3 = BitVec.ofNat 3 op
  units : w.extractLsb' 20 16 = units.getD (old.extractLsb' 20 16)

/-- What FEDOOR holds after a whole write. -/
def rung (s : State) (fe : Nat) (val : Dword) : Dword :=
  ((getFe s fe).door &&& ~~~(0x1FFFFFFFFFFFFFF : Dword)) ||| (val &&& 0x1FFFFFFFFFFFFFF)

/-- Memory has become `m`, but for the energy counters that their contexts' last granules save (R301). -/
def ButEnergy (s t : State) (m : List Host.Cell) : Prop :=
  ∀ a, (∀ core c b, energyEntry s core c = some b → a < b ∨ b + 8 ≤ a) → memByte t.mem a = memByte m a

/-- A launch of a context (R288): by its record, or by its doorbell while it has none. -/
def Ours (ctx : Nat) (l : Launch) : Prop := (if l.rcd = 0 then l.asid.toNat else lctx l) = ctx

/-- A record of a context. -/
def OurTask (s : State) (ctx : Nat) (x : Task) : Prop := ∃ l, taskLaunch s x = some l ∧ lctx l = ctx

/-- A slot of a front end holds a launch of a context. -/
def OurSlot (s : State) (ctx n i : Nat) : Prop := ∃ l, getLaunch s n i = some l ∧ Ours ctx l

/-- KILL has removed a context's records and launches from wherever they stand (R288). -/
structure Killed (s t : State) (ctx : Nat) : Prop where
  bank : ∀ n x, x ∈ (getBank t n).tasks ↔ x ∈ (getBank s n).tasks ∧ ¬ OurTask s ctx x
  ring : ∀ n x, x ∈ (getBank t n).ringMeta ↔ x ∈ (getBank s n).ringMeta ∧ ¬ OurTask s ctx x
  held : ∀ n x, x ∈ (getFe t n).held ↔ x ∈ (getFe s n).held ∧ ¬ OurTask s ctx x
  staging : ∀ n x, x ∈ (getFe t n).staging ↔ x ∈ (getFe s n).staging ∧ ¬ OurSlot s ctx n (tfield x 0 2 % 2048)
  queue : ∀ n i, i ∈ (getFe t n).queue ↔ i ∈ (getFe s n).queue ∧ ¬ OurSlot s ctx n i
  tiles : ∀ n x, x ∈ (getFe t n).tiles ↔ x ∈ (getFe s n).tiles ∧ ¬ OurSlot s ctx n x.lslot
  slots : ∀ n, ((getFe s n).slots.map Prod.fst).Nodup → ∀ i,
    (¬ OurSlot s ctx n i → getLaunch t n i = getLaunch s n i) ∧
    (∀ l, getLaunch s n i = some l → Ours ctx l →
      (l.resident = 0 → getLaunch t n i = none) ∧
      (l.resident ≠ 0 → getLaunch t n i = some { l with ntasks := l.resident, noAdd := true, phase := .faulted }))

/-- Nothing of a team is at work (R97, R205, R290). -/
def Drained (s : State) (tm : Team) : Prop :=
  teamBusy s tm.cluster tm.uid = false ∧ teamMops s tm.uid = false ∧ teamOps s tm.uid = false

/-- The launch of a team is not cooperative. -/
def Single (s : State) (tm : Team) : Prop := ∀ l, getLaunch s tm.fe tm.lslot = some l → lflag l 0 = false

/-- No group of a team is left, and every other stands as it was. -/
def GroupsGone (s t : State) (u : Nat) : Prop :=
  ∀ core slot h, getGroup t core slot = some h → getGroup s core slot = some h ∧ h.team ≠ u

/-- The record of a moved team (R290): its own with AGE + 1, its SEQ and its image, every condition counted as having held. -/
structure Moved (s : State) (tm : Team) (i : Nat) (x : Task) : Prop where
  seq : x.seq = some tm.seq
  age : taskAge x = min 255 (tfield tm.rcd 5 1 + 1)
  held : x.held = 0xF
  img : ∃ y, x.img = some y ∧ y.team = tm ∧ y.grps = teamGroups s tm.uid ∧ y.base = saveBase s tm ∧ y.slot = i ∧ y.at_ = slotAddr s tm i ∧
    y.size = imageBytes s tm

/-- Memory with an image: the bit of its slot set, and its text in the slot (R291). -/
def withImage (s : State) (tm : Team) (i text : Nat) : List Host.Cell :=
  memWrite (memWrite s.mem (saveBase s tm + i / 8) 1 (memByte s.mem (saveBase s tm + i / 8) ||| BitVec.twoPow 8 (i % 8)).toNat)
    (slotAddr s tm i) (imageBytes s tm) (Config.imageText text)

end Sys2Proof

/-- R256, R293, R294: a doorbell queues a launch, or is dropped where the queue is full, the front end has no cluster, or no
launch slot is free. A write of FECFG sets MOVING on each cluster whose owner the ranges change (that the ranges are compared with
COWN is the model's reading, log entry 31). A change passes its window at once where the old owner has no work left, waits while it has
within 100,000 ticks, gives COWN the new owner, empties its bank, and ends, within 50,000 ticks, with the cluster's columns, accumulators and translations empty. A FEDOOR
keeps its value between its halves (log entry 37). -/
def Obligations.OwnershipEvents : Prop :=
  (∀ s fe val, diesUp s = false → exec (.fedoor fe val) s = .next s ∧ exec (.fecfgWrite fe val) s = .next s) ∧
  (∀ s fe val, fe < 32 → diesUp s = true →
    (64 ≤ (getFe s fe).queue.length ∨ feClusters s fe = [] ∨ (∀ i < 2048, getLaunch s fe i ≠ none) →
      exec (.fedoor fe val) s = .next (setFe s fe { getFe s fe with drop := true, door := rung s fe val })) ∧
    (∀ i, (getFe s fe).queue.length < 64 → feClusters s fe ≠ [] → i < 2048 → getLaunch s fe i = none →
      (∀ j < i, getLaunch s fe j ≠ none) →
      ∃ t, exec (.fedoor fe val) s = .next t ∧ t = { s with fes := t.fes } ∧ (∀ g, g ≠ fe → getFe t g = getFe s g) ∧
        getFe t fe = { getFe s fe with
          door := rung s fe val
          queue := (getFe s fe).queue ++ [i], slots := (getFe t fe).slots, lastId := BitVec.ofNat 15 (2048 * fe + i) } ∧
        (∀ j, getLaunch t fe j =
          if j = i then some { asid := val.extractLsb' 0 8, va := (val.extractLsb' 8 49).setWidth 64 <<< 8 } else getLaunch s fe j))) ∧
  (∀ s fe val, fe < 32 → diesUp s = true →
    ∃ t, exec (.fecfgWrite fe val) s = .next t ∧ t = { s with fes := t.fes, dies := t.dies, reown := t.reown } ∧
      getFe t fe = { getFe s fe with fecfg := ((getFe s fe).fecfg &&& ~~~(0x3FF : Dword)) ||| (val &&& 0x3FF) } ∧
      (∀ f, f ≠ fe → getFe t f = getFe s f) ∧
      ∀ g < 32, mfind s.reown g = none → ∃ o, Owner t g o ∧
        (cownOwner s g = o → cownOf t g = cownOf s g ∧ mfind t.reown g = none) ∧
        (cownOwner s g ≠ o → cownOf t g = { cownOf s g with moving := true } ∧
          mfind t.reown g = some ⟨cownOwner s g, o, 2, s.time.toNat⟩)) ∧
  (∀ s g r f, mfind s.reown g = some r → r.step = 2 → r.old = some f →
    (s.time.toNat < r.since + 100000 → ownerBusy s g f = true → exec (.revocationWindowExpiry g) s = .next s) ∧
    (ownerBusy s g f = false → clusterTeams s g = [] → (getBank s g).tasks = [] → (getBank s g).ringMeta = [] →
      (getBank s g).ringLen = 0 →
      ∃ t, exec (.revocationWindowExpiry g) s = .next t ∧ t = { s with reown := t.reown, walkers := t.walkers, banks := t.banks } ∧
        mfind t.reown g = some { r with step := 3 } ∧ (∀ n, getWalker t n = getWalker s n) ∧ (∀ n, getBank t n = getBank s n))) ∧
  (∀ s g r, mfind s.reown g = some r → r.step = 3 →
    (clusterTeams s g ≠ [] → exec (.scrubStart g) s = .next s) ∧
    (clusterTeams s g = [] → g < 32 →
      (∀ f, r.next = some f → (getFe s f).held = [] ∧ (getFe s f).staging = []) →
      ∃ t, exec (.scrubStart g) s = .next t ∧ t = { s with dies := t.dies, reown := t.reown, banks := t.banks, errs := t.errs } ∧
        getBank t g = { getBank s g with tasks := [], ringMeta := [], ringLen := 0 } ∧ (∀ n, n ≠ g → getBank t n = getBank s n) ∧
        mfind t.reown g = some { r with step := 6, since := s.time.toNat } ∧
        cownOf t g = {
          part := match r.next with | some f => BitVec.ofNat 5 f | none => (cownOf s g).part
          none_ := r.next.isNone, gen := (cownOf s g).gen + 1, moving := false, scrub := true } ∧
        ∀ d < 4, mget {} (getDie t d).cown g = cownOf t g)) ∧
  (∀ s g r, g < 32 → mfind s.reown g = some r → r.step = 6 → s.time.toNat ≤ r.since + 50000 → Owner s g r.next →
    ∃ t, exec (.scrubComplete g) s = .next t ∧ mfind t.reown g = none ∧ cownOf t g = { cownOf s g with scrub := false } ∧
      (∀ n, (getCore t n).col = if n / 16 = g then { remap := (getCore s n).col.remap } else (getCore s n).col) ∧
      (∀ n, (getCore t n).acc = if n / 16 = g then [] else (getCore s n).acc) ∧
      getBank t g = { getBank s g with pass := true } ∧ (∀ n, n ≠ g → getBank t n = getBank s n) ∧
      (∀ n i x, n / 4 = g → mfind (getWalker t n).slots i = some x → x.beats = []) ∧
      (∀ n, n < 512 → n / 16 = g → mfind t.tlbs n = none) ∧
      (t.mg.bootStep = if s.mg.bootStep = 5 ∧ (∀ e ∈ s.reown, e.1 = g) then 6 else s.mg.bootStep))

/-- R280, R286, R288: CTL.STOP stands in every die's block; KILL of a context that has no team left removes its records and
launches from every bank, overflow ring, front end and launch slot, and is done at once; TEAMCMD's reserved OP keeps the fields and sets ERR, an OP on
an empty slot sets ERR, and a GO
while an OP is in progress sets the fields alone (log entry 35). -/
def Obligations.ContextEvents : Prop :=
  (∀ s ctx stop, ∃ t, exec (.contextStop ctx stop) s = .next t ∧ t = { s with dies := t.dies } ∧
    (∀ d c, ctxBlock t d c =
      if d < 4 ∧ c = ctx.toNat then { ctxBlock s d c with stop := stop } else ctxBlock s d c)) ∧
  (∀ s ctx,
    ((ctxBlock s 0 ctx.toNat).done = false → exec (.contextKill ctx) s = .next s) ∧
    ((ctxBlock s 0 ctx.toNat).done = true → (∀ e ∈ s.teams, e.2.ctx ≠ ctx) →
      ∃ t, exec (.contextKill ctx) s = .next t ∧ t.teams = s.teams ∧ t.groups = s.groups ∧
        (∀ d < 4, (ctxBlock t d ctx.toNat).done = true) ∧ Killed s t ctx.toNat)) ∧
  (∀ s die val, die < 4 →
    ((getDie s die).tcDone = true →
      exec (.teamcmdReservedOp die val) s = .next (setDie s die { getDie s die with teamcmd := val &&& 0xFFFFFFFFF, tcErr := true })) ∧
    ((getDie s die).tcDone = false →
      exec (.teamcmdReservedOp die val) s = .next (setDie s die { getDie s die with teamcmd := val &&& 0xFFFFFFFFF }))) ∧
  (∀ s die cluster core grp units i op u, die < 4 →
    (i, op, u) = (.teamResume die cluster core grp, 0, none) ∨ (i, op, u) = (.teamRenew die cluster core grp units, 1, some units) ∨
      (i, op, u) = (.teamMove die cluster core grp, 2, none) ∨ (i, op, u) = (.teamEnd die cluster core grp, 3, none) ∨
      (i, op, u) = (.teamRestart die cluster core grp, 4, none) →
    ((getDie s die).tcDone = false →
      ∃ t, exec i s = .next t ∧ t = { s with dies := t.dies } ∧ (∀ d, d ≠ die → getDie t d = getDie s d) ∧
        getDie t die = { getDie s die with teamcmd := (getDie t die).teamcmd } ∧
        Fields (getDie t die).teamcmd (getDie s die).teamcmd cluster core grp op u) ∧
    ((getDie s die).tcDone = true → getGroup s (cmdCore die cluster core) (grp % 1024) = none →
      ∃ t, exec i s = .next t ∧ t = { s with dies := t.dies } ∧ (∀ d, d ≠ die → getDie t d = getDie s d) ∧
        getDie t die = { getDie s die with teamcmd := (getDie t die).teamcmd, tcDone := true, tcErr := true } ∧
        Fields (getDie t die).teamcmd (getDie s die).teamcmd cluster core grp op u))

/-- R269, R286–R291: what TEAMCMD and the budget make of a team's strands: resumed by cause, given a new budget, restarted at
their region starts, moved, or ended with nothing of theirs released; the save of a drained team, whose image goes into the lowest free slot of
the save area and whose record goes back to a bank, or its failure with code 0x42; and
the release of what an ended team held (what of a strand's progress and of an image is kept is log entries 13 and 35). -/
def Obligations.TeamEvents : Prop :=
  (∀ s die cluster core grp tm, Commands s die cluster core grp tm → (∀ h ∈ teamGroups s tm.uid, ∀ x ∈ h.strands, Plain x) →
    (∃ t, exec (.teamResume die cluster core grp) s = .next t ∧ Answered t die true false ∧ EachStrand s t tm.uid resumed ∧
      t.mem = s.mem ∧ getTeam t tm.uid = some tm) ∧
    (∀ units, ∃ t, exec (.teamRenew die cluster core grp units) s = .next t ∧ Answered t die true false ∧
      EachStrand s t tm.uid resumed ∧ t.mem = s.mem ∧
      getTeam t tm.uid = some { tm with left := if units = 0 then none else some (65536 * units.toNat), budgetStop := false })) ∧
  (∀ s die cluster core grp tm, Commands s die cluster core grp tm →
    (∃ t, exec (.teamRestart die cluster core grp) s = .next t ∧ Answered t die true false ∧ EachStrand s t tm.uid restarted ∧
      t.mem = s.mem) ∧
    (tm.moving = false → tm.ending = false → (∀ l, getLaunch s tm.fe tm.lslot = some l → lflag l 0 = false) →
      ∃ t y, exec (.teamMove die cluster core grp) s = .next t ∧ Answered t die false false ∧ EachStrand s t tm.uid restarted ∧
        t.mem = s.mem ∧ getTeam t tm.uid = some y ∧ y.moving = true ∧ y.stopping = false ∧ y.budgetStop = false) ∧
    (tm.ending = false → (∀ h ∈ teamGroups s tm.uid, h.ops = []) →
      ∃ t y, exec (.teamEnd die cluster core grp) s = .next t ∧ Answered t die false false ∧ t.mem = s.mem ∧
        getTeam t tm.uid = some y ∧ y.ending = true ∧
        ∀ h ∈ teamGroups s tm.uid, ∃ k, getGroup t h.core h.slot = some k ∧ k.strands = [] ∧ k.join = [] ∧ k.left = [] ∧
          k.ended = true)) ∧
  (∀ s u tm, getTeam s u = some tm → tm.uid = u → Placed s u →
    (tm.budgetStop = false → exec (.budgetExhausted u) s = .next s) ∧
    (tm.budgetStop = true → teamGroups s u ≠ [] →
      (∀ h ∈ teamGroups s u, ∀ x ∈ h.strands, ∀ p, x.status ≠ .running p) →
      ∃ t, exec (.budgetExhausted u) s = .next t ∧ t.mem = s.mem ∧ getTeam t u = some { tm with budgetStop := false } ∧
        (∃ g ∈ teamGroups s u, (∀ h ∈ teamGroups s u, g.idx ≤ h.idx) ∧
          ∃ ref, t.rep = (post s (.team u) 0x40 0 tm.ctx.toNat 0 (locStrand g.core g.slot 0) 0 ref).rep) ∧
        ∀ h ∈ teamGroups s u, ∃ k, getGroup t h.core h.slot = some k ∧ k.strands.length = h.strands.length ∧
          ∀ (n : Nat) (x : Strand), h.strands[n]? = some x → ∃ y : Strand, k.strands[n]? = some y ∧
            ((∃ cause log, x.status = .stopped cause log) → y = x) ∧
            ((∀ cause log, x.status ≠ .stopped cause log) → y = { x with
              cause := 17, epc := x.pc, value := 0, fpc := x.pc, kept := y.kept, status := .stopped 17 none, slot := false }))) ∧
  (∀ s u tm, getTeam s u = some tm → tm.uid = u →
    (tm.moving = false → exec (.teamSave u) s = .next s) ∧
    (tm.moving = true → Single s tm → Drained s tm → saveSlot s tm = none →
      ∃ t, exec (.teamSave u) s = .next t ∧ t.mem = s.mem ∧ t.groups = s.groups ∧ t.cores = s.cores ∧
        getTeam t u = some { tm with moving := false, stopping := true, byCmd := false } ∧
        ∀ g l, teamGroups s u = g :: l →
          t.rep = (post s (.team u) 0x42 0 tm.ctx.toNat 0 (locStrand g.core g.slot 0) 0 0).rep) ∧
    (∀ i c, tm.moving = true → Single s tm → Drained s tm → Placed s u → saveSlot s tm = some i → saveOk s tm i = true → s.errs = [] →
      (getFe s tm.fe).held = [] → (getFe s tm.fe).staging = [] → tm.yieldTo = none →
      chooseCluster s tm.fe = some c → (getBank s c).ringLen = 0 → (getBank s c).tasks.length < 8192 →
      ∃ t x n, exec (.teamSave u) s = .next t ∧ getTeam t u = none ∧ GroupsGone s t u ∧
        (getBank t c).tasks = (getBank s c).tasks ++ [x] ∧ Moved s tm i x ∧ ButEnergy s t (withImage s tm i n))) ∧
  (∀ s u tm, getTeam s u = some tm → tm.uid = u → Placed s u →
    ((∃ h ∈ teamGroups s u, h.ended = false) → exec (.teamEndRelease u) s = .next s) ∧
    ((∀ h ∈ teamGroups s u, h.ended = true ∧ h.left = []) → Drained s tm → tm.ending = false → tilesPending s tm.fe tm.lslot = false →
      ∃ t, exec (.teamEndRelease u) s = .next t ∧ ButEnergy s t s.mem ∧ getTeam t u = none ∧ GroupsGone s t u ∧
        (∀ l, getLaunch s tm.fe tm.lslot = some l → ∃ x, getLaunch t tm.fe tm.lslot = some x ∧
          x.ntasks = l.ntasks - 1 ∧ x.resident = l.resident - 1 ∧ x.noAdd = l.noAdd)))

/-! ## Events of strands: waits, runs, fetches -/

namespace Sys2Proof

open Machine

/-- The strand of `c` has become `u`, and nothing else has changed. -/
def become (s : State) (c : Ctx) (u : Strand) : State := putCtx s { c with st := u }

/-- What puts a group on its own place. -/
def AtHome (s : State) (h : Group) : Prop := getGroup s h.core h.slot = some h ∧ (h.strands.map fun x => x.sid).Nodup

/-- The arrivals of a strand without those at a barrier. -/
def noArrival (l : List BarRec) (scope line : Nat) : List BarRec := l.filter fun b => !(b.scope == scope && b.line == line)

/-- The events that act on a parked strand, but for the release of a barrier. -/
def WaitEvent (i : Instr) (core slot sid : Nat) : Prop :=
  i = .sleepWake core slot sid ∨ i = .cwaitWake core slot sid ∨ i = .cwaitTimeout core slot sid ∨ i = .acquirePerformed core slot sid ∨
    i = .trapDelivery core slot sid

/-- An event has written q7 for a strand, and nothing else of the group (R126): the write is on its way to the file. -/
structure Q7Sent (g h : Group) (sid : Nat) (v : Bool) : Prop where
  rest : h = { g with uv := [], uw := [], uq := h.uq }
  old : ∀ e ∈ g.uq, e ∈ h.uq
  new : ∃ e ∈ h.uq, e.key = 71 ∧ e.val.getLsbD 0 = v ∧ e.sid = sid
  only : ∀ e ∈ h.uq, e ∈ g.uq ∨ (e.key = 71 ∧ e.val.getLsbD 0 = v ∧ e.sid = sid)

/-- The strand of `c` is in its handler, ready, by a delivery that found the table as `e` says (R275). -/
def Delivered (c : Ctx) (e t : State) (cause sub : Nat) (value epc h : Dword) : Prop :=
  t = { e with groups := t.groups } ∧ ∃ c', ctxAt t c.core c.slot c.st.sid = some c' ∧ c'.st.pc = h ∧ c'.st.hnd = true ∧
    c'.st.cause = BitVec.ofNat 32 (cause + 256 * sub) ∧ c'.st.epc = epc ∧ c'.st.value = value ∧ c'.st.fpc = c.st.pc ∧
    c'.st.status = .ready ∧ c'.st.region.pc = h ∧ NoRegs c.g c'.g

/-- An acquire of the strand of `c` has been performed (R231, R233): its new phase reads memory as it stood after `n` writes, no fewer than its
last snapshot's, with all that has been published in its scope's domain. -/
def Acquires (s : State) (c : Ctx) (scope : Nat) (t : State) : Prop :=
  ∃ n w, w = seenIn s (domainsOf c.g.core c.g.team c.g.idx scope) c.st.vis ∧ c.st.sigma ≤ n ∧ n ≤ max c.st.sigma s.hist.length ∧
    t = become { s with ageCtr := s.ageCtr + 1 } c { c.st with
      snap := snapshot s n w, snapNo := s.ageCtr + 1, own := [], sigma := n, vis := w, status := .ready }

end Sys2Proof

/-- R40, R218, R221, R225, R275, R372: SLEEP ends at its TIME. A CWAIT whose counter has reached its target in time acquires, with
q7 set where it has a limit; one whose limit has passed goes on with q7 clear and no acquire (log entry 40). An acquire is performed when what
the strand has sent is done, but for its releases where it is not that of PHASE (how new the snapshot is stays open, log entry 5). A delayed delivery
is made once its page has been named, and one that waits for what the strand has issued (log entry 47) once that is done. A barrier
that lacks an arrival holds; a complete one makes its next generation current and sends its BAR and BARW waiters to their acquires. A strand
that waits with a record takes none of these. -/
def Obligations.WaitEvents : Prop :=
  (∀ s core slot sid i, waiting s (.strand core slot sid) = true → WaitEvent i core slot sid → exec i s = .next s) ∧
  (∀ s core slot sid c n, waiting s (.strand core slot sid) = false → ctxAt s core slot sid = some c → c.st.status = .parked (.sleep n) →
    exec (.sleepWake core slot sid) s =
      .next (if n ≤ s.time.toNat then become s c { c.st with status := .ready } else s)) ∧
  (∀ s core slot sid c va pa target limit scope met, waiting s (.strand core slot sid) = false → ctxAt s core slot sid = some c →
    c.g.uw = [] → c.st.status = .parked (.cwait va pa target limit scope met) →
    (met = false → exec (.cwaitWake core slot sid) s = .next s) ∧
    (met = true → ∃ g, exec (.cwaitWake core slot sid) s =
        .next (putCtx s { c with st := { c.st with status := .parked (.acquire scope false) }, g := g }) ∧
      (limit = none → g = c.g) ∧ (limit.isSome = true → Q7Sent c.g g sid true))) ∧
  (∀ s core slot sid c va pa target l scope met, waiting s (.strand core slot sid) = false → ctxAt s core slot sid = some c →
    c.g.uw = [] → c.st.status = .parked (.cwait va (some pa) target (some l) scope met) →
    (met = true ∨ s.time.toNat ≤ l → exec (.cwaitTimeout core slot sid) s = .next s) ∧
    (met = false → l < s.time.toNat → ∃ g, exec (.cwaitTimeout core slot sid) s =
      .next (putCtx s { c with st := { c.st with status := .ready }, g := g }) ∧ Q7Sent c.g g sid false)) ∧
  (∀ s core slot sid c scope after, waiting s (.strand core slot sid) = false → ctxAt s core slot sid = some c →
    c.st.status = .parked (.acquire scope after) →
    (canAcquire s c.g c.st after = true → ∃ t, exec (.acquirePerformed core slot sid) s = .next t ∧ Acquires s c scope t) ∧
    ((∃ x ∈ c.g.ops, x.sid = sid ∧ (after = true ∨ x.op.isRelease = false)) → exec (.acquirePerformed core slot sid) s = .next s)) ∧
  (∀ s core slot sid c cause sub value epc va, waiting s (.strand core slot sid) = false → ctxAt s core slot sid = some c →
    (c.st.status = .parked (.delivery cause sub value epc va false) → exec (.trapDelivery core slot sid) s = .next s) ∧
    (∀ e h, c.st.status = .parked (.delivery cause sub value epc va true) → c.st.hnd = false → HandlerAt s c cause e h →
      ∃ t, exec (.trapDelivery core slot sid) s = .next t ∧ Delivered c e t cause sub value epc h)) ∧
  (∀ s core slot sid c cause word, waiting s (.strand core slot sid) = false → ctxAt s core slot sid = some c →
    c.st.status = .parked (.settle cause word) →
    (settled s c.g c.st = false → exec (.trapDelivery core slot sid) s = .next s) ∧
    (∀ e h, settled s c.g c.st = true → c.st.hnd = false → HandlerAt s c cause e h →
      ∃ t, exec (.trapDelivery core slot sid) s = .next t ∧ Delivered c e t cause 0 (word.setWidth 64) c.st.pc h)) ∧
  (∀ s core slot scope line g, getGroup s core slot = some g → g.core = core → g.slot = slot → g.ended = false →
    awayTeam s g scope = false →
    ((∃ h ∈ participants s g scope, h.ended = false ∧ ∃ x ∈ h.strands, barPending x.bars scope line ≠ some (barGen s g scope line)) →
      exec (.barrierRelease core slot scope line) s = .next s) ∧
    ((∀ h ∈ participants s g scope, AtHome s h ∧ groupArrived h scope line (barGen s g scope line) = true) →
      (participants s g scope).Nodup →
      (∀ h ∈ participants s g scope, ∀ x ∈ h.strands, ∀ kind sc ln gn,
        x.status = .parked (.bar kind sc ln gn) → kind = 0 ∨ kind = 2) →
      ∃ t, exec (.barrierRelease core slot scope line) s = .next t ∧ t.mem = s.mem ∧
        (scope = 1 → ∀ k, getGroup t core slot = some k → mget 0 k.bars line = mget 0 g.bars line + 1) ∧
        (scope = 2 → ∀ u, getTeam s g.team = some u → u.uid = g.team →
          ∃ w, getTeam t g.team = some w ∧ mget 0 w.bars line = mget 0 u.bars line + 1) ∧
        ∀ h ∈ participants s g scope, ∀ x ∈ h.strands, ∃ c, ctxAt t h.core h.slot x.sid = some c ∧
          (x.status = .parked (.bar 0 scope line (barGen s g scope line)) →
            c.st = { regionAt { x with bars := noArrival x.bars scope line } with status := .parked (.acquire scope false) }) ∧
          (x.status = .parked (.bar 2 scope line (barGen s g scope line)) →
            c.st = { x with bars := noArrival x.bars scope line, status := .parked (.acquire scope false) }) ∧
          ((∀ w, x.status ≠ .parked w) → c.st = x)))

namespace Sys2Proof

open Machine

/-- What a result that has its values writes (R131): its lanes' registers at once, and each uniform register by a write on its way to the
file (R126, log entry 8). -/
structure Returned (s : State) (core : Nat) (g h : Group) (p : Pend) : Prop where
  rest : h = { g with v := h.v, uv := [], uw := [], uq := h.uq, pend := g.pend.filter fun x => x.id != p.id }
  lanes : ∀ l r w, (l, r, w) ∈ p.vw → p.lanes.getLsbD l = true → readV h l r = w
  others : ∀ l r, r < 96 → (p.lanes.getLsbD l = false ∨ ∀ w, (l, r, w) ∉ p.vw) → readV h l r = readV g l r
  kept : ∀ e ∈ g.uq, e ∈ h.uq
  uniform : ∀ r w, (r, w) ∈ p.kw → ∃ e ∈ h.uq, e.key = r ∧ e.val = w ∧ nowCycle s core - 1 ≤ e.at_
  pred : ∀ b, p.qw = some b → ∃ e ∈ h.uq, e.key = 71 ∧ e.val.getLsbD 0 = b ∧ nowCycle s core - 1 ≤ e.at_
  only : ∀ e ∈ h.uq, e ∈ g.uq ∨ (e.key, e.val) ∈ p.kw ∨ (e.key = 71 ∧ p.qw = some (e.val.getLsbD 0))

end Sys2Proof

/-- R55, R63, R116, R131, R271: in the cycle in which it is its turn, a free port gives a run, which starts in the next, to a strand that is eligible
by then (slots and the order of ports are log entries 2 and 41). A result that has its values is
written in the lanes it is still pending for, and is pending no more. A parked strand's registers may move to a higher deck, and
are recalled to deck 1. A fetch reads the word at a ready strand's PC, or leaves it waiting with its record. A walk loads the cache
of its own unit and nothing else, but for the counters and logs of what it reads. -/
def Obligations.RunEvents : Prop :=
  (∀ s core port, port < 4 → (∀ h ∈ coreGroups s core, h.core = core ∧ AtHome s h) → (coreGroups s core).Nodup →
    (∀ x, weightOf s core x ≠ 0) → (∀ x, -32768 ≤ mget 0 (mget {} (getCore s core).ports port).dc x) →
    (issuing s = false ∨ (∃ h ∈ coreGroups s core, ∃ x ∈ h.strands, x.status = .running port) ∨
        (∀ a, arbCycle (readyCore s core) core port = some a → arbTurn (readyCore s core) core port a = false) →
      ∃ t, exec (.portArbitration core port) s = .next t ∧ t = { s with groups := t.groups }) ∧
    (∀ a, issuing s = true → arbCycle (readyCore s core) core port = some a → arbTurn (readyCore s core) core port a = true →
      ∃ t slot sid k y, exec (.portArbitration core port) s = .next t ∧ t.cur = some (core, slot, sid) ∧
        getGroup t core slot = some k ∧ findStrand k sid = some y ∧ y.status = .running port ∧ y.slot = true ∧ y.deck = 1 ∧
        y.acqNext = false ∧ y.cyc = a + 1 ∧ (getCore t core).front = a ∧ t.mem = s.mem ∧
        ∃ x ∈ candidates (readyCore s core) core, x.1.slot = slot ∧ x.2.sid = sid ∧ x.2.cyc ≤ a)) ∧
  (∀ s core slot id, waiting s (.pend core slot id) = true → exec (.resultReturn core slot id) s = .next s) ∧
  (∀ s core slot id g p, waiting s (.pend core slot id) = false → getGroup s core slot = some g → g.core = core → g.slot = slot →
    g.pend.find? (fun x => x.id == id) = some p →
    (p.filled = false ∨ p.bad ≠ none → exec (.resultReturn core slot id) s = .next (setGroup s g)) ∧
    (p.filled = true → p.bad = none → g.uw = [] → (p.vw.map fun x => (x.1, x.2.1)).Nodup →
      (∀ x ∈ p.vw, x.1 < 64 ∧ x.2.1 < 96) →
      ∃ t h, exec (.resultReturn core slot id) s = .next t ∧ t = { s with groups := t.groups } ∧ getGroup t core slot = some h ∧
        Returned s core g h p)) ∧
  (∀ s core slot sid deck c, ctxAt s core slot sid = some c →
    ((∀ w, c.st.status ≠ .parked w) → exec (.registerDeckMove core slot sid deck) s = .next s) ∧
    (∀ w, waiting s (.strand core slot sid) = false → c.st.status = .parked w → exec (.registerDeckMove core slot sid deck) s =
      .next (if c.st.deck < deck ∧ deck ≤ 6 then become s c { c.st with deck := deck } else s)) ∧
    (c.g.core = core → c.g.slot = slot → (c.g.strands.map fun x => x.sid).Nodup →
      exec (.registerRecall core slot sid) s = .next (become s c { c.st with deck := 1 }))) ∧
  (∀ s core slot sid c, ctxAt s core slot sid = some c → c.st.status = .ready →
    (∀ w e, fetchWord s c c.st.pc = (.inl w, e) → exec (.instructionFetch core slot sid) s = .next { e with cur := s.cur }) ∧
    (∀ code e, fetchWord s c c.st.pc = (.inr code, e) → retryable code = true →
      ∃ t c', exec (.instructionFetch core slot sid) s = .next t ∧ t.cur = s.cur ∧ t.mem = e.mem ∧
        ctxAt t core slot sid = some c' ∧ c'.st.status = .parked (.fetch c.st.pc) ∧ c'.st.pc = c.st.pc ∧ c'.st.slot = false ∧
        t.rep = (post e (.strand core slot sid) 0x10 0 c.g.ctx.toNat 2 (locStrand core slot 0) c.st.pc.toNat c.st.pc.toNat).rep)) ∧
  (∀ s unit asid va,
    (641 < unit ∨ 2 ^ 57 ≤ va.toNat → exec (.pageTableWalk unit asid va) s = .next s) ∧
    (∃ t, exec (.pageTableWalk unit asid va) s = .next t ∧ t = { s with tlbs := t.tlbs, dies := t.dies, errs := t.errs } ∧
      (∀ d, getDie t d = { getDie s d with chans := (getDie t d).chans }) ∧
      (∀ u, u ≠ unit → mget [] t.tlbs u = mget [] s.tlbs u) ∧
      (∀ ce e lg n s', unit ≤ 641 → va.toNat < 2 ^ 57 → tlbFind (mget [] s.tlbs unit) asid.toNat va.toNat = none →
        ctxEntry s (unitDie unit) asid.toNat = some ce → walk s (unitCore unit) asid.toNat ce.root va.toNat = (.leaf e lg n, s') → 0 < unitCap unit →
        (mget [] t.tlbs unit).head? = some ⟨asid, va.toNat / 2 ^ lg * 2 ^ lg, lg, BitVec.ofNat 64 e⟩)))

/-! ## Events of operations sent toward memory -/

namespace Sys2Proof

open Machine

/-- Strand `sid` of a group at its place has sent `o` first, under an owner tag; its addresses are still routed as they were, no operation of the
strand's has failed, and it waits with no record. -/
structure SentFirst (s : State) (core slot sid : Nat) (g : Group) (x : Strand) (tag : Nat × Nat) (o : MemOp) (rest : List Sent) : Prop where
  group : getGroup s core slot = some g
  here : g.core = core ∧ g.slot = slot
  strand : findStrand g sid = some x
  ops : ∃ sels, g.ops = ⟨sid, tag, sels, o⟩ :: rest ∧ ∀ e ∈ sels, selectorAt s e.1 = e.2
  whole : ∀ e ∈ logOf (getCore s core) slot sid, e.code ≠ 8 ∧ e.code ≠ 9 ∧ e.code ≠ 0x50
  free : waiting s (.strand core slot sid) = false
  errs : s.errs = []

/-- The owner tag of a team's write agrees with that of its cluster at the home (R295). -/
def TagOk (s : State) (core pa : Nat) (tag : Nat × Nat) : Prop := ownerOk s (homeDie pa) (clusterOf core) tag.1 tag.2 = true

/-- Memory after the stores of a store log, oldest first (R232, R234). -/
def storesIn (m : List Host.Cell) (l : List SStore) : List Host.Cell :=
  l.foldl (fun m y => match y.pa with | some pa => memWrite m pa y.size y.val | none => m) m

/-- The new word of an atomic on a memory word, its operand and the operand's upper word (R71). -/
def atomicWord (op : Nat) (old d high : Word) : Word :=
  match op with
  | 0x78 => old + d
  | 0x79 => BitVec.ofInt 32 (min old.toInt d.toInt)
  | 0x7A => BitVec.ofInt 32 (max old.toInt d.toInt)
  | 0x7B => old &&& d
  | 0x7C => old ||| d
  | 0x7D => old ^^^ d
  | 0x7E => d
  | _ => if old = d then high else old

/-- Every unit of a range is of kind tree (R342). -/
def TreeUnits (s : State) (a n : Nat) : Prop := ∀ b, a ≤ b → b < a + n → (getUnit s b).kind = .tree

/-- A strand's result of number `id` has its values. -/
def Filled (h : Group) (id : Nat) (vw : List (Nat × Nat × Word)) (kw : List (Nat × Word)) (q : Option Bool) : Prop :=
  ∃ p ∈ h.pend, p.id = id ∧ p.filled = true ∧ p.vw = vw ∧ p.kw = kw ∧ p.qw = q

end Sys2Proof

/-- R71, R209, R210, R217, R219, R230–R232, R295: a release performs the strand's stores in their order and publishes, in the domain of its scope, what
the strand sees. A counter addition,
a read of a unit, and an atomic on a word are performed at their home, and their results have their values; a counter
saturates and sets its flag. A write whose owner tag is not the home's is dropped with code 0x44; a unit of another kind stops the strand, whose
operation is kept for its resume (log entry 34). -/
def Obligations.OperationEvents : Prop :=
  (∀ s core slot sid g x tag sc pc rest, SentFirst s core slot sid g x tag (.release sc pc) rest → badStores s core x.slog = false →
    (∀ y ∈ x.slog, ∀ pa, y.pa = some pa → TagOk s core pa (teamTag s g.team) ∧ selectorAt s pa = y.sel) →
    exec (.carillonOperation core slot sid) s = .next s ∧
    ∃ t h y, exec (.releasePerformed core slot sid) s = .next t ∧ t.mem = storesIn s.mem x.slog ∧ getGroup t core slot = some h ∧
      h.ops = rest ∧ findStrand h sid = some y ∧ (∀ z ∈ y.slog, z.pa = none) ∧ y.status = x.status ∧ y.pc = x.pc ∧
      t.pub = (publishIn s (domainsOf core g.team g.idx sc) y.vis).pub) ∧
  (∀ s core slot sid g x tag va pa inc pc rest, SentFirst s core slot sid g x tag (.cadd va pa inc pc) rest → x.slog = [] →
    pa % 8 = 0 → (getUnit s pa).bad = false →
    exec (.releasePerformed core slot sid) s = .next s ∧
    ((getUnit s pa).kind = .free ∨ (getUnit s pa).kind = .counter →
      (TagOk s core pa tag →
        ∃ t h, exec (.carillonOperation core slot sid) s = .next t ∧ getGroup t core slot = some h ∧ h.ops = rest ∧
          (getUnit t pa).kind = .counter ∧
          memRead t.mem pa 8 = min (2 ^ 64 - 1) (unitRead s pa 8 + inc.toNat) ∧
          (getUnit t pa).ovf = ((getUnit s pa).kind == .counter && (getUnit s pa).ovf || decide (2 ^ 64 ≤ unitRead s pa 8 + inc.toNat)) ∧
          ∀ a, a < pa ∨ pa + 8 ≤ a → memByte t.mem a = memByte s.mem a) ∧
      (¬ TagOk s core pa tag →
        ∃ t, exec (.carillonOperation core slot sid) s = .next t ∧ t.mem = s.mem ∧ t.units = s.units ∧
          t.rep = (post s .device 0x44 0 g.ctx.toNat 1 (locStrand core slot 0) pa 0).rep)) ∧
    ((getUnit s pa).kind ≠ .free → (getUnit s pa).kind ≠ .counter → (∀ cause log, x.status ≠ .stopped cause log) →
      ∃ t h y i, exec (.carillonOperation core slot sid) s = .next t ∧ t.mem = s.mem ∧ getGroup t core slot = some h ∧ h.ops = rest ∧
        findStrand h sid = some y ∧ y.status = .stopped 16 (some i) ∧ y.value = va ∧ y.fpc = pc ∧ y.pc = x.pc ∧
        ∃ e ∈ (getCore t core).olog, e.idx = i ∧ e.op = .cadd va inc pc ∧ e.go = false)) ∧
  (∀ s core slot sid g x tag va pa d id pc rest, SentFirst s core slot sid g x tag (.cread va pa 0 d id pc) rest → x.slog = [] →
    (getUnit s pa).bad = false → (getUnit s pa).kind = .free ∨ (getUnit s pa).kind = .counter → (∃ p ∈ g.pend, p.id = id) →
    ∃ t h, exec (.carillonOperation core slot sid) s = .next t ∧ t.mem = s.mem ∧ t.units = s.units ∧ getGroup t core slot = some h ∧
      h.ops = rest ∧ Filled h id []
        [(d, BitVec.ofNat 32 (unitRead s pa 8)), (d + 1, BitVec.ofNat 32 (unitRead s pa 8 / 2 ^ 32))] (some !(getUnit s pa).ovf)) ∧
  (∀ s core slot sid g x tag a l pa v id rest, SentFirst s core slot sid g x tag (.atomic a) rest → x.slog = [] →
    a.pas = [(l, pa)] → a.syncL = [] → a.data = [(l, v)] → a.pend = some id → (∃ p ∈ g.pend, p.id = id) →
    0x78 ≤ wOp (firstWord a.instr) → wOp (firstWord a.instr) ≤ 0x7F → wLd (firstWord a.instr) < 96 → TagOk s core pa tag →
    ∃ t h, exec (.carillonOperation core slot sid) s = .next t ∧ getGroup t core slot = some h ∧ h.ops = rest ∧
      t.mem = memWrite s.mem pa 4 (atomicWord (wOp (firstWord a.instr)) (BitVec.ofNat 32 (memRead s.mem pa 4))
        (v.extractLsb' 0 32) (v.extractLsb' 32 32)).toNat ∧
      Filled h id [(l, wLd (firstWord a.instr), BitVec.ofNat 32 (memRead s.mem pa 4))] [] none)

/-- R75, R342, R351, R352, R385: an operand-log entry is replayed only when it has been started and is its strand's oldest; a logged
counter addition whose address now translates is sent and leaves the log, and one that meets its page fault again stays with
a new record. A step of the tree engine makes the next node of a backup; the background work frees its next run at the front of the
free list (in what order the runs of a job are freed is log entry 27). -/
def Obligations.ReplayAndTreeEvents : Prop :=
  (∀ s core idx e c, waiting s (.strand core e.grp e.sid) = false → (getCore s core).olog.find? (fun x => x.idx == idx) = some e → ctxAt s core e.grp e.sid = some c →
    (e.go = false ∨ (logOf (getCore s core) e.grp e.sid).head?.map (fun x => x.idx) ≠ some idx →
      exec (.logEntryReplay core idx) s = .next s) ∧
    (∀ va inc pc r, e.go = true → (logOf (getCore s core) e.grp e.sid).head?.map (fun x => x.idx) = some idx →
      e.op = .cadd va inc pc → translate s core (dieOf core) c.g.ctx.toNat .sync 8 va.toNat true = r →
      c.g.core = core → c.g.slot = e.grp →
      (∀ pa lg cls, r.1 = .ok pa lg cls →
        ∃ t h, exec (.logEntryReplay core idx) s = .next t ∧ t.mem = s.mem ∧
          (getCore t core).olog = (getCore s core).olog.filter (fun x => x.idx != idx) ∧
          getGroup t core e.grp = some h ∧
          ∀ y, y = (⟨e.sid, teamTag s c.g.team, [(pa, selectorAt s pa)], .cadd va pa inc pc⟩ : Sent) →
            h.ops = if e.failed then y :: c.g.ops else c.g.ops ++ [y]) ∧
      (r.1 = .code 0x10 →
        ∃ t, exec (.logEntryReplay core idx) s = .next t ∧ t.mem = s.mem ∧ t.groups = s.groups ∧
          t.rep = (post s (.strand core e.grp e.sid) 0x10 0 c.g.ctx.toNat 5 (locStrand core e.grp e.idx) va.toNat pc.toNat).rep ∧
          (getCore t core).olog = (getCore s core).olog.map fun x =>
            if x.idx = idx then { x with code := 0x10, page := va.toNat / 4096, go := false } else x))) ∧
  (∀ s core slot sid g, getGroup s core slot = some g →
    ((∀ x ∈ g.ops, x.sid = sid → x.op.isTree = false) → exec (.treeStep core slot sid) s = .next s) ∧
    (∀ x form d pc pend ls page back rest, g.ops = x :: rest → x.sid = sid → x.op = .tree form d pc pend ls (some page) back →
      exec (.treeStep core slot sid) s = .next s) ∧
    (∀ x d pc pend l back rest n i, g.ops = x :: rest → x.sid = sid → x.op = .tree 2 d pc pend [l] none back →
      (∀ p, pend = some p → waiting s (.pend core slot p) = false) → TagOk s core l.pool x.tag → g.core = core → g.slot = slot → s.errs = [] →
      l.done = false → i = l.left - 1 → n = l.path.getD i 0 → l.pool % 64 = 0 → TreeUnits s l.pool 64 →
      TreeUnits s (l.pool + nodeOff n) 32 → n < hCap s l.pool → nFreed s l.pool n = false →
      ∃ t h, exec (.treeStep core slot sid) s = .next t ∧ getGroup t core slot = some h ∧
        nd t l.pool n 0 4 = min (nd s l.pool n 0 4 + 1) (2 ^ 32 - 1) ∧
        (∀ y, y = (if (l.arg - i) % 2 = 0 then l.data else l.data ^^^ 2 ^ 31) →
          nd t l.pool n 4 4 = (pairAdd fp32 (nd s l.pool n 4 4) (nd s l.pool n 8 4) y).1 % 2 ^ 32 ∧
          nd t l.pool n 8 4 = (pairAdd fp32 (nd s l.pool n 4 4) (nd s l.pool n 8 4) y).2 % 2 ^ 32) ∧
        nVl t l.pool n = nVl s l.pool n - (if 1 ≤ i then 1 else 0) ∧
        nPending t l.pool n = (nPending s l.pool n && decide (i ≠ l.arg)) ∧
        (i ≠ 0 → h.ops = { x with op := .tree 2 d pc pend [{ l with left := i, steps := l.steps + 1 }] none none } :: rest) ∧
        (i = 0 → h.ops = rest))) ∧
  (∀ s die,
    ((getDie s die).treeFree = [] → exec (.treeBackgroundFree die) s = .next s) ∧
    ((∀ j ∈ (getDie s die).treeFree, j.held ≠ none) → exec (.treeBackgroundFree die) s = .next s) ∧
    (∀ j rest h len, (getDie s die).treeFree = j :: rest → j.held = none → j.runs = [(h, len, 0)] → TagOk s j.core j.pool j.tag → s.errs = [] →
      j.pool % 64 = 0 → TreeUnits s j.pool 64 → TreeUnits s (j.pool + nodeOff h) (32 * len) → 0 < len → h < 2 ^ 32 → len < 2 ^ 32 →
      hdr s j.pool 48 8 = 0 →
      ∃ t, exec (.treeBackgroundFree die) s = .next t ∧ (getDie t die).treeFree = rest ∧ nFreed t j.pool h = true ∧
        hFree t j.pool = h ∧ nFirst t j.pool h = hFree s j.pool ∧ nMove t j.pool h = len ∧
        hdr t j.pool 8 4 = hdr s j.pool 8 4 - len ∧
        hPend t j.pool = hPend s j.pool - ((List.range len).countP fun i => nPending s j.pool (h + i))))

/-! ## Events of the walkers -/

namespace Sys2Proof

open Machine

/-- Slot `i` of a walker holds `x`, waiting for nothing and with no record; no command waits for a slot. -/
structure InSlot (s : State) (w i : Nat) (x : WSlot) : Prop where
  free : waiting s (.slot w i) = false
  slot : mfind (getWalker s w).slots i = some x
  going : x.wait = none
  queue : (getWalker s w).pendq = []

/-- Slot `i` holds `x`, and nothing else has changed, apart from what `e` gives. -/
def slotIs (e : State) (w i : Nat) (x : WSlot) : State :=
  setWalker e w { getWalker e w with slots := mput (getWalker e w).slots i x }

/-- The ticket of a command, where its core keeps one. -/
def ticketOf (s : State) (t : Word) : Option Ticket := mfind (getCore s (t.toNat / 2 ^ 22 % 512)).tickets (t.toNat % 2 ^ 22)

/-- The command of a slot has ended with a status and an error; the walker's memory is as it was. -/
structure CmdEnded (s t : State) (w i : Nat) (x : WSlot) (state err : Nat) : Prop where
  slot : ∃ y, mfind (getWalker t w).slots i = some y ∧ y.phase = .ended ∧ y.beats = []
  ticket : ∀ k, ticketOf s x.cmd.ticket = some k → ∃ m, ticketOf t x.cmd.ticket = some m ∧ m.state = state ∧ m.err = BitVec.ofNat 8 err
  mem : t.mem = s.mem

/-- A slot holds a command that `f` accepts, and no record (R283). -/
def Holds (s : State) (w i : Nat) (f : WSlot → Prop) : Prop :=
  waiting s (.slot w i) = false ∧ ∃ x, mfind (getWalker s w).slots i = some x ∧ f x

/-- A slot could take the next beat (R78). -/
def Hungry (s : State) (w i : Nat) : Prop := Holds s w i fun x => slotReady x = true ∧ 0 < x.credit

/-- A slot waits on its permit and has beats left that it may read ahead (R88). -/
def Ahead (x : WSlot) : Prop := x.phase = .permit ∧ x.wait = none ∧ bf x.blk 32 8 ≠ 0 ∧ x.next < bBeats x.blk

/-- Slot `i` is the `n`th in the search order after the slot served last (R78). -/
def InTurn (s : State) (w i n : Nat) : Prop := n < 8 ∧ i = ((getWalker s w).last + 1 + n) % 8

/-- A slot has read its next beat. -/
def readNext (x : WSlot) (v : Nat) : WSlot := { x with next := x.next + 1, beats := x.beats ++ [⟨x.next, BitVec.ofNat 512 v⟩] }

/-- Two states agree apart from the counters of channels (R51). -/
def ExceptCounts (e t : State) : Prop := t = { e with dies := t.dies } ∧ ∀ d, getDie t d = { getDie e d with chans := (getDie t d).chans }

/-- The domains of a block's scope: those of its team, from .tm on (R86, R229). -/
def blockDomains (x : WSlot) : List Nat := (domainsOf x.cmd.core x.cmd.team 0 (bScope x.blk)).drop 1

/-- A block begins to move (R87 steps 3 and 4, R88): with ACQ it acquires, and what it has read ahead is discarded; without, it is kept. -/
def movesOn (s : State) (x : WSlot) : WSlot := { x with
  vis := if bAcq x.blk then seenIn s (blockDomains x) x.vis else x.vis
  next := if bAcq x.blk then 0 else x.next
  beats := if bAcq x.blk then [] else x.beats
  phase := if bType x.blk = 4 then .token else if bBeats x.blk = 0 then .drain else .move }

/-- An event of a slot of a walker, but for the grant of a beat. -/
def SlotEvent (i : Instr) (w n : Nat) : Prop :=
  i = .blockFetch w n ∨ i = .permitSatisfied w n ∨ i = .beatWrite w n ∨ i = .waitBlockToken w n ∨ i = .blockDrainComplete w n ∨
    i = .walkerFaultResume w n

end Sys2Proof

/-- R76–R92, R96, R97, R283, R285, R295: a fetched block is kept where it is well formed, and ends its command with error 0x20 where it is not; a block
waits for its permit and then moves, a releasing PUTS below .dev only to its own die; a beat is granted to the first slot with credit in the search
order, read in program order
and written to its destination, or dropped there when its command has been revoked; a cycle that serves no slot reads ahead for one that waits on its
permit, and ACQ discards what was read; a WAIT block takes the oldest token, one above 2 ending in error 0x25; a drained block releases, then ends or
links; a slot that waits for a page goes on only once the page has been named, and one that holds a record goes on with nothing. The order of beats in a
block, and what stops a read ahead, are the model's (log entry 22). -/
def Obligations.WalkerEvents : Prop :=
  (∀ s w n i, waiting s (.slot w n) = true → SlotEvent i w n → exec i s = .next s) ∧
  (∀ s w i x pa lg cls e, InSlot s w i x → x.phase = .fetch → s.errs = [] →
    walkTr s w x (.load 128) 128 x.cmd.addr false = (.ok pa lg cls, e) →
    (blockOk x.cmd.core (BitVec.ofNat 1024 (memRead s.mem pa 128)) = true →
      ∃ e', ExceptCounts e e' ∧ exec (.blockFetch w i) s = .next (slotIs e' w i { x with
        blk := BitVec.ofNat 1024 (memRead s.mem pa 128), phase := .permit, next := 0, beats := []
        credit := bWeight (BitVec.ofNat 1024 (memRead s.mem pa 128)), tok := none })) ∧
    (blockOk x.cmd.core (BitVec.ofNat 1024 (memRead s.mem pa 128)) = false →
      ∃ t, exec (.blockFetch w i) s = .next t ∧ CmdEnded s t w i x 3 0x20)) ∧
  (∀ s w i x, InSlot s w i x → x.phase = .permit → ¬ (bType x.blk = 3 ∧ bRel x.blk = true ∧ bScope x.blk < 5) →
    (bf x.blk 32 8 = 0 → exec (.permitSatisfied w i) s = .next (slotIs s w i (movesOn s x))) ∧
    (∀ pa lg cls e, s.errs = [] → bf x.blk 32 8 ≠ 0 → bf x.blk 32 8 % 8 = 0 →
      walkTr s w x .sync 8 (bf x.blk 32 8) false = (.ok pa lg cls, e) →
      (getUnit s pa).kind = .free ∨ (getUnit s pa).kind = .counter → (getUnit s pa).bad = false →
      (unitRead s pa 8 < bf x.blk 40 8 → exec (.permitSatisfied w i) s = .next (carUse e pa)) ∧
      (bf x.blk 40 8 ≤ unitRead s pa 8 →
        exec (.permitSatisfied w i) s = .next (slotIs (carUse e pa) w i (movesOn s x))))) ∧
  (∀ s w i x, InSlot s w i x → x.phase = .permit → bType x.blk = 3 → bRel x.blk = true → bScope x.blk < 5 → bf x.blk 32 8 = 0 →
    bf x.blk 48 8 = 0 →
    (bBeats x.blk = 0 ∨ bits (bf x.blk 16 8) 63 62 = 2 ∨
        (bits (bf x.blk 16 8) 63 62 = 1 ∧ bits (bf x.blk 16 8) 33 32 = dieOf x.cmd.core) →
      exec (.permitSatisfied w i) s = .next (slotIs s w i (movesOn s x))) ∧
    (bBeats x.blk ≠ 0 → bits (bf x.blk 16 8) 63 62 = 1 → bits (bf x.blk 16 8) 33 32 ≠ dieOf x.cmd.core →
      ∃ t, exec (.permitSatisfied w i) s = .next t ∧ CmdEnded s t w i x 3 0x20)) ∧
  (∀ s w i x n pa lg cls e, InSlot s w i x → s.errs = [] → InTurn s w i n → slotReady x = true →
    0 < x.credit → (∀ m < n, ¬ Hungry s w (((getWalker s w).last + 1 + m) % 8)) → x.cmd.mm = false → bits (bf x.blk 8 8) 63 62 = 0 →
    walkTr s w x (.load 64) 64 (bits (bf x.blk 8 8) 56 0 + beatOff x.blk (bf x.blk 24 4) x.next) false = (.ok pa lg cls, e) →
    ∃ t e', exec (.walkerBeatGrant w) s = .next t ∧ ExceptCounts e e' ∧ t = { e' with walkers := t.walkers } ∧ (getWalker t w).last = i ∧
      (∀ j, mfind (getWalker t w).slots j = if j = i then some (readNext { x with credit := x.credit - 1 } (memRead s.mem pa 64))
        else mfind (getWalker s w).slots j)) ∧
  (∀ s w i x n pa lg cls e, InSlot s w i x → s.errs = [] → InTurn s w i n → Ahead x →
    (∀ j < 8, ¬ Holds s w j fun y => slotReady y = true) → (∀ m < n, ¬ Holds s w (((getWalker s w).last + 1 + m) % 8) Ahead) →
    bits (bf x.blk 8 8) 63 62 = 0 →
    walkTr s w x (.load 64) 64 (bits (bf x.blk 8 8) 56 0 + beatOff x.blk (bf x.blk 24 4) x.next) false = (.ok pa lg cls, e) →
    ∃ t e', exec (.walkerBeatGrant w) s = .next t ∧ ExceptCounts e e' ∧ t = { e' with walkers := t.walkers } ∧
      (getWalker t w).last = (getWalker s w).last ∧
      (∀ j, mfind (getWalker t w).slots j = if j = i then some (readNext x (memRead s.mem pa 64)) else mfind (getWalker s w).slots j)) ∧
  (∀ s w i x b rest pa lg cls e, InSlot s w i x → s.errs = [] → x.beats = b :: rest → bits (bf x.blk 16 8) 63 62 = 0 →
    walkTr s w x .store 64 (bits (bf x.blk 16 8) 56 0 + beatOff x.blk (bf x.blk 28 4) b.idx) true = (.ok pa lg cls, e) →
    (x.phase = .move → ∃ t y, exec (.beatWrite w i) s = .next t ∧ mfind (getWalker t w).slots i = some y ∧
      y = { x with beats := rest, phase := if rest = [] ∧ x.next = bBeats x.blk then .drain else .move, vis := y.vis } ∧
      (TagOk s x.cmd.core pa (x.cmd.part, x.cmd.gen) → t.mem = memWrite s.mem pa 64 b.data.toNat) ∧
      (¬ TagOk s x.cmd.core pa (x.cmd.part, x.cmd.gen) → t.mem = s.mem ∧ y.vis = x.vis ∧
        t.rep = (post s (.slot w i) 0x44 1 x.cmd.ctx.toNat 1 (locSlot x.cmd.core (w % 4) i) pa x.cmd.ticket.toNat).rep)) ∧
    (x.phase = .ended → ∃ t, exec (.beatWrite w i) s = .next t ∧ t.mem = s.mem ∧
      mfind (getWalker t w).slots i = some { x with beats := rest } ∧
      (¬ TagOk s x.cmd.core pa (x.cmd.part, x.cmd.gen) →
        t.rep = (post s (.slot w i) 0x44 1 x.cmd.ctx.toNat 1 (locSlot x.cmd.core (w % 4) i) pa x.cmd.ticket.toNat).rep))) ∧
  (∀ s w i x, InSlot s w i x → x.phase = .token →
    (x.cmd.tokens = [] → exec (.waitBlockToken w i) s = .next s) ∧
    (∀ v rest, x.cmd.tokens = v :: rest →
      (v.toNat < 3 → exec (.waitBlockToken w i) s = .next (slotIs s w i { x with
        cmd := { x.cmd with tokens := rest }, tok := some v.toNat, phase := .drain })) ∧
      (3 ≤ v.toNat → ∃ t, exec (.waitBlockToken w i) s = .next t ∧ CmdEnded s t w i x 3 0x25))) ∧
  (∀ s w i x, InSlot s w i x → x.phase = .drain → bf x.blk 48 8 = 0 → bType x.blk ≠ 4 → bLinkc x.blk ≤ 1 →
    ∃ t, exec (.blockDrainComplete w i) s = .next t ∧ t.mem = s.mem ∧
      t.pub = (if bRel x.blk then publishIn s (blockDomains x) x.vis else s).pub ∧
      (bLinkc x.blk = 0 → CmdEnded s t w i x 2 0) ∧
      (bLinkc x.blk = 1 → bf x.blk 64 8 ≠ 0 → bf x.blk 64 8 % 128 = 0 → bf x.blk 64 8 < 2 ^ 57 →
        mfind (getWalker t w).slots i = some { x with
          phase := .fetch, cmd := { x.cmd with addr := bf x.blk 64 8 }, released := false } ∧
        ∀ k, ticketOf s x.cmd.ticket = some k → ∃ m, ticketOf t x.cmd.ticket = some m ∧ m.blocks = min (k.blocks + 1) 127)) ∧
  (∀ s w i x, waiting s (.slot w i) = false → mfind (getWalker s w).slots i = some x →
    exec (.walkerFaultResume w i) s = .next (if x.go then slotIs s w i { x with wait := none, go := false } else s))

/-! ## Events of launches and dispatchers -/

namespace Sys2Proof

open Machine

/-- The launch in slot `slot` stands at the head of the queue of a front end that has nothing else to enqueue. -/
structure AtHead (s : State) (f slot : Nat) (l : Launch) : Prop where
  queue : ∃ rest, (getFe s f).queue = slot :: rest
  launch : getLaunch s f slot = some l
  held : (getFe s f).held = []
  staging : (getFe s f).staging = []
  free : waiting s (.fe f) = false

/-- A launch that has left with a launch fault and its record (R258, R281). -/
def LaunchFaulted (s t : State) (f slot : Nat) (l : Launch) (code : Nat) : Prop :=
  getLaunch t f slot = none ∧ (getFe t f).queue = (getFe s f).queue.filter (· != slot) ∧
    t.rep = (post s (.fe f) code 2 (if l.rcd = 0 then l.asid.toNat else lctx l) 0 (locFe f) l.va.toNat (launchNum f slot)).rep

/-- A unit is held where the partition has no cluster (R262). -/
def Unplaced (s : State) (f : Nat) : Prop := feClusters s f = []

/-- The domains in which a launch's completion publishes (R265): those of the team that launched it. -/
def launchDomains (l : Launch) : List Nat :=
  match l.by_ with
  | some (c, u, i) => domainsOf c u i (if lrec l 48 8 = 0 then 6 else lrec l 45 1)
  | none => (domainsOf 0 0 0 (if lrec l 48 8 = 0 then 6 else lrec l 45 1)).drop 4

end Sys2Proof

/-- R258, R262–R268: the launch at the head of a queue is read, refused with 0x31 where a field breaks its rule, waits for a page or goes
on to its ranges; a condition holds from the test at which its counter has reached the target; a pass runs only when it is
called for, and a ready unit that fits leaves the bank and stands on one core of the cluster; an overflow ring gives its records
back; a launch whose condition for its kind holds publishes, makes its completion add and frees its slot. What the fault of a broken record names, and
when a pass is called for, are the model's reading (log entry 28). -/
def Obligations.LaunchEvents : Prop :=
  (∀ s f slot l, AtHead s f slot l → l.phase = .queued →
    (∀ pa lg cls, feTr s l.asid.toNat (.load 256) 256 l.va.toNat false = .ok pa lg cls →
      (recordOk s { l with rcd := BitVec.ofNat 2048 (memRead s.mem pa 256) } = false →
        ∃ t, exec (.launchProcess f) s = .next t ∧
          LaunchFaulted s t f slot { l with rcd := 0 } 0x31) ∧
      (∀ m, m = { l with rcd := BitVec.ofNat 2048 (memRead s.mem pa 256) } → recordOk s m = true → lrec m 48 8 = 0 →
        staticsOk m = true → lrec m 46 2 = 0 →
        ∃ t, exec (.launchProcess f) s = .next t ∧ t.mem = s.mem ∧ getLaunch t f slot = some { m with phase := .ranges } ∧
          (getFe t f).queue = (getFe s f).queue)) ∧
    (∀ code, feTr s l.asid.toNat (.load 256) 256 l.va.toNat false = .code code → retryable code = true →
      ∃ t, exec (.launchProcess f) s = .next t ∧
        getLaunch t f slot = some { l with phase := .waiting l.asid.toNat (l.va.toNat / 4096) 1 } ∧
        t.rep = (post s (.fe f) code 2 l.asid.toNat 0 (locFe f) l.va.toNat (launchNum f slot)).rep) ∧
    (∀ code, feTr s l.asid.toNat (.load 256) 256 l.va.toNat false = .code code → retryable code = false →
      ∃ t, exec (.launchProcess f) s = .next t ∧ LaunchFaulted s t f slot l 0x30)) ∧
  (∀ s cluster seq cond x l pa lg cls, (getBank s cluster).tasks.filter (fun t => t.seq == some seq) = [x] →
    waiting s (.task x.id) = false →
    taskLaunch s x = some l → cond < 4 → x.faulted = false → x.held.getLsbD cond = false →
    x.wait.contains ((taskCond s x cond).1 / 4096) = false → (taskCond s x cond).1 ≠ 0 → (taskCond s x cond).1 % 8 = 0 →
    feTr s (lctx l) .sync 8 (taskCond s x cond).1 false = .ok pa lg cls →
    (getUnit s pa).kind = .free ∨ (getUnit s pa).kind = .counter →
    (unitRead s pa 8 < (taskCond s x cond).2 → exec (.conditionTest cluster seq cond) s = .next s) ∧
    ((taskCond s x cond).2 ≤ unitRead s pa 8 →
      ∃ t, exec (.conditionTest cluster seq cond) s = .next t ∧ t = { s with banks := t.banks } ∧
        getBank t cluster = { getBank s cluster with
          pass := true
          tasks := (getBank s cluster).tasks.map fun y => if y.id = x.id then { y with held := y.held ||| (1#4 <<< cond) } else y })) ∧
  (∀ s cluster,
    ((getBank s cluster).pass = false → exec (.dispatchPass cluster) s = .next s) ∧
    (∀ b x l e, s.banks = [(cluster, b)] → b.pass = true → b.tasks = [x] → x.q = 0 → x.img = none → x.err = none → taskLaunch s x = some l →
      lflag l 0 = false → lflag l 1 = false → unitReady s cluster [x] = true →
      placeTeam (setBank s cluster { b with pass := false }) cluster x = some e →
      ∃ t k tm, exec (.dispatchPass cluster) s = .next t ∧ t.groups = e.groups ∧ (getBank t cluster).tasks = [] ∧ k < 16 ∧
        getTeam t s.nextUid = some tm ∧ tm.cores = [16 * cluster + k] ∧ tm.cluster = cluster ∧ tm.ctx = BitVec.ofNat 8 (lctx l) ∧
        tm.left = (if taskBudget x = 0 then none else some (65536 * taskBudget x)) ∧
        tm.part = (cownOf s cluster).part.toNat ∧ tm.gen = (cownOf s cluster).gen.toNat)) ∧
  (∀ s cluster,
    ((getBank s cluster).ringLen = 0 ∨ 4096 < (getBank s cluster).tasks.length → exec (.queueUnspill cluster) s = .next s) ∧
    (∀ x, (getBank s cluster).ringLen = 1 → (getBank s cluster).ringMeta = [x] → (getBank s cluster).tasks.length ≤ 4096 →
      s.errs = [] → physOk s (ringAddr (getBank s cluster) 0) 128 = true →
      ∃ t, exec (.queueUnspill cluster) s = .next t ∧ t = { s with banks := t.banks } ∧
        (∀ n, n ≠ cluster → getBank t n = getBank s n) ∧
        getBank t cluster = { getBank s cluster with
          tasks := (getBank s cluster).tasks ++ [{ ringRead s (getBank s cluster) 0 x with err := none, staged := false }]
          ringMeta := [], ringLen := 0, ringHead := (getBank s cluster).ringHead + 1, pass := true })) ∧
  (∀ s f slot l, getLaunch s f slot = some l → l.phase = .active → l.addWait = none → waiting s (.fe f) = false →
    (launchOver s f slot l = false → exec (.launchCompletion f slot) s = .next s) ∧
    (launchOver s f slot l = true → (l.noAdd = true ∨ lrec l 48 8 = 0 →
      ∃ t, exec (.launchCompletion f slot) s = .next t ∧ t = { s with fes := t.fes, pub := t.pub } ∧
        t.pub = (publishIn s (launchDomains l) l.seen).pub ∧
        ∀ j, getLaunch t f j = if j = slot then none else getLaunch s f j) ∧
      (∀ pa lg cls, l.noAdd = false → lrec l 48 8 ≠ 0 → s.errs = [] → feTr s (lctx l) .sync 8 (lrec l 48 8) true = .ok pa lg cls →
        (getUnit s pa).kind = .free ∨ (getUnit s pa).kind = .counter → (getUnit s pa).bad = false → pa % 8 = 0 → unitRead s pa 8 + lrec l 56 4 < 2 ^ 64 →
        ∃ t, exec (.launchCompletion f slot) s = .next t ∧ getLaunch t f slot = none ∧ (getUnit t pa).kind = .counter ∧
          t.pub = (publishIn s (launchDomains l) l.seen).pub ∧
          memRead t.mem pa 8 = unitRead s pa 8 + lrec l 56 4 ∧
          ∀ a, a < pa ∨ pa + 8 ≤ a → memByte t.mem a = memByte s.mem a)))

/-- R62, R66–R70, R261, R334, R335: the steps of a page's move: the first invalidation, the copy, the entry's rewriting, the second
invalidation, the old frame to the release ring, each after the last; a hint to map loads the translation into its core's cache; a
tile appended stands at the count's index before the count advances; a full list is launch fault 0x37; the children of an open
tile are issued as one task, once every tile that was sent has been appended. A front end that waits with a record makes no step. -/
def Obligations.PageAndTileEvents : Prop :=
  (∀ s f, waiting s (.fe f) = true → exec (.pageMove f) s = .next s) ∧
  (∀ s f j, (getFe s f).job = some j → waiting s (.fe f) = false →
    (j.inv = true ∨ j.full = true → exec (.pageMove f) s = .next s) ∧
    (j.inv = false → j.full = false →
      (j.step = 1 ∨ j.step = 4 →
        ∃ t, exec (.pageMove f) s = .next t ∧ t.mem = s.mem ∧ (getFe t f).job = some { j with step := j.step + 1, inv := true } ∧
          t.invs = s.invs ++ [⟨4 + f, j.asid, 0, BitVec.ofNat 64 j.va, s.epoch⟩] ∧
          ∀ u x, x ∈ mget [] t.tlbs u ↔
            x ∈ mget [] s.tlbs u ∧ ¬ (x.asid = j.asid ∧ x.page / 2 ^ x.lg = j.va / 2 ^ x.lg)) ∧
      (j.step = 2 → j.disp ≠ 2 → Memory.wf s.mem = true →
        ∃ t, exec (.pageMove f) s = .next t ∧ (getFe t f).job = some { j with step := 3 } ∧
          ∀ a, memByte t.mem a = if j.frame ≤ a ∧ a < j.frame + 2 ^ j.lg then memByte s.mem (peFrame j.ent + (a - j.frame))
            else memByte s.mem a) ∧
      (j.step = 2 → j.disp = 2 → Memory.wf s.mem = true → j.frame + 2 ^ j.lg ≤ 0x2000000000 →
        (∀ d < 4, peFrame j.ent + 2 ^ j.lg ≤ j.frame + d * 0x2000000000 ∨ j.frame + d * 0x2000000000 + 2 ^ j.lg ≤ peFrame j.ent) →
        ∃ t, exec (.pageMove f) s = .next t ∧ (getFe t f).job = some { j with step := 3 } ∧
          (∀ d < 4, ∀ k < 2 ^ j.lg, memByte t.mem (j.frame + d * 0x2000000000 + k) = memByte s.mem (peFrame j.ent + k)) ∧
          ∀ a, (∀ d < 4, a < j.frame + d * 0x2000000000 ∨ j.frame + d * 0x2000000000 + 2 ^ j.lg ≤ a) →
            memByte t.mem a = memByte s.mem a) ∧
      (j.step = 3 →
        ∃ t, exec (.pageMove f) s = .next t ∧ (getFe t f).job = some { j with step := 4 } ∧
          t.mem = memWrite s.mem j.entPa 8 (movedEntry j)) ∧
      (j.step = 5 →
        (∀ e, releaseFrame s f (peFrame j.ent) (if peRepl j.ent then 2 else if j.lg = 12 then 0 else 1) = some e →
          ∃ t, exec (.pageMove f) s = .next t ∧ t.mem = e.mem ∧ (getFe t f).job = none) ∧
        (releaseFrame s f (peFrame j.ent) (if peRepl j.ent then 2 else if j.lg = 12 then 0 else 1) = none →
          ∃ t, exec (.pageMove f) s = .next t ∧ t.mem = s.mem ∧ (getFe t f).job = some { j with step := 6, full := true })))) ∧
  (∀ s f,
    ((∀ j, (getFe s f).job = some j → j.full = false) → exec (.releaseRingRoom f) s = .next s) ∧
    (∀ j e, (getFe s f).job = some j → j.full = true → j.inv = false → j.step = 6 →
      releaseFrame s f (peFrame j.ent) (if peRepl j.ent then 2 else if j.lg = 12 then 0 else 1) = some e →
      ∃ t, exec (.releaseRingRoom f) s = .next t ∧ t.mem = e.mem ∧ (getFe t f).job = none)) ∧
  (∀ s core,
    ((getCore s core).hints = [] → exec (.mhintRequest core) s = .next s) ∧
    (∀ h rest e lg ent s', (getCore s core).hints = h :: rest → (getFe s (ctxPart s (dieOf core) h.asid.toNat)).job = none →
      waiting s (.fe (ctxPart s (dieOf core) h.asid.toNat)) = false → h.code = 3 →
      h.pos < h.len → h.va + h.pos < 2 ^ 57 → pageEntry s h.asid.toNat (h.va + h.pos) = (some (e, lg, ent), s') → core < 512 →
      ∃ t, exec (.mhintRequest core) s = .next t ∧ t.mem = s.mem ∧
        (mget [] t.tlbs core).head? = some ⟨h.asid, (h.va + h.pos) / 2 ^ lg * 2 ^ lg, lg, BitVec.ofNat 64 e⟩ ∧
        (h.va + h.len ≤ (h.va + h.pos) / 2 ^ lg * 2 ^ lg + 2 ^ lg → (getCore t core).hints = rest))) ∧
  (∀ s f x rest l pa pe lg cls lg' cls', (getFe s f).tiles = x :: rest → getLaunch s f x.lslot = some l → (getFe s f).tileWait = none →
    l.phase ≠ .faulted → waiting s (.fe f) = false → s.errs = [] → feTr s (lctx l) .store 8 (lrec l 240 8) true = .ok pa lg cls →
    (memRead s.mem pa 8 < 2 ^ lrec l 234 1 →
      feTr s (lctx l) .store 8 (lrec l 240 8 + 64 + 8 * memRead s.mem pa 8) true = .ok pe lg' cls' → (pe + 8 ≤ pa ∨ pa + 8 ≤ pe) →
      ∃ t, exec (.boundsTileAppend f) s = .next t ∧
        t.mem = memWrite (memWrite s.mem pe 8 (Machine.entryOf x)) pa 8 (memRead s.mem pa 8 + 1) ∧ (getFe t f).tiles = rest ∧
        ∃ m, getLaunch t f x.lslot = some m ∧ m = { l with list := l.list ++ [Machine.entryOf x], seen := m.seen }) ∧
    (2 ^ lrec l 234 1 ≤ memRead s.mem pa 8 → s.banks = [] →
      ∃ t m, exec (.boundsTileAppend f) s = .next t ∧ t.mem = s.mem ∧ getLaunch t f x.lslot = some m ∧ m.phase = .faulted ∧
        m.noAdd = true ∧ (getFe t f).tiles = (x :: rest).filter (fun y => y.lslot != x.lslot) ∧
        t.rep = (post s (.fe f) 0x37 2 (if l.rcd = 0 then l.asid.toNat else lctx l) 0 (locFe f) l.va.toNat (launchNum f x.lslot)).rep)) ∧
  (∀ s f x rest l, (getFe s f).tiles = x :: rest → getLaunch s f x.lslot = some l → l.phase = .faulted →
    exec (.boundsTileAppend f) s = .next (setFe s f { getFe s f with tiles := rest })) ∧
  (∀ s f slot l, getLaunch s f slot = some l →
    (l.list.drop l.child = [] → exec (.boundsTaskIssue f slot) s = .next s) ∧
    (∀ e, l.list.drop l.child = [e] → entPt e = false → l.childIx = 0 → l.phase = .active → l.ntasks = 0 → Unplaced s f → waiting s (.fe f) = false →
      (getFe s f).staging = [] →
      (tilesPending s f slot = true → exec (.boundsTaskIssue f slot) s = .next s) ∧
      (tilesPending s f slot = false →
      ∃ t, exec (.boundsTaskIssue f slot) s = .next t ∧
        getLaunch t f slot = some { l with child := l.child + 1, childIx := 0, ntasks := 1 } ∧
        (getFe t f).held = (getFe s f).held ++
          [{ id := s.nextUid, rcd := boundsRecord f slot l l.child 4 1 false, q := (lflag l 4).toNat, unit := s.nextUid }])))

namespace Sys2Proof

/-! ## Steps, decoding, reset, what every step keeps -/

/-- `s` goes on with the next instruction of the strand of `c`, in the state `u`: its turn has come, or nothing else is due and it issues
next, and no record of its own holds it. -/
def Begins (s u : State) (c : Ctx) : Prop :=
  curCtx u = some c ∧ curWaits u = false ∧
  ∃ core slot sid rest g x port, (s.agenda = .issue core slot sid :: rest ∨ (s.agenda = [] ∧ rest = [] ∧ nextOf s = .issue core slot sid)) ∧
    getGroup s core slot = some g ∧ findStrand g sid = some x ∧ x.status = .running port ∧
    u = { s with agenda := rest, cur := some (core, slot, sid) }

/-- What a step makes of the instruction `i` of the strand of `c`, fetched in the state `e`: it is executed in its cycle, or its strand
waits for that cycle because something of its core comes before it (R129, R130, R271). -/
def Runs (i : Instr) (c : Ctx) (s e : State) : Prop :=
  (issuesNow e c i = true → step s = exec i (atCycle e c (dueCycle e c i))) ∧
  (issuesNow e c i = false → step s = .next (waitTo e c (dueCycle e c i)))

/-- What a step makes of words of the strand of `c` that do not decode, fetched in the state `e`: once what the strand has issued has
completed its effects it takes the trap of cause 1, and until then it waits at the address of the words (R39, R40). -/
def Rejects (w : Word) (c : Ctx) (s e : State) : Prop :=
  (∀ e2 h, settled e c.g c.st = true → HandlerAt e c 1 e2 h →
    ∃ t c', step s = .next t ∧ Trapped c c.g e2 t 1 0 (w.setWidth 64) c.st.pc h c') ∧
  (settled e c.g c.st = false → ∃ t c', step s = .next t ∧ ctxAt t c.core c.slot c.st.sid = some c' ∧ t.mem = e.mem ∧
    c'.st.status = .parked (.settle 1 w) ∧ c'.st.pc = c.st.pc ∧ c'.st.hnd = c.st.hnd ∧ NoRegs c.g c'.g)

/-- The word of code at `va` is `w`, and `e` is the state after its fetch. -/
def Fetches (s : State) (c : Ctx) (va : Dword) (w : Word) (e : State) : Prop :=
  ∃ pa dev go, translate s c.core (dieOf c.core) c.g.ctx.toNat .fetch 4 va.toNat false = (.ok pa dev go, e) ∧
    w = BitVec.ofNat 32 (memRead e.mem pa 4)

/-- The bytes of an instruction as code memory holds them (R10). -/
def codeBytes (i : Instr) : List Byte := (encode i).flatMap fun w => bytesOf 4 w.toNat

end Sys2Proof

/-- R10, R11, R19, R39, R40, R63: a step of a strand's run is `exec` of the instruction that the one or two words at its PC decode to,
in the state after their fetch. Words that do not decode take the trap of cause 1 with VALUE the first word and EPC its address. A step
whose turn is an event is `exec` of that event where it happens, a turn of the resident kernel signals a vector of a VF (R363), and with
no turn due what is earliest in the tick comes next, the tick last. The turns, that order, the wait for the strand's cycle and for its
effects are the model's own (log entries 2, 4, 40 and 47, DESIGN CHOICE and DEDUCED), as is what an event of an idle unit leaves (5). -/
def Obligations.StepRunsInstruction : Prop :=
  ((∀ s u c w e i, Begins s u c → Fetches u c c.pc0 w e → twoWord w = false → decodeWords w 0 = .instr i 4 → Runs i c s e) ∧
  (∀ s u c w l e e' i, Begins s u c → Fetches u c c.pc0 w e → twoWord w = true → Fetches e c (c.pc0 + 4) l e' →
    decodeWords w l = .instr i 8 → Runs i c s e') ∧
  (∀ s u c w e r, Begins s u c → Fetches u c c.pc0 w e → twoWord w = false → decodeWords w 0 = .reject r → Rejects w c s e) ∧
  (∀ s u c w l e e' r, Begins s u c → Fetches u c c.pc0 w e → twoWord w = true → Fetches e c (c.pc0 + 4) l e' →
    decodeWords w l = .reject r → Rejects w c s e')) ∧
  (∀ s i rest, s.agenda = .event i :: rest →
    (happens { s with agenda := rest } i = true → step s = exec i { s with agenda := rest }) ∧
    (happens { s with agenda := rest } i = false → step s = .next { s with agenda := rest })) ∧
  (∀ s vf vector rest, s.agenda = .signal vf vector :: rest → s.powered = true → 1 ≤ vf → vf ≤ 512 → 1 ≤ vector → vector ≤ 3 →
    step s = .next { s with agenda := rest, mg := { s.mg with msix := s.mg.msix ++ [(vf, vector)] } }) ∧
  (∀ s core port, s.agenda = [] → nextOf s = .arbitrate core port → step s = exec (.portArbitration core port) s) ∧
  (∀ s, s.agenda = [] → nextOf s = .tick → step s = exec .tick s)

/-- R10, R12, R13, R19, R24, R33–R37: words of the manual's own examples decode to the instructions that it gives for them, and
words with an unassigned opcode, an unassigned minor or a field that the form does not use are rejected. -/
def Obligations.DecodeSanity : Prop :=
  decodeWords 0x01014173 0 = .instr (.iadd ⟨false, 0, 5, 2, 115, 0⟩) 4 ∧
  decodeWords 0x55C204F2 0x3FC00000 = .instr (.ffma ⟨true, 2, 8, 9, 114, 0x3FC00000⟩) 8 ∧
  decodeWords 0x8F1C3FFB 0 = .instr (.kaddi ⟨false, 7, 3, 63, 59⟩) 4 ∧
  decodeWords 0xD5A00006 9 = .instr (.brd ⟨true, 10, 6, 9⟩) 8 ∧
  decodeWords 0x35020182 0 = .instr (.ldoQ ⟨false, 0, 8, 3, 2, 0⟩) 4 ∧
  decodeWords 0x0F098184 0 = .instr (.icmp ⟨false, 0, 2, 6, 3, 4, 0⟩) 4 ∧
  decodeWords 0x82101234 0 = .instr (.klit ⟨false, 4, 0, 0x1234⟩) 4 ∧
  decodeWords 0xBF0020C7 0 = .instr (.oswap ⟨false, 0, 2, 3, 7⟩) 4 ∧
  decodeWords 0x1F800000 0 = .reject .reservedOpcode ∧
  decodeWords 0xBE000000 0 = .reject .reservedOpcode ∧
  decodeWords 0xBF00000B 0 = .reject .reservedOpcode ∧
  decodeWords 0x00800001 0 = .reject .unusedField ∧
  decodeWords 0x00000001 0 = .reject .unusedField ∧
  decode [0x73, 0x41, 0x01, 0x01] = .instr (.iadd ⟨false, 0, 5, 2, 115, 0⟩) 4 ∧
  decode [0x73, 0x41, 0x01] = .reject .short

/-- R3, R44, R47–R52, R56, R62, R99, R208, R209, R256, R264, R271, R280, R283, R285, R286, R293, R298, R362, R364–R366, R370, R373:
at reset TIME is 0, every register reads as the Reset column of its map gives, every granule of the columns and every unit of the
Carillons is free, and a port's pointer is 255. -/
def Obligations.ResetValues : Prop :=
  State.reset.time = 0 ∧
  (∀ d, d < 4 →
    (∀ p ∈ [(0x0000, 0), (0x0008, 0), (0x0018, 2 ^ 58), (0x0020, 2 ^ 37), (0x1008, 0), (0x1010, 0), (0x1018, 0), (0x1020, 0),
        (0x1028, 0), (0x2100, 0x0002040220040201), (0x2108, 64), (0x2200, 0), (0x2208, 0)],
      registerRead State.reset (0xE0000000000 + 0x400000 * d + p.1) 8 = BitVec.ofNat 64 p.2) ∧
    (∀ p ∈ [(0x0010, 2 ^ 17), (0x1000, 16), (0x1030, 2 ^ 9)],
      registerRead State.reset (0xE0000000000 + 0x400000 * d + p.1) 4 = BitVec.ofNat 64 p.2) ∧
    (∀ n, n < 256 → registerRead State.reset (0xE0000000000 + 0x400000 * d + 0x2000 + n) 1 = 1) ∧
    (∀ n, n < 8 →
      registerRead State.reset (0xE0000000000 + 0x400000 * d + 0x6000 + 32 * n) 8 = 0 ∧
      registerRead State.reset (0xE0000000000 + 0x400000 * d + 0x6008 + 32 * n) 4 = 0x00040000 ∧
      registerRead State.reset (0xE0000000000 + 0x400000 * d + 0x6010 + 32 * n) 8 = 0) ∧
    (∀ n, n < 32 → registerRead State.reset (0xE0000000000 + 0x400000 * d + 0x6100 + 8 * n) 8 = 0x20) ∧
    (∀ n, n < 256 → ∀ i, i < 7 → registerRead State.reset (0xE0000000000 + 0x400000 * d + 0xA000 + 64 * n + 8 * i) 8 =
      if i = 6 then 4 else 0) ∧
    (∀ n, n < 0x10000 → registerRead State.reset (0xE0000000000 + 0x400000 * d + 0x100000 + n) 1 = 0) ∧
    (∀ n, n < 0x40000 → registerRead State.reset (0xE0000000000 + 0x400000 * d + 0x200000 + n) 1 = 0) ∧
    (∀ o, o < 0x2800 → o % 8 = 0 → 8 ≤ o % 64 → registerRead State.reset (0xC0000000000 + 0x100000 * d + o) 8 = 0) ∧
    (∀ o, o < 0x2800 → o % 4 = 0 → o % 64 < 8 → registerRead State.reset (0xC0000000000 + 0x100000 * d + o) 4 = 0)) ∧
  (∀ f, f < 32 →
    (∀ o ∈ [0x00, 0x08, 0x20, 0x28], registerRead State.reset (0xE0000008000 + 64 * f + o) 8 = 0) ∧
    registerRead State.reset (0xE0000008000 + 64 * f + 0x18) 4 = 0) ∧
  registerRead State.reset 0xE0000008900 8 = 0 ∧ registerRead State.reset 0xE0000008908 8 = 0x144 ∧
  registerRead State.reset 0xF0000000000 4 = BitVec.ofNat 64 (2600 * 2 ^ 16) ∧
  (∀ d, d < 4 → registerRead State.reset (0xF0000000010 + 8 * d) 8 = BitVec.ofNat 64 (64 * 2 ^ 16)) ∧
  registerRead State.reset 0xF0000000030 4 = BitVec.ofNat 64 (95 * 2 ^ 8) ∧
  (registerRead State.reset 0xF0000000040 4).toNat % 4 = 0 ∧
  (∀ w, w < 64 → ∀ i, i < 4 → registerRead State.reset (0xF0000001000 + 32 * w + 8 * i) 8 = 0) ∧
  (∀ core g, mget .free (getCore State.reset core).col.tags g = .free) ∧
  (∀ pa, (getUnit State.reset pa).kind = .free) ∧
  (∀ core p, (mget {} (getCore State.reset core).ports p).ptr = 255)

/-- The model's own form of memory (R5, R43, log entry 1): after reset no address is listed out of order, twice, or with what an
unlisted address reads as. -/
def Obligations.InvAtReset : Prop := Sys2Proof.Inv State.reset

/-- The model's own form of memory (log entry 1): every step, of an instruction or of an event, from every state in which memory is in
canonical form leaves it in canonical form. -/
def Obligations.InvKept : Prop := ∀ s t, Sys2Proof.Inv s → Steps s t → Sys2Proof.Inv t

/-- R10, R12–R19, R24–R29, R33–R37: for every well-formed encoded instruction and whatever follows it, its bytes decode to it and to
its length; and every word that decodes at all is the first word of the encoding of the instruction it decodes to, with the second
where R29 gives one, and passes the checks of unused fields (the others are made at issue, R39). -/
def Obligations.DecodeEncode : Prop :=
  (∀ i rest, isEncoded i = true → wellFormed i = true → decode (codeBytes i ++ rest) = .instr i (instrLen i)) ∧
  (∀ w l i n, decodeWords w l = .instr i n →
    encode i = (if twoWord w then [w, l] else [w]) ∧ n = instrLen i ∧ litOk i = true ∧ fixedOk i = true)
end

