-- ==== Sys2Proof/Laws/Maps.lean ====
section
/-! SUPPORT. Laws of the sparse maps and of memory: reads after writes, and the canonical form that every memory operation
keeps. -/

namespace Sys2Proof.Machine

/-! ## Reads after writes -/

theorem mget_eq {α : Type} (d : α) (m : AMap α) (k : Nat) : mget d m k = (mfind m k).getD d := by
  induction m with
  | nil => rfl
  | cons e t ih => simp only [mget, mfind]; split <;> simp_all

theorem mfind_mdel_same {α : Type} (m : AMap α) (k : Nat) : mfind (mdel m k) k = none := by
  induction m with
  | nil => rfl
  | cons e t ih => simp only [mdel]; split <;> simp_all [mfind]

theorem mfind_mdel_ne {α : Type} (m : AMap α) {k j : Nat} (h : j ≠ k) : mfind (mdel m k) j = mfind m j := by
  induction m with
  | nil => rfl
  | cons e t ih => simp only [mdel]; split <;> simp_all [mfind]

theorem mfind_mdel {α : Type} (m : AMap α) (k j : Nat) : mfind (mdel m k) j = if j = k then none else mfind m j := by
  split
  · subst_vars; exact mfind_mdel_same m _
  · exact mfind_mdel_ne m ‹_›

theorem mfind_mins_same {α : Type} (m : AMap α) (k : Nat) (v : α) (h : mfind m k = none) :
    mfind (mins k v m) k = some v := by
  induction m with
  | nil => simp [mins, mfind]
  | cons e t ih =>
    simp only [mins]
    split
    · simp [mfind]
    · simp only [mfind] at h ⊢; split at h <;> simp_all

theorem mfind_mins_ne {α : Type} (m : AMap α) {k j : Nat} (v : α) (h : j ≠ k) : mfind (mins k v m) j = mfind m j := by
  induction m with
  | nil => simp [mins, mfind, h]
  | cons e t ih =>
    simp only [mins]
    split
    · simp [mfind, h]
    · simp only [mfind]; split <;> simp_all

theorem mfind_mput {α : Type} (m : AMap α) (k j : Nat) (v : α) :
    mfind (mput m k v) j = if j = k then some v else mfind m j := by
  unfold mput
  split
  · subst_vars; exact mfind_mins_same _ _ _ (mfind_mdel_same _ _)
  · rw [mfind_mins_ne _ _ ‹_›, mfind_mdel_ne _ ‹_›]

@[simp] theorem mfind_mput_same {α : Type} (m : AMap α) (k : Nat) (v : α) : mfind (mput m k v) k = some v := by
  simp [mfind_mput]

theorem mget_mput {α : Type} (d : α) (m : AMap α) (k j : Nat) (v : α) :
    mget d (mput m k v) j = if j = k then v else mget d m j := by
  simp only [mget_eq, mfind_mput]; split <;> rfl

@[simp] theorem mget_mput_same {α : Type} (d : α) (m : AMap α) (k : Nat) (v : α) : mget d (mput m k v) k = v := by
  simp [mget_mput]

theorem mget_mdel {α : Type} (d : α) (m : AMap α) (k j : Nat) :
    mget d (mdel m k) j = if j = k then d else mget d m j := by
  simp only [mget_eq, mfind_mdel]; split <;> rfl

theorem mget_mset {α : Type} [DecidableEq α] (d : α) (m : AMap α) (k j : Nat) (v : α) :
    mget d (mset d m k v) j = if j = k then v else mget d m j := by
  unfold mset
  split
  · subst_vars; rw [mget_mdel]
  · rw [mget_mput]

@[simp] theorem mget_mset_same {α : Type} [DecidableEq α] (d : α) (m : AMap α) (k : Nat) (v : α) :
    mget d (mset d m k v) k = v := by simp [mget_mset]

@[simp] theorem mget_nil {α : Type} (d : α) (k : Nat) : mget d [] k = d := rfl
@[simp] theorem mfind_nil {α : Type} (k : Nat) : mfind ([] : AMap α) k = none := rfl

/-- A fold of writes at distinct keys reads back each value, and the map elsewhere. -/
theorem mget_foldl_mset {α β : Type} [DecidableEq α] (d : α) (key : β → Nat) (val : β → α) (l : List β) (m : AMap α)
    (j : Nat) (hj : ∀ b ∈ l, key b ≠ j) :
    mget d (l.foldl (fun m b => mset d m (key b) (val b)) m) j = mget d m j := by
  induction l generalizing m with
  | nil => rfl
  | cons b t ih =>
    simp only [List.foldl_cons]
    rw [ih _ (fun x hx => hj x (List.mem_cons_of_mem _ hx)), mget_mset]
    rw [if_neg (fun h => hj b (List.mem_cons_self ..) h.symm)]

/-! ## The canonical form -/

/-- The same form said of every pair of entries: no default, keys pairwise ascending. -/
theorem mwf_iff {α : Type} [DecidableEq α] (d : α) (m : AMap α) :
    mwf d m = true ↔ (∀ e ∈ m, e.2 ≠ d) ∧ m.Pairwise (fun x y => x.1 < y.1) := by
  induction m with
  | nil => simp [mwf]
  | cons e t ih =>
    cases t with
    | nil => simp [mwf]
    | cons f u =>
      simp only [mwf, Bool.and_eq_true, decide_eq_true_eq, ih]
      simp only [List.pairwise_cons, List.mem_cons, forall_eq_or_imp]
      constructor
      · rintro ⟨⟨h1, h2⟩, ⟨h3, h4⟩, h5, h6⟩
        exact ⟨⟨h1, h3, h4⟩, ⟨h2, fun a ha => lt_trans h2 (h5 a ha)⟩, h5, h6⟩
      · rintro ⟨⟨h1, h3, h4⟩, ⟨h2, _⟩, h5, h6⟩
        exact ⟨⟨h1, h2⟩, ⟨h3, h4⟩, h5, h6⟩

theorem mem_mdel {α : Type} {m : AMap α} {k : Nat} {e : Nat × α} : e ∈ mdel m k ↔ e ∈ m ∧ e.1 ≠ k := by
  induction m with
  | nil => simp [mdel]
  | cons f t ih =>
    simp only [mdel]
    split
    · simp only [ih, List.mem_cons]
      constructor
      · rintro ⟨h, h'⟩; exact ⟨.inr h, h'⟩
      · rintro ⟨rfl | h, h'⟩
        · exact absurd ‹_› (Ne.symm h')
        · exact ⟨h, h'⟩
    · simp only [List.mem_cons, ih]
      constructor
      · rintro (rfl | ⟨h, h'⟩)
        · exact ⟨.inl rfl, Ne.symm ‹_›⟩
        · exact ⟨.inr h, h'⟩
      · rintro ⟨rfl | h, h'⟩
        · exact .inl rfl
        · exact .inr ⟨h, h'⟩

theorem mem_mins {α : Type} {m : AMap α} {k : Nat} {v : α} {e : Nat × α} : e ∈ mins k v m ↔ e = (k, v) ∨ e ∈ m := by
  induction m with
  | nil => simp [mins]
  | cons f t ih =>
    simp only [mins]
    split
    · simp
    · simp only [List.mem_cons, ih]; tauto

theorem pairwise_mdel {α : Type} {m : AMap α} {k : Nat} (h : m.Pairwise (fun x y => x.1 < y.1)) :
    (mdel m k).Pairwise (fun x y => x.1 < y.1) := by
  induction m with
  | nil => exact h
  | cons f t ih =>
    rw [List.pairwise_cons] at h
    simp only [mdel]
    split
    · exact ih h.2
    · exact List.pairwise_cons.mpr ⟨fun a ha => h.1 a (mem_mdel.mp ha).1, ih h.2⟩

theorem pairwise_mins {α : Type} {m : AMap α} {k : Nat} {v : α} (h : m.Pairwise (fun x y => x.1 < y.1))
    (hk : ∀ e ∈ m, e.1 ≠ k) : (mins k v m).Pairwise (fun x y => x.1 < y.1) := by
  induction m with
  | nil => simp [mins]
  | cons f t ih =>
    rw [List.pairwise_cons] at h
    simp only [mins]
    split
    · refine List.pairwise_cons.mpr ⟨?_, List.pairwise_cons.mpr h⟩
      intro a ha
      rcases List.mem_cons.mp ha with rfl | ha
      · assumption
      · exact lt_trans ‹_› (h.1 a ha)
    · refine List.pairwise_cons.mpr ⟨?_, ih h.2 (fun e he => hk e (List.mem_cons_of_mem _ he))⟩
      intro a ha
      rcases mem_mins.mp ha with rfl | ha
      · have := hk f (List.mem_cons_self ..)
        show f.1 < k
        omega
      · exact h.1 a ha

theorem mwf_mdel {α : Type} [DecidableEq α] {d : α} {m : AMap α} (k : Nat) (h : mwf d m = true) :
    mwf d (mdel m k) = true := by
  rw [mwf_iff] at h ⊢
  exact ⟨fun e he => h.1 e (mem_mdel.mp he).1, pairwise_mdel h.2⟩

theorem mwf_mput {α : Type} [DecidableEq α] {d : α} {m : AMap α} (k : Nat) {v : α} (hv : v ≠ d) (h : mwf d m = true) :
    mwf d (mput m k v) = true := by
  rw [mwf_iff] at h ⊢
  refine ⟨fun e he => ?_, pairwise_mins (pairwise_mdel h.2) fun e he => (mem_mdel.mp he).2⟩
  rcases mem_mins.mp he with rfl | he
  · exact hv
  · exact h.1 e (mem_mdel.mp he).1

theorem mwf_mset {α : Type} [DecidableEq α] {d : α} {m : AMap α} (k : Nat) (v : α) (h : mwf d m = true) :
    mwf d (mset d m k v) = true := by
  unfold mset
  split
  · exact mwf_mdel k h
  · exact mwf_mput k ‹_› h

theorem mwf_filter {α : Type} [DecidableEq α] {d : α} {m : AMap α} (f : Nat × α → Bool) (h : mwf d m = true) :
    mwf d (m.filter f) = true := by
  rw [mwf_iff] at h ⊢
  exact ⟨fun e he => h.1 e (List.mem_filter.mp he).1, h.2.filter f⟩

/-- Two canonical maps that read alike are the same data. -/
theorem mwf_ext {α : Type} [DecidableEq α] {d : α} {m n : AMap α} (hm : mwf d m = true) (hn : mwf d n = true)
    (h : ∀ k, mget d m k = mget d n k) : m = n := by
  rw [mwf_iff] at hm hn
  have get : ∀ {l : AMap α}, l.Pairwise (fun x y => x.1 < y.1) → ∀ e ∈ l, mget d l e.1 = e.2 := by
    intro l hl
    induction l with
    | nil => intro e he; cases he
    | cons f t ih =>
      intro e he
      rw [List.pairwise_cons] at hl
      rcases List.mem_cons.mp he with rfl | he
      · simp [mget]
      · rw [mget, if_neg (by have := hl.1 e he; omega)]
        exact ih hl.2 e he
  have find : ∀ {l : AMap α} {k : Nat}, mget d l k ≠ d → ∃ e ∈ l, e.1 = k := by
    intro l k
    induction l with
    | nil => intro h; exact absurd rfl h
    | cons f t ih =>
      intro h
      by_cases hk : k = f.1
      · exact ⟨f, List.mem_cons_self .., hk.symm⟩
      · rw [mget, if_neg hk] at h
        obtain ⟨e, he, hh⟩ := ih h
        exact ⟨e, List.mem_cons_of_mem _ he, hh⟩
  have sub : ∀ {l r : AMap α}, (∀ e ∈ l, e.2 ≠ d) → l.Pairwise (fun x y => x.1 < y.1) →
      r.Pairwise (fun x y => x.1 < y.1) → (∀ k, mget d l k = mget d r k) → ∀ e ∈ l, e ∈ r := by
    intro l r hd hl hr h e he
    have h1 := get hl e he
    obtain ⟨x, hx, hk⟩ := find (l := r) (k := e.1) (by rw [← h, h1]; exact hd e he)
    have h2 := get hr x hx
    rw [hk, ← h, h1] at h2
    rw [show e = x from Prod.ext hk.symm h2]
    exact hx
  have asym : ∀ {l r : AMap α}, l.Pairwise (fun x y => x.1 < y.1) → r.Pairwise (fun x y => x.1 < y.1) →
      (∀ e, e ∈ l ↔ e ∈ r) → l = r := by
    intro l r hl hr h
    exact List.Perm.eq_of_pairwise (le := fun x y : Nat × α => x.1 < y.1)
      (fun a b _ _ h1 h2 => absurd (lt_trans h1 h2) (lt_irrefl _)) hl hr
      ((List.perm_ext_iff_of_nodup (hl.imp fun h e => by subst e; exact lt_irrefl _ h)
        (hr.imp fun h e => by subst e; exact lt_irrefl _ h)).mpr h)
  exact asym hm.2 hn.2 fun e =>
    ⟨sub hm.1 hm.2 hn.2 h e, sub hn.1 hn.2 hm.2 (fun k => (h k).symm) e⟩

/-! ## Memory -/

theorem memByte_memPut (m : List Host.Cell) (a b : Nat) (v : Byte) :
    memByte (memPut m a v) b = if b = a then v else memByte m b := mget_mset _ _ _ _ _

/-- A write leaves every byte outside its range as it was. -/
theorem memByte_memWrite_out (m : List Host.Cell) (a n v b : Nat) (h : b < a ∨ a + n ≤ b) :
    memByte (memWrite m a n v) b = memByte m b := by
  induction n generalizing m a v with
  | zero => rfl
  | succ n ih =>
    simp only [memWrite]
    rw [ih _ _ _ (by omega), memByte_memPut, if_neg (by omega)]

/-- Byte `i` of a write is byte `i` of its value. -/
theorem memByte_memWrite_in (m : List Host.Cell) (a n v i : Nat) (h : i < n) :
    memByte (memWrite m a n v) (a + i) = BitVec.ofNat 8 (v / 256 ^ i) := by
  induction n generalizing m a v i with
  | zero => omega
  | succ n ih =>
    simp only [memWrite]
    cases i with
    | zero => rw [memByte_memWrite_out _ _ _ _ _ (by omega), memByte_memPut]; simp
    | succ i =>
      have e : a + (i + 1) = a + 1 + i := by omega
      rw [e, ih _ _ _ i (by omega), Nat.div_div_eq_div_mul, pow_succ']

theorem readLE_lt (f : Nat → Byte) (a n : Nat) : readLE f a n < 256 ^ n := by
  induction n generalizing a with
  | zero => simp [readLE]
  | succ n ih =>
    have h1 := (f a).isLt
    have h2 := ih (a + 1)
    have e : 256 ^ (n + 1) = 256 * 256 ^ n := by rw [pow_succ']
    simp only [readLE]
    omega

theorem readLE_congr {f g : Nat → Byte} {a n : Nat} (h : ∀ b, a ≤ b → b < a + n → f b = g b) :
    readLE f a n = readLE g a n := by
  induction n generalizing a with
  | zero => rfl
  | succ n ih =>
    simp only [readLE]
    rw [h a (by omega) (by omega), ih (fun b h1 h2 => h b (by omega) (by omega))]

/-- A read of what has been written, modulo its width. -/
theorem memRead_memWrite (m : List Host.Cell) (a n v : Nat) : memRead (memWrite m a n v) a n = v % 256 ^ n := by
  unfold memRead
  induction n generalizing m a v with
  | zero => simp [readLE, Nat.mod_one]
  | succ n ih =>
    simp only [readLE, memWrite]
    rw [memByte_memWrite_out _ _ _ _ _ (by omega), memByte_memPut, if_pos rfl]
    rw [ih, BitVec.toNat_ofNat, pow_succ' 256 n, Nat.mod_mul]

/-- A read of a range that a write does not touch. -/
theorem memRead_memWrite_out (m : List Host.Cell) (a n v b k : Nat) (h : b + k ≤ a ∨ a + n ≤ b) :
    memRead (memWrite m a n v) b k = memRead m b k :=
  readLE_congr fun x h1 h2 => memByte_memWrite_out _ _ _ _ _ (by omega)

theorem Memory.wf_memPut {m : List Host.Cell} (a : Nat) (v : Byte) (h : Memory.wf m = true) : Memory.wf (memPut m a v) = true :=
  mwf_mset a v h

/-- Every write keeps the canonical form. -/
theorem Memory.wf_memWrite {m : List Host.Cell} (a n v : Nat) (h : Memory.wf m = true) :
    Memory.wf (memWrite m a n v) = true := by
  induction n generalizing m a v with
  | zero => exact h
  | succ n ih => exact ih _ _ (Memory.wf_memPut _ _ h)

theorem Memory.wf_filter {m : List Host.Cell} (f : Host.Cell → Bool) (h : Memory.wf m = true) :
    Memory.wf (m.filter f) = true := mwf_filter f h

theorem Memory.wf_foldl {β : Type} (f : List Host.Cell → β → List Host.Cell)
    (hf : ∀ m b, Memory.wf m = true → Memory.wf (f m b) = true) (l : List β) {m : List Host.Cell}
    (h : Memory.wf m = true) : Memory.wf (l.foldl f m) = true := by
  induction l generalizing m with
  | nil => exact h
  | cons b t ih => exact ih (hf _ _ h)

end Sys2Proof.Machine
end

