-- ==== Sys2Proof/Laws/State.lean ====
section
/-! SUPPORT. One lemma per field per update of the state, each true by its definition, and the reads of each part after a write of any. -/

namespace Sys2Proof.Machine

/-! ## setDie -/

@[simp] theorem setDie_time (s : State) (d : Nat) (x : Die) : (setDie s d x).time = s.time := rfl
@[simp] theorem setDie_clk (s : State) (d : Nat) (x : Die) : (setDie s d x).clk = s.clk := rfl
@[simp] theorem setDie_powered (s : State) (d : Nat) (x : Die) : (setDie s d x).powered = s.powered := rfl
@[simp] theorem setDie_mem (s : State) (d : Nat) (x : Die) : (setDie s d x).mem = s.mem := rfl
@[simp] theorem setDie_hist (s : State) (d : Nat) (x : Die) : (setDie s d x).hist = s.hist := rfl
@[simp] theorem setDie_pub (s : State) (d : Nat) (x : Die) : (setDie s d x).pub = s.pub := rfl
@[simp] theorem setDie_units (s : State) (d : Nat) (x : Die) : (setDie s d x).units = s.units := rfl
@[simp] theorem setDie_dies (s : State) (d : Nat) (x : Die) : (setDie s d x).dies = mput s.dies d x := rfl
@[simp] theorem setDie_cores (s : State) (d : Nat) (x : Die) : (setDie s d x).cores = s.cores := rfl
@[simp] theorem setDie_groups (s : State) (d : Nat) (x : Die) : (setDie s d x).groups = s.groups := rfl
@[simp] theorem setDie_teams (s : State) (d : Nat) (x : Die) : (setDie s d x).teams = s.teams := rfl
@[simp] theorem setDie_walkers (s : State) (d : Nat) (x : Die) : (setDie s d x).walkers = s.walkers := rfl
@[simp] theorem setDie_banks (s : State) (d : Nat) (x : Die) : (setDie s d x).banks = s.banks := rfl
@[simp] theorem setDie_reown (s : State) (d : Nat) (x : Die) : (setDie s d x).reown = s.reown := rfl
@[simp] theorem setDie_fes (s : State) (d : Nat) (x : Die) : (setDie s d x).fes = s.fes := rfl
@[simp] theorem setDie_tlbs (s : State) (d : Nat) (x : Die) : (setDie s d x).tlbs = s.tlbs := rfl
@[simp] theorem setDie_invs (s : State) (d : Nat) (x : Die) : (setDie s d x).invs = s.invs := rfl
@[simp] theorem setDie_errs (s : State) (d : Nat) (x : Die) : (setDie s d x).errs = s.errs := rfl
@[simp] theorem setDie_rep (s : State) (d : Nat) (x : Die) : (setDie s d x).rep = s.rep := rfl
@[simp] theorem setDie_mg (s : State) (d : Nat) (x : Die) : (setDie s d x).mg = s.mg := rfl
@[simp] theorem setDie_agenda (s : State) (d : Nat) (x : Die) : (setDie s d x).agenda = s.agenda := rfl
@[simp] theorem setDie_cur (s : State) (d : Nat) (x : Die) : (setDie s d x).cur = s.cur := rfl
@[simp] theorem setDie_nextUid (s : State) (d : Nat) (x : Die) : (setDie s d x).nextUid = s.nextUid := rfl
@[simp] theorem setDie_ageCtr (s : State) (d : Nat) (x : Die) : (setDie s d x).ageCtr = s.ageCtr := rfl
@[simp] theorem setDie_epoch (s : State) (d : Nat) (x : Die) : (setDie s d x).epoch = s.epoch := rfl
@[simp] theorem getCore_setDie (s : State) (d : Nat) (x : Die) (k : Nat) : getCore (setDie s d x) k = getCore s k := rfl
@[simp] theorem getWalker_setDie (s : State) (d : Nat) (x : Die) (k : Nat) : getWalker (setDie s d x) k = getWalker s k := rfl
@[simp] theorem getBank_setDie (s : State) (d : Nat) (x : Die) (k : Nat) : getBank (setDie s d x) k = getBank s k := rfl
@[simp] theorem getFe_setDie (s : State) (d : Nat) (x : Die) (k : Nat) : getFe (setDie s d x) k = getFe s k := rfl
@[simp] theorem getGroup_setDie (s : State) (d : Nat) (x : Die) (i j : Nat) : getGroup (setDie s d x) i j = getGroup s i j := rfl
@[simp] theorem getTeam_setDie (s : State) (d : Nat) (x : Die) (k : Nat) : getTeam (setDie s d x) k = getTeam s k := rfl
@[simp] theorem getUnit_setDie (s : State) (d : Nat) (x : Die) (k : Nat) : getUnit (setDie s d x) k = getUnit s k := rfl
@[simp] theorem getErr_setDie (s : State) (d : Nat) (x : Die) (i j : Nat) : getErr (setDie s d x) i j = getErr s i j := rfl

/-! ## setCore -/

@[simp] theorem setCore_time (s : State) (n : Nat) (x : Core) : (setCore s n x).time = s.time := rfl
@[simp] theorem setCore_clk (s : State) (n : Nat) (x : Core) : (setCore s n x).clk = s.clk := rfl
@[simp] theorem setCore_powered (s : State) (n : Nat) (x : Core) : (setCore s n x).powered = s.powered := rfl
@[simp] theorem setCore_mem (s : State) (n : Nat) (x : Core) : (setCore s n x).mem = s.mem := rfl
@[simp] theorem setCore_hist (s : State) (n : Nat) (x : Core) : (setCore s n x).hist = s.hist := rfl
@[simp] theorem setCore_pub (s : State) (n : Nat) (x : Core) : (setCore s n x).pub = s.pub := rfl
@[simp] theorem setCore_units (s : State) (n : Nat) (x : Core) : (setCore s n x).units = s.units := rfl
@[simp] theorem setCore_dies (s : State) (n : Nat) (x : Core) : (setCore s n x).dies = s.dies := rfl
@[simp] theorem setCore_cores (s : State) (n : Nat) (x : Core) : (setCore s n x).cores = mput s.cores n x := rfl
@[simp] theorem setCore_groups (s : State) (n : Nat) (x : Core) : (setCore s n x).groups = s.groups := rfl
@[simp] theorem setCore_teams (s : State) (n : Nat) (x : Core) : (setCore s n x).teams = s.teams := rfl
@[simp] theorem setCore_walkers (s : State) (n : Nat) (x : Core) : (setCore s n x).walkers = s.walkers := rfl
@[simp] theorem setCore_banks (s : State) (n : Nat) (x : Core) : (setCore s n x).banks = s.banks := rfl
@[simp] theorem setCore_reown (s : State) (n : Nat) (x : Core) : (setCore s n x).reown = s.reown := rfl
@[simp] theorem setCore_fes (s : State) (n : Nat) (x : Core) : (setCore s n x).fes = s.fes := rfl
@[simp] theorem setCore_tlbs (s : State) (n : Nat) (x : Core) : (setCore s n x).tlbs = s.tlbs := rfl
@[simp] theorem setCore_invs (s : State) (n : Nat) (x : Core) : (setCore s n x).invs = s.invs := rfl
@[simp] theorem setCore_errs (s : State) (n : Nat) (x : Core) : (setCore s n x).errs = s.errs := rfl
@[simp] theorem setCore_rep (s : State) (n : Nat) (x : Core) : (setCore s n x).rep = s.rep := rfl
@[simp] theorem setCore_mg (s : State) (n : Nat) (x : Core) : (setCore s n x).mg = s.mg := rfl
@[simp] theorem setCore_agenda (s : State) (n : Nat) (x : Core) : (setCore s n x).agenda = s.agenda := rfl
@[simp] theorem setCore_cur (s : State) (n : Nat) (x : Core) : (setCore s n x).cur = s.cur := rfl
@[simp] theorem setCore_nextUid (s : State) (n : Nat) (x : Core) : (setCore s n x).nextUid = s.nextUid := rfl
@[simp] theorem setCore_ageCtr (s : State) (n : Nat) (x : Core) : (setCore s n x).ageCtr = s.ageCtr := rfl
@[simp] theorem setCore_epoch (s : State) (n : Nat) (x : Core) : (setCore s n x).epoch = s.epoch := rfl
@[simp] theorem getDie_setCore (s : State) (n : Nat) (x : Core) (k : Nat) : getDie (setCore s n x) k = getDie s k := rfl
@[simp] theorem getWalker_setCore (s : State) (n : Nat) (x : Core) (k : Nat) : getWalker (setCore s n x) k = getWalker s k := rfl
@[simp] theorem getBank_setCore (s : State) (n : Nat) (x : Core) (k : Nat) : getBank (setCore s n x) k = getBank s k := rfl
@[simp] theorem getFe_setCore (s : State) (n : Nat) (x : Core) (k : Nat) : getFe (setCore s n x) k = getFe s k := rfl
@[simp] theorem getGroup_setCore (s : State) (n : Nat) (x : Core) (i j : Nat) : getGroup (setCore s n x) i j = getGroup s i j := rfl
@[simp] theorem getTeam_setCore (s : State) (n : Nat) (x : Core) (k : Nat) : getTeam (setCore s n x) k = getTeam s k := rfl
@[simp] theorem getUnit_setCore (s : State) (n : Nat) (x : Core) (k : Nat) : getUnit (setCore s n x) k = getUnit s k := rfl
@[simp] theorem getErr_setCore (s : State) (n : Nat) (x : Core) (i j : Nat) : getErr (setCore s n x) i j = getErr s i j := rfl

/-! ## setWalker -/

@[simp] theorem setWalker_time (s : State) (n : Nat) (x : Walker) : (setWalker s n x).time = s.time := rfl
@[simp] theorem setWalker_clk (s : State) (n : Nat) (x : Walker) : (setWalker s n x).clk = s.clk := rfl
@[simp] theorem setWalker_powered (s : State) (n : Nat) (x : Walker) : (setWalker s n x).powered = s.powered := rfl
@[simp] theorem setWalker_mem (s : State) (n : Nat) (x : Walker) : (setWalker s n x).mem = s.mem := rfl
@[simp] theorem setWalker_hist (s : State) (n : Nat) (x : Walker) : (setWalker s n x).hist = s.hist := rfl
@[simp] theorem setWalker_pub (s : State) (n : Nat) (x : Walker) : (setWalker s n x).pub = s.pub := rfl
@[simp] theorem setWalker_units (s : State) (n : Nat) (x : Walker) : (setWalker s n x).units = s.units := rfl
@[simp] theorem setWalker_dies (s : State) (n : Nat) (x : Walker) : (setWalker s n x).dies = s.dies := rfl
@[simp] theorem setWalker_cores (s : State) (n : Nat) (x : Walker) : (setWalker s n x).cores = s.cores := rfl
@[simp] theorem setWalker_groups (s : State) (n : Nat) (x : Walker) : (setWalker s n x).groups = s.groups := rfl
@[simp] theorem setWalker_teams (s : State) (n : Nat) (x : Walker) : (setWalker s n x).teams = s.teams := rfl
@[simp] theorem setWalker_walkers (s : State) (n : Nat) (x : Walker) : (setWalker s n x).walkers = mput s.walkers n x := rfl
@[simp] theorem setWalker_banks (s : State) (n : Nat) (x : Walker) : (setWalker s n x).banks = s.banks := rfl
@[simp] theorem setWalker_reown (s : State) (n : Nat) (x : Walker) : (setWalker s n x).reown = s.reown := rfl
@[simp] theorem setWalker_fes (s : State) (n : Nat) (x : Walker) : (setWalker s n x).fes = s.fes := rfl
@[simp] theorem setWalker_tlbs (s : State) (n : Nat) (x : Walker) : (setWalker s n x).tlbs = s.tlbs := rfl
@[simp] theorem setWalker_invs (s : State) (n : Nat) (x : Walker) : (setWalker s n x).invs = s.invs := rfl
@[simp] theorem setWalker_errs (s : State) (n : Nat) (x : Walker) : (setWalker s n x).errs = s.errs := rfl
@[simp] theorem setWalker_rep (s : State) (n : Nat) (x : Walker) : (setWalker s n x).rep = s.rep := rfl
@[simp] theorem setWalker_mg (s : State) (n : Nat) (x : Walker) : (setWalker s n x).mg = s.mg := rfl
@[simp] theorem setWalker_agenda (s : State) (n : Nat) (x : Walker) : (setWalker s n x).agenda = s.agenda := rfl
@[simp] theorem setWalker_cur (s : State) (n : Nat) (x : Walker) : (setWalker s n x).cur = s.cur := rfl
@[simp] theorem setWalker_nextUid (s : State) (n : Nat) (x : Walker) : (setWalker s n x).nextUid = s.nextUid := rfl
@[simp] theorem setWalker_ageCtr (s : State) (n : Nat) (x : Walker) : (setWalker s n x).ageCtr = s.ageCtr := rfl
@[simp] theorem setWalker_epoch (s : State) (n : Nat) (x : Walker) : (setWalker s n x).epoch = s.epoch := rfl
@[simp] theorem getDie_setWalker (s : State) (n : Nat) (x : Walker) (k : Nat) : getDie (setWalker s n x) k = getDie s k := rfl
@[simp] theorem getCore_setWalker (s : State) (n : Nat) (x : Walker) (k : Nat) : getCore (setWalker s n x) k = getCore s k := rfl
@[simp] theorem getBank_setWalker (s : State) (n : Nat) (x : Walker) (k : Nat) : getBank (setWalker s n x) k = getBank s k := rfl
@[simp] theorem getFe_setWalker (s : State) (n : Nat) (x : Walker) (k : Nat) : getFe (setWalker s n x) k = getFe s k := rfl
@[simp] theorem getGroup_setWalker (s : State) (n : Nat) (x : Walker) (i j : Nat) : getGroup (setWalker s n x) i j = getGroup s i j := rfl
@[simp] theorem getTeam_setWalker (s : State) (n : Nat) (x : Walker) (k : Nat) : getTeam (setWalker s n x) k = getTeam s k := rfl
@[simp] theorem getUnit_setWalker (s : State) (n : Nat) (x : Walker) (k : Nat) : getUnit (setWalker s n x) k = getUnit s k := rfl
@[simp] theorem getErr_setWalker (s : State) (n : Nat) (x : Walker) (i j : Nat) : getErr (setWalker s n x) i j = getErr s i j := rfl

/-! ## setBank -/

@[simp] theorem setBank_time (s : State) (n : Nat) (x : Bank) : (setBank s n x).time = s.time := rfl
@[simp] theorem setBank_clk (s : State) (n : Nat) (x : Bank) : (setBank s n x).clk = s.clk := rfl
@[simp] theorem setBank_powered (s : State) (n : Nat) (x : Bank) : (setBank s n x).powered = s.powered := rfl
@[simp] theorem setBank_mem (s : State) (n : Nat) (x : Bank) : (setBank s n x).mem = s.mem := rfl
@[simp] theorem setBank_hist (s : State) (n : Nat) (x : Bank) : (setBank s n x).hist = s.hist := rfl
@[simp] theorem setBank_pub (s : State) (n : Nat) (x : Bank) : (setBank s n x).pub = s.pub := rfl
@[simp] theorem setBank_units (s : State) (n : Nat) (x : Bank) : (setBank s n x).units = s.units := rfl
@[simp] theorem setBank_dies (s : State) (n : Nat) (x : Bank) : (setBank s n x).dies = s.dies := rfl
@[simp] theorem setBank_cores (s : State) (n : Nat) (x : Bank) : (setBank s n x).cores = s.cores := rfl
@[simp] theorem setBank_groups (s : State) (n : Nat) (x : Bank) : (setBank s n x).groups = s.groups := rfl
@[simp] theorem setBank_teams (s : State) (n : Nat) (x : Bank) : (setBank s n x).teams = s.teams := rfl
@[simp] theorem setBank_walkers (s : State) (n : Nat) (x : Bank) : (setBank s n x).walkers = s.walkers := rfl
@[simp] theorem setBank_banks (s : State) (n : Nat) (x : Bank) : (setBank s n x).banks = mput s.banks n x := rfl
@[simp] theorem setBank_reown (s : State) (n : Nat) (x : Bank) : (setBank s n x).reown = s.reown := rfl
@[simp] theorem setBank_fes (s : State) (n : Nat) (x : Bank) : (setBank s n x).fes = s.fes := rfl
@[simp] theorem setBank_tlbs (s : State) (n : Nat) (x : Bank) : (setBank s n x).tlbs = s.tlbs := rfl
@[simp] theorem setBank_invs (s : State) (n : Nat) (x : Bank) : (setBank s n x).invs = s.invs := rfl
@[simp] theorem setBank_errs (s : State) (n : Nat) (x : Bank) : (setBank s n x).errs = s.errs := rfl
@[simp] theorem setBank_rep (s : State) (n : Nat) (x : Bank) : (setBank s n x).rep = s.rep := rfl
@[simp] theorem setBank_mg (s : State) (n : Nat) (x : Bank) : (setBank s n x).mg = s.mg := rfl
@[simp] theorem setBank_agenda (s : State) (n : Nat) (x : Bank) : (setBank s n x).agenda = s.agenda := rfl
@[simp] theorem setBank_cur (s : State) (n : Nat) (x : Bank) : (setBank s n x).cur = s.cur := rfl
@[simp] theorem setBank_nextUid (s : State) (n : Nat) (x : Bank) : (setBank s n x).nextUid = s.nextUid := rfl
@[simp] theorem setBank_ageCtr (s : State) (n : Nat) (x : Bank) : (setBank s n x).ageCtr = s.ageCtr := rfl
@[simp] theorem setBank_epoch (s : State) (n : Nat) (x : Bank) : (setBank s n x).epoch = s.epoch := rfl
@[simp] theorem getDie_setBank (s : State) (n : Nat) (x : Bank) (k : Nat) : getDie (setBank s n x) k = getDie s k := rfl
@[simp] theorem getCore_setBank (s : State) (n : Nat) (x : Bank) (k : Nat) : getCore (setBank s n x) k = getCore s k := rfl
@[simp] theorem getWalker_setBank (s : State) (n : Nat) (x : Bank) (k : Nat) : getWalker (setBank s n x) k = getWalker s k := rfl
@[simp] theorem getFe_setBank (s : State) (n : Nat) (x : Bank) (k : Nat) : getFe (setBank s n x) k = getFe s k := rfl
@[simp] theorem getGroup_setBank (s : State) (n : Nat) (x : Bank) (i j : Nat) : getGroup (setBank s n x) i j = getGroup s i j := rfl
@[simp] theorem getTeam_setBank (s : State) (n : Nat) (x : Bank) (k : Nat) : getTeam (setBank s n x) k = getTeam s k := rfl
@[simp] theorem getUnit_setBank (s : State) (n : Nat) (x : Bank) (k : Nat) : getUnit (setBank s n x) k = getUnit s k := rfl
@[simp] theorem getErr_setBank (s : State) (n : Nat) (x : Bank) (i j : Nat) : getErr (setBank s n x) i j = getErr s i j := rfl

/-! ## setFe -/

@[simp] theorem setFe_time (s : State) (n : Nat) (x : FrontEnd) : (setFe s n x).time = s.time := rfl
@[simp] theorem setFe_clk (s : State) (n : Nat) (x : FrontEnd) : (setFe s n x).clk = s.clk := rfl
@[simp] theorem setFe_powered (s : State) (n : Nat) (x : FrontEnd) : (setFe s n x).powered = s.powered := rfl
@[simp] theorem setFe_mem (s : State) (n : Nat) (x : FrontEnd) : (setFe s n x).mem = s.mem := rfl
@[simp] theorem setFe_hist (s : State) (n : Nat) (x : FrontEnd) : (setFe s n x).hist = s.hist := rfl
@[simp] theorem setFe_pub (s : State) (n : Nat) (x : FrontEnd) : (setFe s n x).pub = s.pub := rfl
@[simp] theorem setFe_units (s : State) (n : Nat) (x : FrontEnd) : (setFe s n x).units = s.units := rfl
@[simp] theorem setFe_dies (s : State) (n : Nat) (x : FrontEnd) : (setFe s n x).dies = s.dies := rfl
@[simp] theorem setFe_cores (s : State) (n : Nat) (x : FrontEnd) : (setFe s n x).cores = s.cores := rfl
@[simp] theorem setFe_groups (s : State) (n : Nat) (x : FrontEnd) : (setFe s n x).groups = s.groups := rfl
@[simp] theorem setFe_teams (s : State) (n : Nat) (x : FrontEnd) : (setFe s n x).teams = s.teams := rfl
@[simp] theorem setFe_walkers (s : State) (n : Nat) (x : FrontEnd) : (setFe s n x).walkers = s.walkers := rfl
@[simp] theorem setFe_banks (s : State) (n : Nat) (x : FrontEnd) : (setFe s n x).banks = s.banks := rfl
@[simp] theorem setFe_reown (s : State) (n : Nat) (x : FrontEnd) : (setFe s n x).reown = s.reown := rfl
@[simp] theorem setFe_fes (s : State) (n : Nat) (x : FrontEnd) : (setFe s n x).fes = mput s.fes n x := rfl
@[simp] theorem setFe_tlbs (s : State) (n : Nat) (x : FrontEnd) : (setFe s n x).tlbs = s.tlbs := rfl
@[simp] theorem setFe_invs (s : State) (n : Nat) (x : FrontEnd) : (setFe s n x).invs = s.invs := rfl
@[simp] theorem setFe_errs (s : State) (n : Nat) (x : FrontEnd) : (setFe s n x).errs = s.errs := rfl
@[simp] theorem setFe_rep (s : State) (n : Nat) (x : FrontEnd) : (setFe s n x).rep = s.rep := rfl
@[simp] theorem setFe_mg (s : State) (n : Nat) (x : FrontEnd) : (setFe s n x).mg = s.mg := rfl
@[simp] theorem setFe_agenda (s : State) (n : Nat) (x : FrontEnd) : (setFe s n x).agenda = s.agenda := rfl
@[simp] theorem setFe_cur (s : State) (n : Nat) (x : FrontEnd) : (setFe s n x).cur = s.cur := rfl
@[simp] theorem setFe_nextUid (s : State) (n : Nat) (x : FrontEnd) : (setFe s n x).nextUid = s.nextUid := rfl
@[simp] theorem setFe_ageCtr (s : State) (n : Nat) (x : FrontEnd) : (setFe s n x).ageCtr = s.ageCtr := rfl
@[simp] theorem setFe_epoch (s : State) (n : Nat) (x : FrontEnd) : (setFe s n x).epoch = s.epoch := rfl
@[simp] theorem getDie_setFe (s : State) (n : Nat) (x : FrontEnd) (k : Nat) : getDie (setFe s n x) k = getDie s k := rfl
@[simp] theorem getCore_setFe (s : State) (n : Nat) (x : FrontEnd) (k : Nat) : getCore (setFe s n x) k = getCore s k := rfl
@[simp] theorem getWalker_setFe (s : State) (n : Nat) (x : FrontEnd) (k : Nat) : getWalker (setFe s n x) k = getWalker s k := rfl
@[simp] theorem getBank_setFe (s : State) (n : Nat) (x : FrontEnd) (k : Nat) : getBank (setFe s n x) k = getBank s k := rfl
@[simp] theorem getGroup_setFe (s : State) (n : Nat) (x : FrontEnd) (i j : Nat) : getGroup (setFe s n x) i j = getGroup s i j := rfl
@[simp] theorem getTeam_setFe (s : State) (n : Nat) (x : FrontEnd) (k : Nat) : getTeam (setFe s n x) k = getTeam s k := rfl
@[simp] theorem getUnit_setFe (s : State) (n : Nat) (x : FrontEnd) (k : Nat) : getUnit (setFe s n x) k = getUnit s k := rfl
@[simp] theorem getErr_setFe (s : State) (n : Nat) (x : FrontEnd) (i j : Nat) : getErr (setFe s n x) i j = getErr s i j := rfl

/-! ## setGroup -/

@[simp] theorem setGroup_time (s : State) (g : Group) : (setGroup s g).time = s.time := rfl
@[simp] theorem setGroup_clk (s : State) (g : Group) : (setGroup s g).clk = s.clk := rfl
@[simp] theorem setGroup_powered (s : State) (g : Group) : (setGroup s g).powered = s.powered := rfl
@[simp] theorem setGroup_mem (s : State) (g : Group) : (setGroup s g).mem = s.mem := rfl
@[simp] theorem setGroup_hist (s : State) (g : Group) : (setGroup s g).hist = s.hist := rfl
@[simp] theorem setGroup_pub (s : State) (g : Group) : (setGroup s g).pub = s.pub := rfl
@[simp] theorem setGroup_units (s : State) (g : Group) : (setGroup s g).units = s.units := rfl
@[simp] theorem setGroup_dies (s : State) (g : Group) : (setGroup s g).dies = s.dies := rfl
@[simp] theorem setGroup_cores (s : State) (g : Group) : (setGroup s g).cores = s.cores := rfl
@[simp] theorem setGroup_groups (s : State) (g : Group) : (setGroup s g).groups = mput s.groups (gkey g.core g.slot) g := rfl
@[simp] theorem setGroup_teams (s : State) (g : Group) : (setGroup s g).teams = s.teams := rfl
@[simp] theorem setGroup_walkers (s : State) (g : Group) : (setGroup s g).walkers = s.walkers := rfl
@[simp] theorem setGroup_banks (s : State) (g : Group) : (setGroup s g).banks = s.banks := rfl
@[simp] theorem setGroup_reown (s : State) (g : Group) : (setGroup s g).reown = s.reown := rfl
@[simp] theorem setGroup_fes (s : State) (g : Group) : (setGroup s g).fes = s.fes := rfl
@[simp] theorem setGroup_tlbs (s : State) (g : Group) : (setGroup s g).tlbs = s.tlbs := rfl
@[simp] theorem setGroup_invs (s : State) (g : Group) : (setGroup s g).invs = s.invs := rfl
@[simp] theorem setGroup_errs (s : State) (g : Group) : (setGroup s g).errs = s.errs := rfl
@[simp] theorem setGroup_rep (s : State) (g : Group) : (setGroup s g).rep = s.rep := rfl
@[simp] theorem setGroup_mg (s : State) (g : Group) : (setGroup s g).mg = s.mg := rfl
@[simp] theorem setGroup_agenda (s : State) (g : Group) : (setGroup s g).agenda = s.agenda := rfl
@[simp] theorem setGroup_cur (s : State) (g : Group) : (setGroup s g).cur = s.cur := rfl
@[simp] theorem setGroup_nextUid (s : State) (g : Group) : (setGroup s g).nextUid = s.nextUid := rfl
@[simp] theorem setGroup_ageCtr (s : State) (g : Group) : (setGroup s g).ageCtr = s.ageCtr := rfl
@[simp] theorem setGroup_epoch (s : State) (g : Group) : (setGroup s g).epoch = s.epoch := rfl
@[simp] theorem getDie_setGroup (s : State) (g : Group) (k : Nat) : getDie (setGroup s g) k = getDie s k := rfl
@[simp] theorem getCore_setGroup (s : State) (g : Group) (k : Nat) : getCore (setGroup s g) k = getCore s k := rfl
@[simp] theorem getWalker_setGroup (s : State) (g : Group) (k : Nat) : getWalker (setGroup s g) k = getWalker s k := rfl
@[simp] theorem getBank_setGroup (s : State) (g : Group) (k : Nat) : getBank (setGroup s g) k = getBank s k := rfl
@[simp] theorem getFe_setGroup (s : State) (g : Group) (k : Nat) : getFe (setGroup s g) k = getFe s k := rfl
@[simp] theorem getTeam_setGroup (s : State) (g : Group) (k : Nat) : getTeam (setGroup s g) k = getTeam s k := rfl
@[simp] theorem getUnit_setGroup (s : State) (g : Group) (k : Nat) : getUnit (setGroup s g) k = getUnit s k := rfl
@[simp] theorem getErr_setGroup (s : State) (g : Group) (i j : Nat) : getErr (setGroup s g) i j = getErr s i j := rfl

/-! ## setTeam -/

@[simp] theorem setTeam_time (s : State) (t : Team) : (setTeam s t).time = s.time := rfl
@[simp] theorem setTeam_clk (s : State) (t : Team) : (setTeam s t).clk = s.clk := rfl
@[simp] theorem setTeam_powered (s : State) (t : Team) : (setTeam s t).powered = s.powered := rfl
@[simp] theorem setTeam_mem (s : State) (t : Team) : (setTeam s t).mem = s.mem := rfl
@[simp] theorem setTeam_hist (s : State) (t : Team) : (setTeam s t).hist = s.hist := rfl
@[simp] theorem setTeam_pub (s : State) (t : Team) : (setTeam s t).pub = s.pub := rfl
@[simp] theorem setTeam_units (s : State) (t : Team) : (setTeam s t).units = s.units := rfl
@[simp] theorem setTeam_dies (s : State) (t : Team) : (setTeam s t).dies = s.dies := rfl
@[simp] theorem setTeam_cores (s : State) (t : Team) : (setTeam s t).cores = s.cores := rfl
@[simp] theorem setTeam_groups (s : State) (t : Team) : (setTeam s t).groups = s.groups := rfl
@[simp] theorem setTeam_teams (s : State) (t : Team) : (setTeam s t).teams = mput s.teams t.uid t := rfl
@[simp] theorem setTeam_walkers (s : State) (t : Team) : (setTeam s t).walkers = s.walkers := rfl
@[simp] theorem setTeam_banks (s : State) (t : Team) : (setTeam s t).banks = s.banks := rfl
@[simp] theorem setTeam_reown (s : State) (t : Team) : (setTeam s t).reown = s.reown := rfl
@[simp] theorem setTeam_fes (s : State) (t : Team) : (setTeam s t).fes = s.fes := rfl
@[simp] theorem setTeam_tlbs (s : State) (t : Team) : (setTeam s t).tlbs = s.tlbs := rfl
@[simp] theorem setTeam_invs (s : State) (t : Team) : (setTeam s t).invs = s.invs := rfl
@[simp] theorem setTeam_errs (s : State) (t : Team) : (setTeam s t).errs = s.errs := rfl
@[simp] theorem setTeam_rep (s : State) (t : Team) : (setTeam s t).rep = s.rep := rfl
@[simp] theorem setTeam_mg (s : State) (t : Team) : (setTeam s t).mg = s.mg := rfl
@[simp] theorem setTeam_agenda (s : State) (t : Team) : (setTeam s t).agenda = s.agenda := rfl
@[simp] theorem setTeam_cur (s : State) (t : Team) : (setTeam s t).cur = s.cur := rfl
@[simp] theorem setTeam_nextUid (s : State) (t : Team) : (setTeam s t).nextUid = s.nextUid := rfl
@[simp] theorem setTeam_ageCtr (s : State) (t : Team) : (setTeam s t).ageCtr = s.ageCtr := rfl
@[simp] theorem setTeam_epoch (s : State) (t : Team) : (setTeam s t).epoch = s.epoch := rfl
@[simp] theorem getDie_setTeam (s : State) (t : Team) (k : Nat) : getDie (setTeam s t) k = getDie s k := rfl
@[simp] theorem getCore_setTeam (s : State) (t : Team) (k : Nat) : getCore (setTeam s t) k = getCore s k := rfl
@[simp] theorem getWalker_setTeam (s : State) (t : Team) (k : Nat) : getWalker (setTeam s t) k = getWalker s k := rfl
@[simp] theorem getBank_setTeam (s : State) (t : Team) (k : Nat) : getBank (setTeam s t) k = getBank s k := rfl
@[simp] theorem getFe_setTeam (s : State) (t : Team) (k : Nat) : getFe (setTeam s t) k = getFe s k := rfl
@[simp] theorem getGroup_setTeam (s : State) (t : Team) (i j : Nat) : getGroup (setTeam s t) i j = getGroup s i j := rfl
@[simp] theorem getUnit_setTeam (s : State) (t : Team) (k : Nat) : getUnit (setTeam s t) k = getUnit s k := rfl
@[simp] theorem getErr_setTeam (s : State) (t : Team) (i j : Nat) : getErr (setTeam s t) i j = getErr s i j := rfl

/-! ## setUnit -/

@[simp] theorem setUnit_time (s : State) (pa : Nat) (u : Unit_) : (setUnit s pa u).time = s.time := rfl
@[simp] theorem setUnit_clk (s : State) (pa : Nat) (u : Unit_) : (setUnit s pa u).clk = s.clk := rfl
@[simp] theorem setUnit_powered (s : State) (pa : Nat) (u : Unit_) : (setUnit s pa u).powered = s.powered := rfl
@[simp] theorem setUnit_mem (s : State) (pa : Nat) (u : Unit_) : (setUnit s pa u).mem = s.mem := rfl
@[simp] theorem setUnit_hist (s : State) (pa : Nat) (u : Unit_) : (setUnit s pa u).hist = s.hist := rfl
@[simp] theorem setUnit_pub (s : State) (pa : Nat) (u : Unit_) : (setUnit s pa u).pub = s.pub := rfl
@[simp] theorem setUnit_units (s : State) (pa : Nat) (u : Unit_) : (setUnit s pa u).units = mset {} s.units (pa / 8) u := rfl
@[simp] theorem setUnit_dies (s : State) (pa : Nat) (u : Unit_) : (setUnit s pa u).dies = s.dies := rfl
@[simp] theorem setUnit_cores (s : State) (pa : Nat) (u : Unit_) : (setUnit s pa u).cores = s.cores := rfl
@[simp] theorem setUnit_groups (s : State) (pa : Nat) (u : Unit_) : (setUnit s pa u).groups = s.groups := rfl
@[simp] theorem setUnit_teams (s : State) (pa : Nat) (u : Unit_) : (setUnit s pa u).teams = s.teams := rfl
@[simp] theorem setUnit_walkers (s : State) (pa : Nat) (u : Unit_) : (setUnit s pa u).walkers = s.walkers := rfl
@[simp] theorem setUnit_banks (s : State) (pa : Nat) (u : Unit_) : (setUnit s pa u).banks = s.banks := rfl
@[simp] theorem setUnit_reown (s : State) (pa : Nat) (u : Unit_) : (setUnit s pa u).reown = s.reown := rfl
@[simp] theorem setUnit_fes (s : State) (pa : Nat) (u : Unit_) : (setUnit s pa u).fes = s.fes := rfl
@[simp] theorem setUnit_tlbs (s : State) (pa : Nat) (u : Unit_) : (setUnit s pa u).tlbs = s.tlbs := rfl
@[simp] theorem setUnit_invs (s : State) (pa : Nat) (u : Unit_) : (setUnit s pa u).invs = s.invs := rfl
@[simp] theorem setUnit_errs (s : State) (pa : Nat) (u : Unit_) : (setUnit s pa u).errs = s.errs := rfl
@[simp] theorem setUnit_rep (s : State) (pa : Nat) (u : Unit_) : (setUnit s pa u).rep = s.rep := rfl
@[simp] theorem setUnit_mg (s : State) (pa : Nat) (u : Unit_) : (setUnit s pa u).mg = s.mg := rfl
@[simp] theorem setUnit_agenda (s : State) (pa : Nat) (u : Unit_) : (setUnit s pa u).agenda = s.agenda := rfl
@[simp] theorem setUnit_cur (s : State) (pa : Nat) (u : Unit_) : (setUnit s pa u).cur = s.cur := rfl
@[simp] theorem setUnit_nextUid (s : State) (pa : Nat) (u : Unit_) : (setUnit s pa u).nextUid = s.nextUid := rfl
@[simp] theorem setUnit_ageCtr (s : State) (pa : Nat) (u : Unit_) : (setUnit s pa u).ageCtr = s.ageCtr := rfl
@[simp] theorem setUnit_epoch (s : State) (pa : Nat) (u : Unit_) : (setUnit s pa u).epoch = s.epoch := rfl
@[simp] theorem getDie_setUnit (s : State) (pa : Nat) (u : Unit_) (k : Nat) : getDie (setUnit s pa u) k = getDie s k := rfl
@[simp] theorem getCore_setUnit (s : State) (pa : Nat) (u : Unit_) (k : Nat) : getCore (setUnit s pa u) k = getCore s k := rfl
@[simp] theorem getWalker_setUnit (s : State) (pa : Nat) (u : Unit_) (k : Nat) : getWalker (setUnit s pa u) k = getWalker s k := rfl
@[simp] theorem getBank_setUnit (s : State) (pa : Nat) (u : Unit_) (k : Nat) : getBank (setUnit s pa u) k = getBank s k := rfl
@[simp] theorem getFe_setUnit (s : State) (pa : Nat) (u : Unit_) (k : Nat) : getFe (setUnit s pa u) k = getFe s k := rfl
@[simp] theorem getGroup_setUnit (s : State) (pa : Nat) (u : Unit_) (i j : Nat) : getGroup (setUnit s pa u) i j = getGroup s i j := rfl
@[simp] theorem getTeam_setUnit (s : State) (pa : Nat) (u : Unit_) (k : Nat) : getTeam (setUnit s pa u) k = getTeam s k := rfl
@[simp] theorem getErr_setUnit (s : State) (pa : Nat) (u : Unit_) (i j : Nat) : getErr (setUnit s pa u) i j = getErr s i j := rfl

/-! ## setErr -/

@[simp] theorem setErr_time (s : State) (kind inst : Nat) (e : ErrLog) : (setErr s kind inst e).time = s.time := rfl
@[simp] theorem setErr_clk (s : State) (kind inst : Nat) (e : ErrLog) : (setErr s kind inst e).clk = s.clk := rfl
@[simp] theorem setErr_powered (s : State) (kind inst : Nat) (e : ErrLog) : (setErr s kind inst e).powered = s.powered := rfl
@[simp] theorem setErr_mem (s : State) (kind inst : Nat) (e : ErrLog) : (setErr s kind inst e).mem = s.mem := rfl
@[simp] theorem setErr_hist (s : State) (kind inst : Nat) (e : ErrLog) : (setErr s kind inst e).hist = s.hist := rfl
@[simp] theorem setErr_pub (s : State) (kind inst : Nat) (e : ErrLog) : (setErr s kind inst e).pub = s.pub := rfl
@[simp] theorem setErr_units (s : State) (kind inst : Nat) (e : ErrLog) : (setErr s kind inst e).units = s.units := rfl
@[simp] theorem setErr_dies (s : State) (kind inst : Nat) (e : ErrLog) : (setErr s kind inst e).dies = s.dies := rfl
@[simp] theorem setErr_cores (s : State) (kind inst : Nat) (e : ErrLog) : (setErr s kind inst e).cores = s.cores := rfl
@[simp] theorem setErr_groups (s : State) (kind inst : Nat) (e : ErrLog) : (setErr s kind inst e).groups = s.groups := rfl
@[simp] theorem setErr_teams (s : State) (kind inst : Nat) (e : ErrLog) : (setErr s kind inst e).teams = s.teams := rfl
@[simp] theorem setErr_walkers (s : State) (kind inst : Nat) (e : ErrLog) : (setErr s kind inst e).walkers = s.walkers := rfl
@[simp] theorem setErr_banks (s : State) (kind inst : Nat) (e : ErrLog) : (setErr s kind inst e).banks = s.banks := rfl
@[simp] theorem setErr_reown (s : State) (kind inst : Nat) (e : ErrLog) : (setErr s kind inst e).reown = s.reown := rfl
@[simp] theorem setErr_fes (s : State) (kind inst : Nat) (e : ErrLog) : (setErr s kind inst e).fes = s.fes := rfl
@[simp] theorem setErr_tlbs (s : State) (kind inst : Nat) (e : ErrLog) : (setErr s kind inst e).tlbs = s.tlbs := rfl
@[simp] theorem setErr_invs (s : State) (kind inst : Nat) (e : ErrLog) : (setErr s kind inst e).invs = s.invs := rfl
@[simp] theorem setErr_errs (s : State) (kind inst : Nat) (e : ErrLog) : (setErr s kind inst e).errs = mput s.errs (1024 * kind + inst) e := rfl
@[simp] theorem setErr_rep (s : State) (kind inst : Nat) (e : ErrLog) : (setErr s kind inst e).rep = s.rep := rfl
@[simp] theorem setErr_mg (s : State) (kind inst : Nat) (e : ErrLog) : (setErr s kind inst e).mg = s.mg := rfl
@[simp] theorem setErr_agenda (s : State) (kind inst : Nat) (e : ErrLog) : (setErr s kind inst e).agenda = s.agenda := rfl
@[simp] theorem setErr_cur (s : State) (kind inst : Nat) (e : ErrLog) : (setErr s kind inst e).cur = s.cur := rfl
@[simp] theorem setErr_nextUid (s : State) (kind inst : Nat) (e : ErrLog) : (setErr s kind inst e).nextUid = s.nextUid := rfl
@[simp] theorem setErr_ageCtr (s : State) (kind inst : Nat) (e : ErrLog) : (setErr s kind inst e).ageCtr = s.ageCtr := rfl
@[simp] theorem setErr_epoch (s : State) (kind inst : Nat) (e : ErrLog) : (setErr s kind inst e).epoch = s.epoch := rfl
@[simp] theorem getDie_setErr (s : State) (kind inst : Nat) (e : ErrLog) (k : Nat) : getDie (setErr s kind inst e) k = getDie s k := rfl
@[simp] theorem getCore_setErr (s : State) (kind inst : Nat) (e : ErrLog) (k : Nat) : getCore (setErr s kind inst e) k = getCore s k := rfl
@[simp] theorem getWalker_setErr (s : State) (kind inst : Nat) (e : ErrLog) (k : Nat) : getWalker (setErr s kind inst e) k = getWalker s k := rfl
@[simp] theorem getBank_setErr (s : State) (kind inst : Nat) (e : ErrLog) (k : Nat) : getBank (setErr s kind inst e) k = getBank s k := rfl
@[simp] theorem getFe_setErr (s : State) (kind inst : Nat) (e : ErrLog) (k : Nat) : getFe (setErr s kind inst e) k = getFe s k := rfl
@[simp] theorem getGroup_setErr (s : State) (kind inst : Nat) (e : ErrLog) (i j : Nat) : getGroup (setErr s kind inst e) i j = getGroup s i j := rfl
@[simp] theorem getTeam_setErr (s : State) (kind inst : Nat) (e : ErrLog) (k : Nat) : getTeam (setErr s kind inst e) k = getTeam s k := rfl
@[simp] theorem getUnit_setErr (s : State) (kind inst : Nat) (e : ErrLog) (k : Nat) : getUnit (setErr s kind inst e) k = getUnit s k := rfl

/-! ## putCtx -/

@[simp] theorem putCtx_time (s : State) (c : Ctx) : (putCtx s c).time = s.time := rfl
@[simp] theorem putCtx_clk (s : State) (c : Ctx) : (putCtx s c).clk = s.clk := rfl
@[simp] theorem putCtx_powered (s : State) (c : Ctx) : (putCtx s c).powered = s.powered := rfl
@[simp] theorem putCtx_mem (s : State) (c : Ctx) : (putCtx s c).mem = s.mem := rfl
@[simp] theorem putCtx_hist (s : State) (c : Ctx) : (putCtx s c).hist = s.hist := rfl
@[simp] theorem putCtx_pub (s : State) (c : Ctx) : (putCtx s c).pub = s.pub := rfl
@[simp] theorem putCtx_units (s : State) (c : Ctx) : (putCtx s c).units = s.units := rfl
@[simp] theorem putCtx_dies (s : State) (c : Ctx) : (putCtx s c).dies = s.dies := rfl
@[simp] theorem putCtx_cores (s : State) (c : Ctx) : (putCtx s c).cores = s.cores := rfl
@[simp] theorem putCtx_groups (s : State) (c : Ctx) : (putCtx s c).groups = mput s.groups (gkey c.core c.slot) (if c.gone then c.g else setStrand c.g c.st) := rfl
@[simp] theorem putCtx_teams (s : State) (c : Ctx) : (putCtx s c).teams = s.teams := rfl
@[simp] theorem putCtx_walkers (s : State) (c : Ctx) : (putCtx s c).walkers = s.walkers := rfl
@[simp] theorem putCtx_banks (s : State) (c : Ctx) : (putCtx s c).banks = s.banks := rfl
@[simp] theorem putCtx_reown (s : State) (c : Ctx) : (putCtx s c).reown = s.reown := rfl
@[simp] theorem putCtx_fes (s : State) (c : Ctx) : (putCtx s c).fes = s.fes := rfl
@[simp] theorem putCtx_tlbs (s : State) (c : Ctx) : (putCtx s c).tlbs = s.tlbs := rfl
@[simp] theorem putCtx_invs (s : State) (c : Ctx) : (putCtx s c).invs = s.invs := rfl
@[simp] theorem putCtx_errs (s : State) (c : Ctx) : (putCtx s c).errs = s.errs := rfl
@[simp] theorem putCtx_rep (s : State) (c : Ctx) : (putCtx s c).rep = s.rep := rfl
@[simp] theorem putCtx_mg (s : State) (c : Ctx) : (putCtx s c).mg = s.mg := rfl
@[simp] theorem putCtx_agenda (s : State) (c : Ctx) : (putCtx s c).agenda = s.agenda := rfl
@[simp] theorem putCtx_cur (s : State) (c : Ctx) : (putCtx s c).cur = s.cur := rfl
@[simp] theorem putCtx_nextUid (s : State) (c : Ctx) : (putCtx s c).nextUid = s.nextUid := rfl
@[simp] theorem putCtx_ageCtr (s : State) (c : Ctx) : (putCtx s c).ageCtr = s.ageCtr := rfl
@[simp] theorem putCtx_epoch (s : State) (c : Ctx) : (putCtx s c).epoch = s.epoch := rfl
@[simp] theorem getDie_putCtx (s : State) (c : Ctx) (k : Nat) : getDie (putCtx s c) k = getDie s k := rfl
@[simp] theorem getCore_putCtx (s : State) (c : Ctx) (k : Nat) : getCore (putCtx s c) k = getCore s k := rfl
@[simp] theorem getWalker_putCtx (s : State) (c : Ctx) (k : Nat) : getWalker (putCtx s c) k = getWalker s k := rfl
@[simp] theorem getBank_putCtx (s : State) (c : Ctx) (k : Nat) : getBank (putCtx s c) k = getBank s k := rfl
@[simp] theorem getFe_putCtx (s : State) (c : Ctx) (k : Nat) : getFe (putCtx s c) k = getFe s k := rfl
@[simp] theorem getTeam_putCtx (s : State) (c : Ctx) (k : Nat) : getTeam (putCtx s c) k = getTeam s k := rfl
@[simp] theorem getUnit_putCtx (s : State) (c : Ctx) (k : Nat) : getUnit (putCtx s c) k = getUnit s k := rfl
@[simp] theorem getErr_putCtx (s : State) (c : Ctx) (i j : Nat) : getErr (putCtx s c) i j = getErr s i j := rfl

/-! ## A part after a write of its own kind -/

theorem getDie_setDie (s : State) (d : Nat) (x : Die) (k : Nat) : getDie (setDie s d x) k = if k = d then x else getDie s k := mget_mput _ _ _ _ _
@[simp] theorem getDie_setDie_same (s : State) (d : Nat) (x : Die) : getDie (setDie s d x) d = x := mget_mput_same _ _ _ _
theorem getCore_setCore (s : State) (n : Nat) (x : Core) (k : Nat) : getCore (setCore s n x) k = if k = n then x else getCore s k := mget_mput _ _ _ _ _
@[simp] theorem getCore_setCore_same (s : State) (n : Nat) (x : Core) : getCore (setCore s n x) n = x := mget_mput_same _ _ _ _
theorem getWalker_setWalker (s : State) (n : Nat) (x : Walker) (k : Nat) : getWalker (setWalker s n x) k = if k = n then x else getWalker s k := mget_mput _ _ _ _ _
@[simp] theorem getWalker_setWalker_same (s : State) (n : Nat) (x : Walker) : getWalker (setWalker s n x) n = x := mget_mput_same _ _ _ _
theorem getBank_setBank (s : State) (n : Nat) (x : Bank) (k : Nat) : getBank (setBank s n x) k = if k = n then x else getBank s k := mget_mput _ _ _ _ _
@[simp] theorem getBank_setBank_same (s : State) (n : Nat) (x : Bank) : getBank (setBank s n x) n = x := mget_mput_same _ _ _ _
theorem getFe_setFe (s : State) (n : Nat) (x : FrontEnd) (k : Nat) : getFe (setFe s n x) k = if k = n then x else getFe s k := mget_mput _ _ _ _ _
@[simp] theorem getFe_setFe_same (s : State) (n : Nat) (x : FrontEnd) : getFe (setFe s n x) n = x := mget_mput_same _ _ _ _
theorem getTeam_setTeam (s : State) (t : Team) (k : Nat) : getTeam (setTeam s t) k = if k = t.uid then some t else getTeam s k :=
  mfind_mput _ _ _ _
@[simp] theorem getTeam_setTeam_same (s : State) (t : Team) : getTeam (setTeam s t) t.uid = some t := mfind_mput_same _ _ _
theorem getGroup_setGroup (s : State) (g : Group) (i j : Nat) :
    getGroup (setGroup s g) i j = if gkey i j = gkey g.core g.slot then some g else getGroup s i j := mfind_mput _ _ _ _
@[simp] theorem getGroup_setGroup_same (s : State) (g : Group) : getGroup (setGroup s g) g.core g.slot = some g :=
  mfind_mput_same _ _ _
theorem getGroup_putCtx (s : State) (c : Ctx) (i j : Nat) :
    getGroup (putCtx s c) i j =
      if gkey i j = gkey c.core c.slot then some (if c.gone then c.g else setStrand c.g c.st) else getGroup s i j :=
  mfind_mput _ _ _ _
@[simp] theorem getGroup_putCtx_same (s : State) (c : Ctx) :
    getGroup (putCtx s c) c.core c.slot = some (if c.gone then c.g else setStrand c.g c.st) := mfind_mput_same _ _ _
theorem getUnit_setUnit (s : State) (pa : Nat) (u : Unit_) (k : Nat) :
    getUnit (setUnit s pa u) k = if k / 8 = pa / 8 then u else getUnit s k := mget_mset _ _ _ _ _
theorem getErr_setErr (s : State) (kind inst : Nat) (e : ErrLog) (i j : Nat) :
    getErr (setErr s kind inst e) i j = if 1024 * i + j = 1024 * kind + inst then e else getErr s i j := mget_mput _ _ _ _ _
@[simp] theorem ctxBlock_setCore (s : State) (n : Nat) (x : Core) (d k : Nat) : ctxBlock (setCore s n x) d k = ctxBlock s d k := rfl
@[simp] theorem ctxBlock_putCtx (s : State) (c : Ctx) (d k : Nat) : ctxBlock (putCtx s c) d k = ctxBlock s d k := rfl


/-! ## askPass and putMem -/

@[simp] theorem getBank_askPass (s : State) (n k : Nat) :
    getBank (askPass s n) k = if k = n then { getBank s n with pass := true } else getBank s k := getBank_setBank _ _ _ _
@[simp] theorem putMem_mem (s : State) (a n v : Nat) : (putMem s a n v).mem = memWrite s.mem a n v := rfl
@[simp] theorem putMem_cores (s : State) (a n v : Nat) : (putMem s a n v).cores = s.cores := rfl
@[simp] theorem putMem_groups (s : State) (a n v : Nat) : (putMem s a n v).groups = s.groups := rfl
@[simp] theorem putMem_teams (s : State) (a n v : Nat) : (putMem s a n v).teams = s.teams := rfl
@[simp] theorem putMem_dies (s : State) (a n v : Nat) : (putMem s a n v).dies = s.dies := rfl
@[simp] theorem putMem_units (s : State) (a n v : Nat) : (putMem s a n v).units = s.units := rfl
@[simp] theorem putMem_errs (s : State) (a n v : Nat) : (putMem s a n v).errs = s.errs := rfl
@[simp] theorem putMem_time (s : State) (a n v : Nat) : (putMem s a n v).time = s.time := rfl
@[simp] theorem putMem_cur (s : State) (a n v : Nat) : (putMem s a n v).cur = s.cur := rfl
@[simp] theorem putMem_rep (s : State) (a n v : Nat) : (putMem s a n v).rep = s.rep := rfl

end Sys2Proof.Machine
end

