-- ==== Sys2Proof/Laws/Issue.lean ====
section
/-! SUPPORT. The frame of every encoded instruction, said once: what issuing, charging, and concluding an instruction do to the
state, the group and the strand. -/

namespace Sys2Proof.Machine

/-! ## Strands of a group -/

theorem findStrand_setStrand (g : Group) (t : Strand) (sid : Nat) :
    findStrand (setStrand g t) sid =
      if sid = t.sid then (findStrand g sid).map (fun _ => t) else findStrand g sid := by
  unfold findStrand setStrand
  induction g.strands with
  | nil => simp
  | cons u l ih =>
    simp only [List.map_cons, List.find?_cons]
    by_cases h : u.sid = t.sid
    · by_cases h' : sid = t.sid
      · subst h'; simp [h]
      · rw [if_neg h'] at ih ⊢
        have h2 : (t.sid == sid) = false := by simpa using fun e => h' e.symm
        rw [if_pos h, h, h2]
        exact ih
    · rw [if_neg h]
      by_cases h' : u.sid = sid
      · subst h'; simp [h]
      · have h2 : (u.sid == sid) = false := by simpa using h'
        rw [h2]
        exact ih

theorem findStrand_sid {g : Group} {sid : Nat} {t : Strand} (h : findStrand g sid = some t) : t.sid = sid := by
  simpa using List.find?_some h

/-! ## The strand at work -/

theorem curCtx_spec {s : State} {c : Ctx} (h : curCtx s = some c) :
    s.cur = some (c.core, c.slot, c.st.sid) ∧ getGroup s c.core c.slot = some c.g ∧ findStrand c.g c.st.sid = some c.st ∧
      c.pc0 = c.st.pc ∧ c.gone = false := by
  unfold curCtx at h
  split at h
  · cases h
  · split at h
    · cases h
    · split at h
      · cases h
      · rename_i h1 _ _ h2 _ _ h3
        cases h
        have := findStrand_sid h3
        subst this
        exact ⟨h1, h2, h3, rfl, rfl⟩

/-! ## Untouched -/

theorem untouched_refl (c : Ctx) (s : State) : Untouched c s s := ⟨rfl, rfl, fun _ _ => rfl, fun _ _ _ => rfl, fun _ => rfl⟩

theorem untouched_trans {c : Ctx} {s t u : State} (h : Untouched c s t) (k : Untouched c t u) : Untouched c s u where
  state := by rw [k.state, h.state]
  core := by rw [k.core, h.core]
  cores n hn := (k.cores n hn).trans (h.cores n hn)
  groups i j hij := (k.groups i j hij).trans (h.groups i j hij)
  teams u := (k.teams u).trans (h.teams u)

/-- Only the numbers of a context's core and slot matter. -/
theorem untouched_congr {c d : Ctx} {s t : State} (h : Untouched c s t) (h1 : d.core = c.core) (h2 : d.slot = c.slot) :
    Untouched d s t where
  state := h.state
  core := by rw [h1]; exact h.core
  cores n hn := h.cores n (by rwa [← h1])
  groups i j hij := h.groups i j (by rwa [h1, h2] at hij)
  teams := h.teams

/-- A core whose energy counters or ports alone change. -/
theorem untouched_setCore (c : Ctx) (s : State) (k : Core)
    (h : k = { getCore s c.core with energy := k.energy, ports := k.ports }) : Untouched c s (setCore s c.core k) where
  state := rfl
  core := by simp only [getCore_setCore_same]; exact h
  cores n hn := by rw [getCore_setCore, if_neg hn]
  groups _ _ _ := rfl
  teams _ := rfl

/-- A team whose budget alone changes. -/
theorem untouched_putTeam (c : Ctx) (s : State) (u : Nat) (t m : Team) (h : getTeam s u = some t)
    (hb : budgetless m = budgetless t) : Untouched c s { s with teams := mput s.teams u m } where
  state := rfl
  core := rfl
  cores _ _ := rfl
  groups _ _ _ := rfl
  teams v := by
    show (mfind (mput s.teams u m) v).map budgetless = _
    rw [mfind_mput]
    split
    · subst_vars; rw [h]; simp [hb]
    · rfl

/-- Writing the context back touches its own group alone. -/
theorem untouched_putCtx (c d : Ctx) (s : State) (h1 : d.core = c.core) (h2 : d.slot = c.slot) :
    Untouched c s (putCtx s d) where
  state := rfl
  core := rfl
  cores _ _ := rfl
  groups i j h := by rw [getGroup_putCtx, if_neg (by rwa [h1, h2])]
  teams _ := rfl

theorem untouched_setCur (c : Ctx) (s : State) (x : Option (Nat × Nat × Nat)) : Untouched c s { s with cur := x } :=
  ⟨rfl, rfl, fun _ _ => rfl, fun _ _ _ => rfl, fun _ => rfl⟩

theorem untouched_charge (c : Ctx) (s : State) (ctx n : Nat) : Untouched c s (charge s c.core ctx n) :=
  untouched_setCore c s _ rfl

theorem untouched_chargeInstr (s : State) (c : Ctx) (w : Word) : Untouched c s (chargeInstr s c w) := by
  unfold chargeInstr
  split
  · exact untouched_charge c s _ _
  · exact untouched_refl c s

theorem untouched_useBudget (d : Ctx) (s : State) (c : Ctx) : Untouched d s (useBudget s c) := by
  unfold useBudget
  split
  · rename_i t h
    split
    · exact untouched_putTeam d s _ t _ h rfl
    · exact untouched_refl d s
  · exact untouched_refl d s

/-! ## The end of a run (R32, R269, R271) -/

theorem endRun_ctx (s : State) (c : Ctx) :
    (endRun s c).2 = { c with st := { c.st with cnt := 0, lat := [], occ := 0, sb := restedSb c.st.sb, status := .ready } } := rfl

theorem endRun_cur (s : State) (c : Ctx) : (endRun s c).1.cur = none := rfl

theorem endRun_groups (s : State) (c : Ctx) : (endRun s c).1.groups = s.groups := by
  unfold endRun useBudget
  dsimp only
  split
  · split
    · split <;> rfl
    · rfl
  · rfl

theorem untouched_endRun (s : State) (c : Ctx) : Untouched c s (endRun s c).1 := by
  have h : ∀ x : State, Untouched c s x → Untouched c s { x with cur := none } := fun x h =>
    untouched_trans h (untouched_setCur c x none)
  unfold endRun
  dsimp only
  apply h
  split
  · refine untouched_trans ?_ (untouched_useBudget c _ c)
    exact untouched_setCore c s _ rfl
  · exact untouched_refl c s

/-! ## Conclusion -/

theorem conclude_false (s : State) (c : Ctx) : conclude false s c = putCtx s c := rfl
theorem conclude_true (s : State) (c : Ctx) : conclude true s c = putCtx (endRun s c).1 (endRun s c).2 := rfl

/-- The strand that a completed instruction leaves. -/
def lastOf (e : Bool) (t : Strand) : Strand :=
  if e then { t with cnt := 0, lat := [], occ := 0, sb := restedSb t.sb, status := .ready } else t

theorem untouched_conclude (e : Bool) (s : State) (c : Ctx) : Untouched c s (conclude e s c) := by
  cases e
  · exact untouched_putCtx c c s rfl rfl
  · exact untouched_trans (untouched_endRun s c) (untouched_putCtx c _ _ rfl rfl)

theorem conclude_group (e : Bool) (s : State) (c : Ctx) (h : c.gone = false) :
    getGroup (conclude e s c) c.core c.slot = some (setStrand c.g (lastOf e c.st)) := by
  cases e
  · rw [conclude_false, getGroup_putCtx_same, h]; rfl
  · rw [conclude_true, endRun_ctx, getGroup_putCtx, if_pos rfl]; simp [h, lastOf]

theorem lastOf_sid (e : Bool) (t : Strand) : (lastOf e t).sid = t.sid := by unfold lastOf; split <;> rfl

theorem conclude_strand (e : Bool) (s : State) (c : Ctx) (h : c.gone = false) (hs : (findStrand c.g c.st.sid).isSome) :
    ctxAt (conclude e s c) c.core c.slot c.st.sid =
      some ⟨c.core, c.slot, setStrand c.g (lastOf e c.st), lastOf e c.st, (lastOf e c.st).pc, false⟩ := by
  obtain ⟨t, ht⟩ := Option.isSome_iff_exists.mp hs
  unfold ctxAt
  rw [conclude_group e s c h]
  simp only [findStrand_setStrand, lastOf_sid, if_true, ht, Option.map_some]

theorem conclude_cur (e : Bool) (s : State) (c : Ctx) : (conclude e s c).cur = if e then none else s.cur := by
  cases e <;> rfl

/-! ## The issue of an instruction -/

theorem runInstr_ready {i : Instr} {s : State} {c : Ctx} (h : Ready i s c) (body : State → Ctx → Done) :
    runInstr i body s = .next (concluded i s c (body (chargeInstr s c (firstWord i)) (begun c i))) := by
  obtain ⟨h1, h2, h3⟩ := h
  simp [runInstr, h1, issue, h2, h3, performed]

/-- What the checks of R39 have established of an instruction that issues. -/
theorem ready_checks {i : Instr} {s : State} {c : Ctx} (h : Ready i s c) :
    rangeOk i = true ∧ privOk s c (firstWord i) = true ∧ fmtOk c.st.fmt (firstWord i) = true ∧
      placeOk s c (firstWord i) = true ∧
      (if (firstWord i).getLsbD 31 then groupOperandOk c.st.fmt c.g.nregs (firstWord i)
        else laneOperandOk c.st.fmt c.g.nregs (firstWord i)) = true := by
  have h1 := h.2.1
  unfold issueTrap at h1
  generalize he : (if (firstWord i).getLsbD 31 then groupOperandOk c.st.fmt c.g.nregs (firstWord i)
    else laneOperandOk c.st.fmt c.g.nregs (firstWord i)) = e at h1
  dsimp only at h1
  rw [he] at h1
  by_cases h2 : (rangeOk i && privOk s c (firstWord i) && fmtOk c.st.fmt (firstWord i) && placeOk s c (firstWord i)) = true
  · cases e
    · simp [h2] at h1
    · simp only [Bool.and_eq_true] at h2
      exact ⟨h2.1.1.1, h2.1.1.2, h2.1.2, h2.2, by simp⟩
  · simp [h2] at h1

theorem begun_core (c : Ctx) (i : Instr) : (begun c i).core = c.core := rfl
theorem begun_slot (c : Ctx) (i : Instr) : (begun c i).slot = c.slot := rfl
theorem begun_pc0 (c : Ctx) (i : Instr) : (begun c i).pc0 = c.pc0 := rfl
theorem begun_gone (c : Ctx) (i : Instr) : (begun c i).gone = c.gone := rfl
theorem begun_group (c : Ctx) (i : Instr) : (begun c i).g = { issued c i with uv := (begun c i).g.uv } := rfl
theorem begun_strand (c : Ctx) (i : Instr) :
    (begun c i).st = { c.st with
      pc := c.pc0 + BitVec.ofNat 64 (instrLen i), cnt := c.st.cnt + 1, cyc := (begun c i).st.cyc, occ := (begun c i).st.occ
      sb := (begun c i).st.sb, paid := false } := rfl

/-! ## Writes on their way (R126, R190) -/

theorem foldl_uApply_only (l : List UWrite) (g : Group) :
    l.foldl uApply g = { g with k := (l.foldl uApply g).k, q := (l.foldl uApply g).q, gset := (l.foldl uApply g).gset } := by
  induction l generalizing g with
  | nil => rfl
  | cons e t ih =>
    rw [List.foldl_cons, ih]
    unfold uApply
    split
    · rfl
    · split <;> rfl

theorem foldl_uApply_parts (l : List UWrite) {g h : Group} (h1 : g.k = h.k) (h2 : g.q = h.q) (h3 : g.gset = h.gset) :
    (l.foldl uApply g).k = (l.foldl uApply h).k ∧ (l.foldl uApply g).q = (l.foldl uApply h).q ∧
      (l.foldl uApply g).gset = (l.foldl uApply h).gset := by
  induction l generalizing g h with
  | nil => exact ⟨h1, h2, h3⟩
  | cons e t ih =>
    simp only [List.foldl_cons]
    apply ih
    all_goals unfold uApply; split <;> (try split) <;> simp [h1, h2, h3]

/-- The file before a cycle changes k, q, G and the writes on their way alone. -/
theorem uSettle_only (g : Group) (n : Nat) :
    uSettle g n = { g with
      k := (uSettle g n).k, q := (uSettle g n).q, gset := (uSettle g n).gset, uq := (uSettle g n).uq } := by
  unfold uSettle
  dsimp only
  rw [foldl_uApply_only]

/-- Once a cycle's writes have been made there are none to make again. -/
theorem uSettle_idem (g : Group) (n : Nat) : uSettle (uSettle g n) n = uSettle g n := by
  have h1 : ((g.uq.filter fun e => decide (n ≤ e.at_)).filter fun e => decide (e.at_ < n)) = [] := by
    simp only [List.filter_filter, List.filter_eq_nil_iff]
    intro e _
    simp
  have h2 : ((g.uq.filter fun e => decide (n ≤ e.at_)).filter fun e => decide (n ≤ e.at_)) =
      g.uq.filter fun e => decide (n ≤ e.at_) := by simp [List.filter_filter]
  conv_lhs => unfold uSettle
  show ({ (((g.uq.filter fun e => decide (n ≤ e.at_)).filter fun e => decide (e.at_ < n)).foldl uApply (uSettle g n)) with
    uq := (g.uq.filter fun e => decide (n ≤ e.at_)).filter fun e => decide (n ≤ e.at_) } : Group) = _
  rw [h1, h2]
  rfl

/-- What a strand sees as well stays out of the file. -/
theorem uSettle_uv (g : Group) (n : Nat) (uv : AMap Word) (uw : List (Nat × Word)) :
    uSettle { g with uv := uv, uw := uw } n = { uSettle g n with uv := uv, uw := uw } := by
  have h := foldl_uApply_parts (g.uq.filter fun e => decide (e.at_ < n)) (g := { g with uv := uv, uw := uw }) (h := g) rfl rfl rfl
  unfold uSettle
  dsimp only
  rw [foldl_uApply_only, foldl_uApply_only (g := g), h.1, h.2.1, h.2.2]

/-- A context as an issue cycle finds it is so found again. -/
theorem groupAt_atIssue (c : Ctx) (i : Instr) :
    groupAt (atIssue c i) i = { groupAt c i with uv := (begun c i).g.uv, uw := [] } := by
  have h := uSettle_uv (groupAt c i) (lastCycle c (firstWord i)) (begun c i).g.uv []
  rw [groupAt, uSettle_idem] at h
  exact h

theorem atIssue_atIssue (c : Ctx) (i : Instr) : atIssue (atIssue c i) i = atIssue c i := by
  have : (begun (atIssue c i) i).g = (begun c i).g := by
    show uView (groupAt (atIssue c i) i) _ _ = _
    rw [groupAt_atIssue]; rfl
  show ({ c with g := (begun (atIssue c i) i).g } : Ctx) = _
  rw [this]; rfl

theorem begun_atIssue (c : Ctx) (i : Instr) : begun (atIssue c i) i = begun c i := by
  have := congrArg Ctx.g (atIssue_atIssue c i)
  have h : (begun (atIssue c i) i).g = (begun c i).g := this
  show ({ atIssue c i with g := (begun (atIssue c i) i).g, st := strandAt (atIssue c i) i } : Ctx) = _
  rw [h]; rfl

theorem issued_atIssue (c : Ctx) (i : Instr) : issued (atIssue c i) i = issued c i := by simp only [issued, groupAt_atIssue]

theorem issued_only (c : Ctx) (i : Instr) :
    issued c i = { c.g with
      k := (issued c i).k, q := (issued c i).q, gset := (issued c i).gset, uq := (issued c i).uq, uv := [], uw := [] } := by
  have := uSettle_only c.g (lastCycle c (firstWord i))
  simp only [issued, groupAt]
  rw [this]

theorem chargeInstr_atIssue (s : State) (c : Ctx) (i : Instr) (w : Word) : chargeInstr s (atIssue c i) w = chargeInstr s c w := by
  have h : (atIssue c i).g.ctx = c.g.ctx := by
    show (begun c i).g.ctx = _
    rw [begun_group, issued_only]
  simp only [chargeInstr, h]
  rfl

/-! ## What issuing means, said of the context as the issue cycle finds it -/

/-- An instruction that issues performs its own execution. -/
theorem runInstr_issues {i : Instr} {s : State} {c : Ctx} (h : Issues i s c) (body : State → Ctx → Done) :
    ∃ k, Ready i s k ∧ c = atIssue k i ∧
      runInstr i body s = .next (concluded i s k (body (chargeInstr s c (firstWord i)) (begun c i))) := by
  obtain ⟨k, hk, rfl⟩ := h
  exact ⟨k, hk, rfl, by rw [runInstr_ready hk, chargeInstr_atIssue, begun_atIssue]⟩

/-- The strand at work is the one of the context. -/
theorem issues_spec {i : Instr} {s : State} {c : Ctx} (h : Issues i s c) :
    s.cur = some (c.core, c.slot, c.st.sid) ∧ findStrand c.g c.st.sid = some c.st ∧ c.pc0 = c.st.pc ∧ c.gone = false := by
  obtain ⟨k, hk, rfl⟩ := h
  obtain ⟨h1, _, h3, h4, h5⟩ := curCtx_spec hk.1
  refine ⟨h1, ?_, h4, h5⟩
  have : (atIssue k i).g.strands = k.g.strands := by
    show (begun k i).g.strands = _
    rw [begun_group, issued_only]
  show findStrand (atIssue k i).g k.st.sid = some k.st
  rw [← h3]; simp only [findStrand, this]

/-- The context is that of the instruction's own execution, before the strand is counted on. -/
theorem begun_of_issues {i : Instr} {s : State} {c : Ctx} (h : Issues i s c) : begun c i = { c with st := strandAt c i } := by
  obtain ⟨k, _, rfl⟩ := h
  rw [begun_atIssue]; rfl

theorem begun_g {i : Instr} {s : State} {c : Ctx} (h : Issues i s c) : (begun c i).g = c.g := by rw [begun_of_issues h]

/-- The checks of R39 have passed. -/
theorem issues_checks {i : Instr} {s : State} {c : Ctx} (h : Issues i s c) :
    (if (firstWord i).getLsbD 31 then groupOperandOk c.st.fmt c.g.nregs (firstWord i)
      else laneOperandOk c.st.fmt c.g.nregs (firstWord i)) = true := by
  obtain ⟨k, hk, rfl⟩ := h
  have : (atIssue k i).g.nregs = k.g.nregs := by
    show (begun k i).g.nregs = _
    rw [begun_group, issued_only]
  rw [this]
  exact (ready_checks hk).2.2.2.2

/-- What a completed instruction leaves, from what its own execution gave: `e` is the state before the issue with the
instruction's effect outside its group. -/
theorem completed_of_ok {i : Instr} {s : State} {c : Ctx} (h : Issues i s c) {body : State → Ctx → Done} {s' : State} {d : Ctx}
    (hb : body (chargeInstr s c (firstWord i)) (begun c i) = .ok s' d) (e : State)
    (he : Untouched c e s') (hcur : s'.cur = s.cur) (hcore : d.core = c.core) (hslot : d.slot = c.slot) (hgone : d.gone = false)
    (hsid : d.st.sid = c.st.sid) (hstat : d.st.status = c.st.status) (hcnt : d.st.cnt = c.st.cnt + 1)
    (hstr : d.g.strands = c.g.strands) :
    ∃ t c', runInstr i body s = .next t ∧ Completed i c e t c' ∧ c'.g = { sent c i d.g with strands := c'.g.strands } ∧
      c'.st = lastOf (eOf i) d.st ∧ c'.core = c.core ∧ c'.slot = c.slot := by
  obtain ⟨h1, h3, _, _⟩ := issues_spec h
  obtain ⟨k, _, rfl, hrun⟩ := runInstr_issues h body
  have hfind : ∀ sid, findStrand (sent (atIssue k i) i d.g) sid = findStrand (atIssue k i).g sid := fun sid => by
    show d.g.strands.find? _ = _
    rw [hstr]; rfl
  have hs : (findStrand (sent (atIssue k i) i d.g) d.st.sid).isSome := by rw [hfind, hsid, h3]; rfl
  refine ⟨conclude (eOf i) s' { d with g := sent (atIssue k i) i d.g },
    ⟨d.core, d.slot, setStrand (sent (atIssue k i) i d.g) (lastOf (eOf i) d.st), lastOf (eOf i) d.st,
    (lastOf (eOf i) d.st).pc, false⟩, ?_, ⟨?_, ?_, ?_, ?_, ?_⟩, rfl, rfl, hcore, hslot⟩
  · rw [hrun, hb]; rfl
  · rw [← hcore, ← hslot, ← hsid]
    exact conclude_strand _ _ { d with g := sent (atIssue k i) i d.g } hgone hs
  · exact untouched_trans he (untouched_congr (untouched_conclude _ s' { d with g := sent (atIssue k i) i d.g }) hcore.symm hslot.symm)
  · intro sid hne
    show findStrand (setStrand (sent (atIssue k i) i d.g) _) sid = _
    rw [findStrand_setStrand, lastOf_sid, hsid, if_neg hne, hfind]
  · intro hE
    rw [conclude_cur, hE]
    exact ⟨by simpa [hcur] using h1, by simp [lastOf, hstat], by simp [lastOf, hcnt]⟩
  · intro hE
    rw [conclude_cur, hE]
    exact ⟨rfl, rfl, rfl, rfl⟩

end Sys2Proof.Machine
end

