-- ==== Sys2Proof/Laws/Lanes.lean ====
section
/-! SUPPORT. Registers, predicates and latch positions after writes, and what an instruction that writes lane results
leaves. -/

namespace Sys2Proof.Machine

/-! ## Registers -/

theorem vkey_inj {l r l' r' : Nat} (h : r < 128) (h' : r' < 128) : vkey l r = vkey l' r' ↔ l = l' ∧ r = r' := by
  unfold vkey; omega

theorem readV_writeV (g : Group) {l r l' r' : Nat} (x : Word) (h : r < 128) (h' : r' < 128) :
    readV (writeV g l r x) l' r' = if l' = l ∧ r' = r then x else readV g l' r' := by
  unfold readV writeV
  rw [mget_mset]
  simp only [vkey_inj h' h]

theorem writeV_only (g : Group) (l r : Nat) (x : Word) : writeV g l r x = { g with v := (writeV g l r x).v } := rfl

theorem readK_writeK (g : Group) (r r' : Nat) (x : Word) : readK (writeK g r x) r' = if r' = r then x else readK g r' := by
  show (mfind (mput g.uv r x) r').getD (mget 0 g.k r') = _
  rw [mfind_mput]
  split <;> rfl

theorem writeDst_only (g : Group) (k : SK) (d l x : Nat) : writeDst g k d l x = { g with v := (writeDst g k d l x).v } := by
  unfold writeDst
  split
  · rfl
  · split <;> rfl

theorem readV_writeDst (g : Group) (k : SK) (d l x l' r : Nat) (hr : r < 96) :
    readV (writeDst g k d l x) l' r = if l' = l then (dstWord k d x r).getD (readV g l' r) else readV g l' r := by
  unfold writeDst dstWord
  by_cases hd : 96 ≤ d
  · simp [hd]
  · rw [if_neg hd, if_neg hd]
    have h1 : r < 128 := by omega
    cases k
    case none => simp
    case n =>
      simp only []
      rw [readV_writeV _ _ (by omega) h1]
      by_cases hl : l' = l <;> by_cases hrd : r = d <;> simp [hl, hrd]
    case q =>
      simp only []
      rw [readV_writeV _ _ (by omega) h1, readV_writeV _ _ (by omega) h1, readV_writeV _ _ (by omega) h1,
        readV_writeV _ _ (by omega) h1]
      by_cases hl : l' = l
      · subst hl
        by_cases h3 : r = d + 3
        · subst h3; simp
        · by_cases h2 : r = d + 2
          · subst h2; simp
          · by_cases h1 : r = d + 1
            · subst h1; simp
            · by_cases h0 : r = d
              · subst h0; simp
              · have : ¬ (d ≤ r ∧ r < d + 4) := by omega
                simp [h3, h2, h1, h0, this]
      · simp [hl]
    all_goals
      simp only []
      rw [readV_writeV _ _ (by omega) h1, readV_writeV _ _ (by omega) h1]
      by_cases hl : l' = l
      · subst hl
        by_cases h1 : r = d + 1
        · subst h1; simp
        · by_cases h0 : r = d
          · subst h0; simp
          · have : ¬ (d ≤ r ∧ r < d + 2) := by omega
            simp [h1, h0, this]
      · simp [hl]

/-- Results written to lanes one after the other. -/
def writeResults (g : Group) (k : SK) (d : Nat) (ls : List Nat) (f : Nat → Nat) : Group :=
  (ls.map fun l => (l, f l)).foldl (fun g r => writeDst g k d r.1 r.2) g

theorem writeResults_only (g : Group) (k : SK) (d : Nat) (ls : List Nat) (f : Nat → Nat) :
    writeResults g k d ls f = { g with v := (writeResults g k d ls f).v } := by
  induction ls generalizing g with
  | nil => rfl
  | cons a t ih =>
    have h := ih (writeDst g k d a (f a))
    have h2 := writeDst_only g k d a (f a)
    show writeResults (writeDst g k d a (f a)) k d t f = { g with v := (writeResults (writeDst g k d a (f a)) k d t f).v }
    rw [h, h2]

theorem readV_writeResults (g : Group) (k : SK) (d : Nat) (ls : List Nat) (f : Nat → Nat) (l r : Nat) (hr : r < 96) :
    readV (writeResults g k d ls f) l r =
      if l ∈ ls then (dstWord k d (f l) r).getD (readV g l r) else readV g l r := by
  induction ls generalizing g with
  | nil => rfl
  | cons a t ih =>
    have h := ih (writeDst g k d a (f a))
    show readV (writeResults (writeDst g k d a (f a)) k d t f) l r = _
    rw [h, readV_writeDst _ _ _ _ _ _ _ hr]
    by_cases ha : l = a
    · subst ha
      by_cases ht : l ∈ t
      · simp only [ht, if_true, List.mem_cons, true_or]
        cases dstWord k d (f l) r <;> rfl
      · simp [ht]
    · by_cases ht : l ∈ t <;> simp [ht, ha]

theorem writeLanes_g (c : Ctx) (k : SK) (d : Nat) (ls : List Nat) (f : Nat → Nat) :
    (writeLanes c k d (ls.map fun l => (l, f l))).g = writeResults c.g k d ls f := rfl

theorem writeLanes_st (c : Ctx) (k : SK) (d : Nat) (rs : List (Nat × Nat)) :
    (writeLanes c k d rs).st = { c.st with lat := c.st.lat ++ [latchOf k rs] } := rfl

/-- A fold of writes of a function of the key. -/
theorem mget_foldl_fn {α : Type} [DecidableEq α] (d : α) (ls : List Nat) (f : Nat → α) (m : AMap α) (l : Nat) :
    mget d (ls.foldl (fun m l => mset d m l (f l)) m) l = if l ∈ ls then f l else mget d m l := by
  induction ls generalizing m with
  | nil => rfl
  | cons a t ih =>
    simp only [List.foldl_cons]
    rw [ih, mget_mset]
    by_cases ha : l = a
    · subst ha; by_cases ht : l ∈ t <;> simp [ht]
    · by_cases ht : l ∈ t <;> simp [ht, ha]

theorem latchHas_latchOf (k : SK) (ls : List Nat) (f : Nat → Nat) (l : Nat) :
    latchHas (latchOf k (ls.map fun l => (l, f l))) l = latchShould k ls f l := by
  cases k <;> simp only [latchOf, latchHas, latchShould, List.foldl_map] <;>
    first
      | rfl
      | (rw [mget_foldl_fn (f := fun l => BitVec.ofNat _ (f l))]; split <;> simp)

/-! ## Predicates -/

theorem getLsbD_setBit (b : Byte) (n m : Nat) (x : Bool) (hn : n < 8) (hm : m < 8) :
    (setBit b n x).getLsbD m = if m = n then x else b.getLsbD m := by
  unfold setBit
  cases x
  · simp only [Bool.false_eq_true, if_false, BitVec.getLsbD_and, BitVec.getLsbD_not, hm, decide_true, Bool.true_and]
    rw [BitVec.getLsbD_shiftLeft]
    by_cases h : m = n
    · subst h; simp [hm]
    · by_cases h' : m < n
      · simp [h, h', hm]
      · have : m - n ≠ 0 := by omega
        simp [h, h', hm, this]
  · simp only [if_true, BitVec.getLsbD_or]
    rw [BitVec.getLsbD_shiftLeft]
    by_cases h : m = n
    · subst h; simp [hm]
    · by_cases h' : m < n
      · simp [h, h', hm]
      · have : m - n ≠ 0 := by omega
        simp [h, h', hm, this]

theorem readP_writeP (g : Group) (l n l' m : Nat) (x : Bool) (hn : n < 8) (hm : m < 8) :
    readP (writeP g l n x) l' m = if l' = l ∧ m = n ∧ n ≠ 0 then x else readP g l' m := by
  unfold writeP
  by_cases h0 : n = 0
  · simp [h0]
  · rw [if_neg h0]
    unfold readP
    simp only [mget_mset]
    by_cases hl : l' = l
    · subst hl
      simp only [if_true, getLsbD_setBit _ _ _ _ hn hm]
      by_cases hmn : m = n
      · subst hmn; simp [h0]
      · simp [hmn]
    · simp [hl]

theorem readOpen_writeOpen (g : Group) (l n l' m : Nat) (x : Bool) (hn : n < 8) (hm : m < 8) :
    readOpen (writeOpen g l n x) l' m = if l' = l ∧ m = n ∧ n ≠ 0 then x else readOpen g l' m := by
  unfold writeOpen
  by_cases h0 : n = 0
  · simp [h0]
  · rw [if_neg h0]
    unfold readOpen
    simp only [mget_mset]
    by_cases hl : l' = l
    · subst hl
      simp only [if_true, getLsbD_setBit _ _ _ _ hn hm]
      by_cases hmn : m = n
      · subst hmn; simp [h0]
      · simp [hmn]
    · simp [hl]

theorem readP_writeOpen (g : Group) (l n l' m : Nat) (x : Bool) : readP (writeOpen g l n x) l' m = readP g l' m := by
  unfold writeOpen; split <;> rfl

theorem readOpen_writeP (g : Group) (l n l' m : Nat) (x : Bool) : readOpen (writeP g l n x) l' m = readOpen g l' m := by
  unfold writeP; split <;> rfl

theorem writeP_only (g : Group) (l n : Nat) (x : Bool) : writeP g l n x = { g with p := (writeP g l n x).p } := by
  unfold writeP; split <;> rfl

theorem writeOpen_only (g : Group) (l n : Nat) (x : Bool) : writeOpen g l n x = { g with op := (writeOpen g l n x).op } := by
  unfold writeOpen; split <;> rfl

/-- Predicates written to lanes one after the other. -/
def predResults (g : Group) (n : Nat) (ls : List Nat) (f : Nat → Bool × Bool) : Group :=
  (ls.map fun l => (l, f l)).foldl (fun g r => writeOpen (writeP g r.1 n r.2.1) r.1 n r.2.2) g

theorem predResults_only (g : Group) (n : Nat) (ls : List Nat) (f : Nat → Bool × Bool) :
    predResults g n ls f = { g with p := (predResults g n ls f).p, op := (predResults g n ls f).op } := by
  induction ls generalizing g with
  | nil => rfl
  | cons a t ih =>
    have h := ih (writeOpen (writeP g a n (f a).1) a n (f a).2)
    show predResults (writeOpen (writeP g a n (f a).1) a n (f a).2) n t f = { g with
      p := (predResults (writeOpen (writeP g a n (f a).1) a n (f a).2) n t f).p
      op := (predResults (writeOpen (writeP g a n (f a).1) a n (f a).2) n t f).op }
    rw [h, writeOpen_only, writeP_only]

theorem readP_predResults (g : Group) (n : Nat) (hn : n < 8) (ls : List Nat) (f : Nat → Bool × Bool) (l m : Nat)
    (hm : m < 8) :
    readP (predResults g n ls f) l m = if l ∈ ls ∧ m = n ∧ n ≠ 0 then (f l).1 else readP g l m := by
  induction ls generalizing g with
  | nil => simp [predResults]
  | cons a t ih =>
    have h := ih (writeOpen (writeP g a n (f a).1) a n (f a).2)
    show readP (predResults (writeOpen (writeP g a n (f a).1) a n (f a).2) n t f) l m = _
    rw [h, readP_writeOpen, readP_writeP _ _ _ _ _ _ hn hm]
    by_cases ha : l = a
    · subst ha
      by_cases hm' : m = n ∧ n ≠ 0
      · by_cases ht : l ∈ t <;> simp [ht, hm']
      · by_cases ht : l ∈ t <;> simp [ht, hm']
    · by_cases ht : l ∈ t <;> simp [ht, ha]

theorem readOpen_predResults (g : Group) (n : Nat) (hn : n < 8) (ls : List Nat) (f : Nat → Bool × Bool) (l m : Nat)
    (hm : m < 8) :
    readOpen (predResults g n ls f) l m = if l ∈ ls ∧ m = n ∧ n ≠ 0 then (f l).2 else readOpen g l m := by
  induction ls generalizing g with
  | nil => simp [predResults]
  | cons a t ih =>
    have h := ih (writeOpen (writeP g a n (f a).1) a n (f a).2)
    show readOpen (predResults (writeOpen (writeP g a n (f a).1) a n (f a).2) n t f) l m = _
    rw [h, readOpen_writeOpen _ _ _ _ _ _ hn hm, readOpen_writeP]
    by_cases ha : l = a
    · subst ha
      by_cases hm' : m = n ∧ n ≠ 0
      · by_cases ht : l ∈ t <;> simp [ht, hm']
      · by_cases ht : l ∈ t <;> simp [ht, hm']
    · by_cases ht : l ∈ t <;> simp [ht, ha]

theorem writePreds_g (c : Ctx) (n : Nat) (ls : List Nat) (f : Nat → Bool × Bool) :
    (writePreds c n (ls.map fun l => (l, f l))).g = predResults c.g n ls f := rfl

/-! ## q and j -/

theorem readQ_writeQ (g : Group) (n m : Nat) (x : Bool) :
    readQ (writeQ g n x) m = if m = n ∧ n ≠ 0 then x else readQ g m := by
  unfold writeQ
  by_cases h0 : n = 0
  · simp [h0]
  · rw [if_neg h0]
    unfold readQ uPut
    simp only [mfind_mput]
    by_cases h : m = n
    · subst h; cases x <;> simp [h0]
    · simp [h]

theorem readK_writeQ (g : Group) (n : Nat) (x : Bool) (r : Nat) (hr : r < 64) : readK (writeQ g n x) r = readK g r := by
  unfold writeQ
  split
  · rfl
  · unfold readK uPut
    simp only [mfind_mput]
    rw [if_neg (by omega)]

/-- What the writes `ws` of an instruction leave of a group. -/
def putAll (g : Group) (ws : List (Nat × Word)) : Group := ws.foldl (fun g w => uPut g w.1 w.2) g

theorem putAll_only (g : Group) (ws : List (Nat × Word)) :
    putAll g ws = { g with uv := (putAll g ws).uv, uw := g.uw ++ ws } := by
  induction ws generalizing g with
  | nil => simp [putAll]
  | cons w t ih =>
    have h := ih (uPut g w.1 w.2)
    show putAll (uPut g w.1 w.2) t = _
    rw [h]
    show ({ g with uv := (putAll (uPut g w.1 w.2) t).uv, uw := (g.uw ++ [(w.1, w.2)]) ++ t } : Group) = _
    simp only [List.append_assoc, List.singleton_append]
    rfl

theorem writeK_all (g : Group) (r : Nat) (x : Word) : writeK g r x = putAll g (kIs r x) := rfl
theorem writeJ_all (g : Group) (r : Nat) (x : Dword) : writeJ g r x = putAll g (jIs r x) := rfl
theorem writeQ_all (g : Group) (n : Nat) (x : Bool) : writeQ g n x = putAll g (qIs n x) := by
  unfold writeQ qIs; split <;> rfl

theorem putAll_append (g : Group) (ws vs : List (Nat × Word)) : putAll (putAll g ws) vs = putAll g (ws ++ vs) := by
  simp [putAll]

theorem readK_writeJ (g : Group) (r r' : Nat) (x : Dword) :
    readK (writeJ g r x) r' =
      if r' = r + 1 then x.extractLsb' 32 32 else if r' = r then x.extractLsb' 0 32 else readK g r' := by
  unfold writeJ
  rw [readK_writeK, readK_writeK]

theorem readJ_writeJ (g : Group) (r : Nat) (x : Dword) : readJ (writeJ g r x) r = x := by
  unfold readJ
  rw [readK_writeJ, readK_writeJ]
  simp
  apply BitVec.eq_of_getLsbD_eq
  intro i hi
  rw [BitVec.getLsbD_append]
  by_cases h : i < 32
  · simp [h]
  · have e : 32 + (i - 32) = i := by omega
    simp [h, e]; omega

/-! ## Sources -/

theorem latchVal_lt (lat : List Latch) (c l : Nat) : latchVal lat c l < 2 ^ 64 := by
  unfold latchVal
  split
  · exact Nat.lt_of_lt_of_le (BitVec.isLt _) (by norm_num)
  · exact BitVec.isLt _
  · norm_num

/-- A wide slot, FP64 or not, gives a 64-bit value. -/
theorem readSlot_wide_lt (c : Ctx) (k : SK) (hk : k = .w ∨ k = .f) (code : Nat) (lit : Word) (l : Nat) :
    readSlot c k code lit l < 2 ^ 64 := by
  have h : ∀ x y : Word, x.toNat + 2 ^ 32 * y.toNat < 2 ^ 64 := fun x y => by
    have := x.isLt; have := y.isLt; omega
  have h2 : lit.toNat * 2 ^ 32 < 2 ^ 64 := by have := lit.isLt; omega
  rcases hk with rfl | rfl <;> simp only [readSlot, reduceCtorEq, if_true, if_false] <;> split_ifs <;>
    first
      | with_reducible exact h _ _
      | with_reducible exact latchVal_lt _ _ _
      | with_reducible exact h2
      | with_reducible exact BitVec.isLt _
      | with_reducible exact Nat.two_pow_pos 64

/-- A narrow slot gives a 32-bit value. -/
theorem readSlot_narrow_lt (c : Ctx) (code : Nat) (lit : Word) {l : Nat} (hl : l < 64) :
    readSlot c .n code lit l < 2 ^ 32 := by
  have h1 : ∀ x : Word, x.toNat < 2 ^ 32 := fun x => x.isLt
  have h2 : l < 2 ^ 32 := by omega
  have h3 : ∀ x, x % 2 ^ 32 < 2 ^ 32 := fun x => Nat.mod_lt _ (by norm_num)
  simp only [readSlot]
  split_ifs <;>
    first
      | with_reducible exact h1 _
      | with_reducible exact h2
      | with_reducible exact h3 _
      | with_reducible exact Nat.two_pow_pos 32

theorem mem_lanesOf {m : Dword} {l : Nat} : l ∈ lanesOf m ↔ l < 64 ∧ m.getLsbD l = true := by
  simp [lanesOf, List.mem_filter]

theorem mem_guardLanes {c : Ctx} {g : BitVec 2} {l : Nat} :
    l ∈ guardLanes c g ↔ l < 64 ∧ c.st.mask.getLsbD l = true ∧ readP c.g l g.toNat = true := by
  simp [guardLanes, List.mem_filter, mem_lanesOf, guardTrue, and_assoc]

/-! ## Instructions that write lane results -/

/-- The values of other lanes do not matter. -/
theorem laneDone_congr {i : Instr} {c : Ctx} {s t : State} {c' : Ctx} {k : SK} {d : Nat} {ls : List Nat} {f f' : Nat → Nat}
    {fl : Word} (h : LaneDone i c s t c' k d ls f fl) (hf : ∀ l ∈ ls, f l = f' l) : LaneDone i c s t c' k d ls f' fl where
  done := h.done
  pc := h.pc
  strand := h.strand
  fx := h.fx
  group := h.group
  regs l r hr := by
    rw [h.regs l r hr]
    split
    · rw [hf l ‹_›]
    · rfl
  latch hE := by
    obtain ⟨m, h1, h2⟩ := h.latch hE
    refine ⟨m, h1, fun l => ?_⟩
    rw [h2 l]
    unfold latchShould
    by_cases hl : l ∈ ls
    · rw [hf l hl]
    · simp [hl]

/-- The values of other lanes do not matter. -/
theorem predDone_congr {i : Instr} {c : Ctx} {s t : State} {c' : Ctx} {n : Nat} {ls : List Nat} {f f' : Nat → Bool × Bool}
    {fl : Word} (h : PredDone i c s t c' n ls f fl) (hf : ∀ l ∈ ls, f l = f' l) : PredDone i c s t c' n ls f' fl where
  done := h.done
  pc := h.pc
  strand := h.strand
  fx := h.fx
  group := h.group
  preds l m hm := by
    rw [h.preds l m hm]
    split
    · rw [hf l (‹_ ∧ _›).1]
    · rfl
  opens l m hm := by
    rw [h.opens l m hm]
    split
    · rw [hf l (‹_ ∧ _›).1]
    · rfl
  latch := h.latch

theorem raise_zero (c : Ctx) : raise c 0 = c := by
  have h : c.st.fx ||| 0 = c.st.fx := by simp
  unfold raise
  rw [h]

/-- The results of lanes, with flags, as the whole effect of an instruction. -/
theorem lane_completes {i : Instr} {s : State} {c : Ctx} (h : Issues i s c) {body : State → Ctx → Done} {k : SK} {d : Nat}
    {ls : List Nat} {f : Nat → Nat} {fl : Word}
    (hb : ∀ s', body s' (begun c i) = .ok s' (raise (writeLanes (begun c i) k d (ls.map fun l => (l, f l))) fl)) :
    ∃ t c', runInstr i body s = .next t ∧ LaneDone i c s t c' k d ls f fl := by
  obtain ⟨_, _, hpc, hgone⟩ := issues_spec h
  obtain ⟨t, c', h1, h2, h3, h4, _, _⟩ := completed_of_ok h (hb _) s (untouched_chargeInstr s c _)
    (by unfold chargeInstr; split <;> rfl) rfl rfl hgone rfl rfl rfl
    (by
      show (writeResults (begun c i).g k d ls f).strands = _
      rw [writeResults_only, begun_g h])
  have hg : (raise (writeLanes (begun c i) k d (ls.map fun l => (l, f l))) fl).g = writeResults (begun c i).g k d ls f := rfl
  rw [hg, writeResults_only] at h3
  refine ⟨t, c', h1, h2, ?_, ?_, ?_, ?_, ?_, ?_⟩
  · rw [h4, nextPc, ← hpc]; cases eOf i <;> rfl
  · rw [OnlyFx, OnlyPc, h4]; cases eOf i <;> rfl
  · rw [h4]; cases eOf i <;> rfl
  · rw [OnlyV, h3]; rfl
  · intro l r hr
    rw [← show readV (begun c i).g l r = readV c.g l r by rw [begun_g h], ← readV_writeResults _ _ _ _ _ _ _ hr, h3]; rfl
  · intro hE
    exact ⟨_, by rw [h4, hE]; rfl, fun l => latchHas_latchOf k ls f l⟩

/-- The same for an instruction that raises no flag. -/
theorem lane_completes_plain {i : Instr} {s : State} {c : Ctx} (h : Issues i s c) {body : State → Ctx → Done} {k : SK}
    {d : Nat} {ls : List Nat} {f : Nat → Nat}
    (hb : ∀ s', body s' (begun c i) = .ok s' (writeLanes (begun c i) k d (ls.map fun l => (l, f l)))) :
    ∃ t c', runInstr i body s = .next t ∧ LaneDone i c s t c' k d ls f 0 :=
  lane_completes h (fl := 0) fun s' => by rw [hb s', raise_zero]

/-- The same with the values given in another form. -/
theorem lane_completes_as {i : Instr} {s : State} {c : Ctx} (h : Issues i s c) {body : State → Ctx → Done} {k : SK}
    {d : Nat} {ls : List Nat} {f : Nat → Nat} (f' : Nat → Nat)
    (hb : ∀ s', body s' (begun c i) = .ok s' (writeLanes (begun c i) k d (ls.map fun l => (l, f l))))
    (hf : ∀ l ∈ ls, f l = f' l) :
    ∃ t c', runInstr i body s = .next t ∧ LaneDone i c s t c' k d ls f' 0 := by
  obtain ⟨t, c', h1, h2⟩ := lane_completes_plain h hb
  exact ⟨t, c', h1, laneDone_congr h2 hf⟩

/-- Predicates of lanes as the whole effect of an instruction. -/
theorem pred_completes {i : Instr} {s : State} {c : Ctx} (h : Issues i s c) {body : State → Ctx → Done} {n : Nat} (hn : n < 8)
    {ls : List Nat} {f : Nat → Bool × Bool} {fl : Word}
    (hb : ∀ s', body s' (begun c i) = .ok s' (raise (writePreds (begun c i) n (ls.map fun l => (l, f l))) fl)) :
    ∃ t c', runInstr i body s = .next t ∧ PredDone i c s t c' n ls f fl := by
  obtain ⟨_, _, hpc, hgone⟩ := issues_spec h
  obtain ⟨t, c', h1, h2, h3, h4, _, _⟩ := completed_of_ok h (hb _) s (untouched_chargeInstr s c _)
    (by unfold chargeInstr; split <;> rfl) rfl rfl hgone rfl rfl rfl
    (by
      show (predResults (begun c i).g n ls f).strands = _
      rw [predResults_only, begun_g h])
  have hg : (raise (writePreds (begun c i) n (ls.map fun l => (l, f l))) fl).g = predResults (begun c i).g n ls f := rfl
  rw [hg, predResults_only] at h3
  refine ⟨t, c', h1, h2, ?_, ?_, ?_, ?_, ?_, ?_, ?_⟩
  · rw [h4, nextPc, ← hpc]; cases eOf i <;> rfl
  · rw [OnlyFx, OnlyPc, h4]; cases eOf i <;> rfl
  · rw [h4]; cases eOf i <;> rfl
  · rw [OnlyP, h3]; rfl
  · intro l m hm
    rw [← show readP (begun c i).g l m = readP c.g l m by rw [begun_g h], ← readP_predResults _ _ hn _ _ _ _ hm, h3]; rfl
  · intro l m hm
    rw [← show readOpen (begun c i).g l m = readOpen c.g l m by rw [begun_g h], ← readOpen_predResults _ _ hn _ _ _ _ hm, h3]; rfl
  · intro hE
    rw [h4, hE]; rfl

/-- The same for an instruction that raises no flag, with the values given in another form. -/
theorem pred_completes_as {i : Instr} {s : State} {c : Ctx} (h : Issues i s c) {body : State → Ctx → Done} {n : Nat} (hn : n < 8)
    {ls : List Nat} {f : Nat → Bool × Bool} (f' : Nat → Bool × Bool)
    (hb : ∀ s', body s' (begun c i) = .ok s' (writePreds (begun c i) n (ls.map fun l => (l, f l))))
    (hf : ∀ l ∈ ls, f l = f' l) :
    ∃ t c', runInstr i body s = .next t ∧ PredDone i c s t c' n ls f' 0 := by
  obtain ⟨t, c', h1, h2⟩ := pred_completes (body := body) (f := f) (ls := ls) (fl := 0) h hn (fun s' => by rw [hb s', raise_zero])
  exact ⟨t, c', h1, predDone_congr h2 hf⟩

end Sys2Proof.Machine
end

