-- ==== Sys2Proof/Laws/Words.lean ====
section
/-! SUPPORT. The fields of encoded words: what each field of a lane word or a group word made by the encoder reads as. -/

namespace Sys2Proof

/-! ## Lane words (R12) -/

section Lane

variable (e : Bool) (op : BitVec 7) (g : BitVec 2) (r : BitVec 21)

theorem lane_group : (laneWord e op g r).getLsbD 31 = false := by
  rw [laneWord, BitVec.getLsbD_append, if_neg (by omega), BitVec.getLsbD_append, if_neg (by omega), BitVec.getLsbD_append,
    if_neg (by omega), BitVec.getLsbD_append]
  simp
theorem lane_e : (laneWord e op g r).getLsbD 30 = e := by
  rw [laneWord, BitVec.getLsbD_append, if_neg (by omega), BitVec.getLsbD_append, if_neg (by omega), BitVec.getLsbD_append,
    if_neg (by omega), BitVec.getLsbD_append]
  simp

theorem lane_op : (laneWord e op g r).extractLsb' 23 7 = op := by
  apply BitVec.eq_of_getLsbD_eq
  intro i hi
  simp only [laneWord, BitVec.getLsbD_extractLsb', BitVec.getLsbD_append, hi, decide_true, Bool.true_and]
  rw [if_neg (by omega), if_neg (by omega), if_pos (by omega)]
  congr 1
  omega

theorem lane_g : (laneWord e op g r).extractLsb' 21 2 = g := by
  apply BitVec.eq_of_getLsbD_eq
  intro i hi
  simp only [laneWord, BitVec.getLsbD_extractLsb', BitVec.getLsbD_append, hi, decide_true, Bool.true_and]
  rw [if_neg (by omega), if_pos (by omega)]
  congr 1
  omega

theorem lane_rest (s n : Nat) (h : s + n ≤ 21) : (laneWord e op g r).extractLsb' s n = r.extractLsb' s n := by
  apply BitVec.eq_of_getLsbD_eq
  intro i hi
  simp only [laneWord, BitVec.getLsbD_extractLsb', BitVec.getLsbD_append, hi, decide_true, Bool.true_and]
  rw [if_pos (by omega)]

end Lane

/-! ## Group words (R24) -/

section Group

variable (e : Bool) (op : BitVec 6) (r : BitVec 24)

theorem group_group : (groupWord e op r).getLsbD 31 = true := by
  rw [groupWord, BitVec.getLsbD_append, if_neg (by omega), BitVec.getLsbD_append, if_neg (by omega), BitVec.getLsbD_append]
  simp
theorem group_e : (groupWord e op r).getLsbD 30 = e := by
  rw [groupWord, BitVec.getLsbD_append, if_neg (by omega), BitVec.getLsbD_append, if_neg (by omega), BitVec.getLsbD_append]
  simp

theorem group_op : (groupWord e op r).extractLsb' 24 6 = op := by
  apply BitVec.eq_of_getLsbD_eq
  intro i hi
  simp only [groupWord, BitVec.getLsbD_extractLsb', BitVec.getLsbD_append, hi, decide_true, Bool.true_and]
  rw [if_neg (by omega), if_pos (by omega)]
  congr 1
  omega

theorem group_rest (s n : Nat) (h : s + n ≤ 24) : (groupWord e op r).extractLsb' s n = r.extractLsb' s n := by
  apply BitVec.eq_of_getLsbD_eq
  intro i hi
  simp only [groupWord, BitVec.getLsbD_extractLsb', BitVec.getLsbD_append, hi, decide_true, Bool.true_and]
  rw [if_pos (by omega)]

end Group

/-! ## Parts of an append -/

/-- The upper part of an append. -/
theorem extract_hi {a b : Nat} (x : BitVec a) (y : BitVec b) : (x ++ y).extractLsb' b a = x := by
  apply BitVec.eq_of_getLsbD_eq
  intro i hi
  simp only [BitVec.getLsbD_extractLsb', BitVec.getLsbD_append, hi, decide_true, Bool.true_and]
  rw [if_neg (by omega)]
  congr 1
  omega

/-- A part that lies in the lower operand. -/
theorem extract_lo {a b : Nat} (x : BitVec a) (y : BitVec b) (s n : Nat) (h : s + n ≤ b) :
    (x ++ y).extractLsb' s n = y.extractLsb' s n := by
  apply BitVec.eq_of_getLsbD_eq
  intro i hi
  simp only [BitVec.getLsbD_extractLsb', BitVec.getLsbD_append, hi, decide_true, Bool.true_and]
  rw [if_pos (by omega)]

theorem extract_all {b : Nat} (y : BitVec b) : y.extractLsb' 0 b = y := by simp

/-! ## The operand fields of each layout -/

theorem rest_d (d a b : BitVec 7) : (d ++ a ++ b : BitVec 21).extractLsb' 14 7 = d := by
  rw [show (d ++ a ++ b : BitVec 21) = (d ++ (a ++ b : BitVec 14) : BitVec 21) from by
    rw [BitVec.append_assoc]; rfl]
  exact extract_hi d _

theorem rest_a (d a b : BitVec 7) : (d ++ a ++ b : BitVec 21).extractLsb' 7 7 = a := by
  rw [show (d ++ a ++ b : BitVec 21) = (d ++ (a ++ b : BitVec 14) : BitVec 21) from by
    rw [BitVec.append_assoc]; rfl, extract_lo _ _ _ _ (by omega)]
  exact extract_hi a _

theorem rest_b (d a b : BitVec 7) : (d ++ a ++ b : BitVec 21).extractLsb' 0 7 = b := by
  rw [extract_lo _ _ _ _ (by omega), extract_all]

theorem restP_pd (p : BitVec 3) (n : BitVec 4) (a b : BitVec 7) : (p ++ n ++ a ++ b : BitVec 21).extractLsb' 18 3 = p := by
  rw [show (p ++ n ++ a ++ b : BitVec 21) = (p ++ (n ++ (a ++ b : BitVec 14) : BitVec 18) : BitVec 21) from by
    rw [BitVec.append_assoc, BitVec.append_assoc]; rfl]
  exact extract_hi p _

theorem restP_cond (p : BitVec 3) (n : BitVec 4) (a b : BitVec 7) : (p ++ n ++ a ++ b : BitVec 21).extractLsb' 14 4 = n := by
  rw [show (p ++ n ++ a ++ b : BitVec 21) = (p ++ (n ++ (a ++ b : BitVec 14) : BitVec 18) : BitVec 21) from by
    rw [BitVec.append_assoc, BitVec.append_assoc]; rfl, extract_lo _ _ _ _ (by omega)]
  exact extract_hi n _

theorem restP_a (p : BitVec 3) (n : BitVec 4) (a b : BitVec 7) : (p ++ n ++ a ++ b : BitVec 21).extractLsb' 7 7 = a := by
  rw [show (p ++ n ++ a ++ b : BitVec 21) = (p ++ (n ++ (a ++ b : BitVec 14) : BitVec 18) : BitVec 21) from by
    rw [BitVec.append_assoc, BitVec.append_assoc]; rfl, extract_lo _ _ _ _ (by omega), extract_lo _ _ _ _ (by omega)]
  exact extract_hi a _

theorem restP_b (p : BitVec 3) (n : BitVec 4) (a b : BitVec 7) : (p ++ n ++ a ++ b : BitVec 21).extractLsb' 0 7 = b := by
  rw [extract_lo _ _ _ _ (by omega), extract_all]

theorem restG_d (d a b x : BitVec 6) : (d ++ a ++ b ++ x : BitVec 24).extractLsb' 18 6 = d := by
  rw [show (d ++ a ++ b ++ x : BitVec 24) = (d ++ (a ++ (b ++ x : BitVec 12) : BitVec 18) : BitVec 24) from by
    rw [BitVec.append_assoc, BitVec.append_assoc]; rfl]
  exact extract_hi d _

theorem restG_a (d a b x : BitVec 6) : (d ++ a ++ b ++ x : BitVec 24).extractLsb' 12 6 = a := by
  rw [show (d ++ a ++ b ++ x : BitVec 24) = (d ++ (a ++ (b ++ x : BitVec 12) : BitVec 18) : BitVec 24) from by
    rw [BitVec.append_assoc, BitVec.append_assoc]; rfl, extract_lo _ _ _ _ (by omega)]
  exact extract_hi a _

theorem restG_b (d a b x : BitVec 6) : (d ++ a ++ b ++ x : BitVec 24).extractLsb' 6 6 = b := by
  rw [show (d ++ a ++ b ++ x : BitVec 24) = (d ++ (a ++ (b ++ x : BitVec 12) : BitVec 18) : BitVec 24) from by
    rw [BitVec.append_assoc, BitVec.append_assoc]; rfl, extract_lo _ _ _ _ (by omega), extract_lo _ _ _ _ (by omega)]
  exact extract_hi b _

theorem restG_x (d a b x : BitVec 6) : (d ++ a ++ b ++ x : BitVec 24).extractLsb' 0 6 = x := by
  rw [extract_lo _ _ _ _ (by omega), extract_all]

theorem restI_d (d : BitVec 6) (h : BitVec 2) (i : BitVec 16) : (d ++ h ++ i : BitVec 24).extractLsb' 18 6 = d := by
  rw [show (d ++ h ++ i : BitVec 24) = (d ++ (h ++ i : BitVec 18) : BitVec 24) from by rw [BitVec.append_assoc]; rfl]
  exact extract_hi d _

theorem restI_h (d : BitVec 6) (h : BitVec 2) (i : BitVec 16) : (d ++ h ++ i : BitVec 24).extractLsb' 16 2 = h := by
  rw [show (d ++ h ++ i : BitVec 24) = (d ++ (h ++ i : BitVec 18) : BitVec 24) from by rw [BitVec.append_assoc]; rfl,
    extract_lo _ _ _ _ (by omega)]
  exact extract_hi h _

theorem restI_i (d : BitVec 6) (h : BitVec 2) (i : BitVec 16) : (d ++ h ++ i : BitVec 24).extractLsb' 0 16 = i := by
  rw [extract_lo _ _ _ _ (by omega), extract_all]

theorem restB_s (s : BitVec 4) (o : BitVec 20) : (s ++ o : BitVec 24).extractLsb' 20 4 = s := extract_hi s o
theorem restB_o (s : BitVec 4) (o : BitVec 20) : (s ++ o : BitVec 24).extractLsb' 0 20 = o := by
  rw [extract_lo _ _ _ _ (by omega), extract_all]

/-! ## The fields as the checks of R39 read them -/

open Machine

theorem wOp_group (e : Bool) (op : BitVec 6) (r : BitVec 24) : wOp (groupWord e op r) = op.toNat := by
  rw [wOp, group_group, if_pos rfl, group_op]

theorem wOp_lane (e : Bool) (op : BitVec 7) (g : BitVec 2) (r : BitVec 21) : wOp (laneWord e op g r) = op.toNat := by
  rw [wOp, lane_group, if_neg (by decide), lane_op]

theorem wGd_ga (e : Bool) (op d a b x : BitVec 6) : wGd (groupWord e op (d ++ a ++ b ++ x)) = d.toNat := by
  rw [wGd, group_rest _ _ _ _ _ (by omega), restG_d]

theorem wGa_ga (e : Bool) (op d a b x : BitVec 6) : wGa (groupWord e op (d ++ a ++ b ++ x)) = a.toNat := by
  rw [wGa, group_rest _ _ _ _ _ (by omega), restG_a]

theorem wGb_ga (e : Bool) (op d a b x : BitVec 6) : wGb (groupWord e op (d ++ a ++ b ++ x)) = b.toNat := by
  rw [wGb, group_rest _ _ _ _ _ (by omega), restG_b]

theorem wGx_ga (e : Bool) (op d a b x : BitVec 6) : wGx (groupWord e op (d ++ a ++ b ++ x)) = x.toNat := by
  rw [wGx, group_rest _ _ _ _ _ (by omega), restG_x]

theorem wSel_gb (e : Bool) (op : BitVec 6) (s : BitVec 4) (o : BitVec 20) :
    wSel (groupWord e op (s ++ o)) = s.toNat := by
  rw [wSel, group_rest _ _ _ _ _ (by omega), restB_s]

theorem wG_lane (e : Bool) (op : BitVec 7) (g : BitVec 2) (r : BitVec 21) : wG (laneWord e op g r) = g.toNat := by
  rw [wG, lane_g]

theorem wLd_la (e : Bool) (op : BitVec 7) (g : BitVec 2) (d a b : BitVec 7) :
    wLd (laneWord e op g (d ++ a ++ b)) = d.toNat := by
  rw [wLd, lane_rest _ _ _ _ _ _ (by omega), rest_d]

theorem wLa_la (e : Bool) (op : BitVec 7) (g : BitVec 2) (d a b : BitVec 7) :
    wLa (laneWord e op g (d ++ a ++ b)) = a.toNat := by
  rw [wLa, lane_rest _ _ _ _ _ _ (by omega), rest_a]

theorem wLb_la (e : Bool) (op : BitVec 7) (g : BitVec 2) (d a b : BitVec 7) :
    wLb (laneWord e op g (d ++ a ++ b)) = b.toNat := by
  rw [wLb, lane_rest _ _ _ _ _ _ (by omega), rest_b]

end Sys2Proof
end

