-- ==== Sys2Proof/Laws/Uniform.lean ====
section
/-! SUPPORT. What a uniform instruction has done once its result is written to k, j or q, and what one has done that acts
on its strand alone. -/

namespace Sys2Proof.Machine

/-- The writes `ws` of uniform registers as the whole effect of an instruction. -/
theorem uni_completes' {i : Instr} {s : State} {c : Ctx} (h : Issues i s c) {body : State → Ctx → Done} {ws : List (Nat × Word)}
    (hb : body (chargeInstr s c (firstWord i)) (begun c i) =
      .ok (chargeInstr s c (firstWord i)) { begun c i with g := putAll (begun c i).g ws }) :
    ∃ t c', runInstr i body s = .next t ∧ UniDone i c s t c' ws := by
  obtain ⟨_, _, hpc, hgone⟩ := issues_spec h
  obtain ⟨t, c', h1, h2, h3, h4, _, _⟩ := completed_of_ok h hb s (untouched_chargeInstr s c _)
    (by unfold chargeInstr; split <;> rfl) rfl rfl hgone rfl rfl rfl
    (by
      show (putAll (begun c i).g ws).strands = _
      rw [putAll_only, begun_g h])
  refine ⟨t, c', h1, h2, ?_, ?_, ?_, fun hE => by rw [h4, hE]; rfl⟩
  · rw [h4, nextPc, ← hpc]; cases eOf i <;> rfl
  · rw [OnlyPc, h4]; cases eOf i <;> rfl
  · rw [NoRegs, h3]
    show ({ sent c i (putAll (begun c i).g ws) with strands := c'.g.strands } : Group) = _
    rw [putAll_only]
    rfl

/-- The same for an instruction that does not read the state beside its context. -/
theorem uni_completes {i : Instr} {s : State} {c : Ctx} (h : Issues i s c) {body : State → Ctx → Done} {ws : List (Nat × Word)}
    (hb : ∀ s', body s' (begun c i) = .ok s' { begun c i with g := putAll (begun c i).g ws }) :
    ∃ t c', runInstr i body s = .next t ∧ UniDone i c s t c' ws := uni_completes' h (hb _)

/-- The strand alone as the effect of an instruction: `u` is the strand that it makes of one that is at the next
instruction. -/
theorem strand_completes {i : Instr} {s : State} {c : Ctx} (h : Issues i s c) {body : State → Ctx → Done}
    (u : Strand → Strand) {v : Strand} (hu : ∀ t, u t = { u t with sid := t.sid, status := t.status, cnt := t.cnt })
    (hb : ∀ s', body s' (begun c i) = .ok s' { begun c i with st := u (begun c i).st })
    (hv : OnlyPc v (u (begun c i).st)) (hp : (u (begun c i).st).pc = v.pc) (hl : (u (begun c i).st).lat = v.lat) :
    ∃ t c', runInstr i body s = .next t ∧ StrandDone i c s t c' v := by
  obtain ⟨_, _, hpc, hgone⟩ := issues_spec h
  obtain ⟨t, c', h1, h2, h3, h4, _, _⟩ := completed_of_ok h (hb _) s (untouched_chargeInstr s c _)
    (by unfold chargeInstr; split <;> rfl) rfl rfl hgone
    (by show (u (begun c i).st).sid = _; rw [hu]; rfl) (by show (u (begun c i).st).status = _; rw [hu]; rfl)
    (by show (u (begun c i).st).cnt = _; rw [hu]; rfl)
    (by show (begun c i).g.strands = _; rw [begun_g h])
  refine ⟨t, c', h1, h2, ?_, ?_, ?_, ?_⟩
  · rw [h4, ← hp]; cases eOf i <;> rfl
  · rw [OnlyPc, h4]; rw [OnlyPc] at hv; cases eOf i
    · exact hv
    · show { u (begun c i).st with cnt := 0, lat := [], occ := 0, sb := restedSb (u (begun c i).st).sb, status := .ready } = _
      rw [hv]; rfl
  · rw [NoRegs, h3]; rfl
  · intro hE; rw [h4, hE]; exact hl

/-- With nothing of the strand's to be performed, a body that waits for it goes on at once. -/
theorem afterOps_quiet {i : Instr} {s : State} {c : Ctx} (h : Issues i s c) (hq : Quiet c) (body : State → Ctx → Done) (s' : State) :
    afterOps body s' (begun c i) = body s' (begun c i) := by
  have : ((begun c i).g.ops.any fun x => x.sid == (begun c i).st.sid && !x.op.isTree) = false := by
    rw [List.any_eq_false]
    intro x hx
    rw [begun_g h] at hx
    by_cases e : x.sid = c.st.sid
    · have := hq x hx e
      simp [this]
    · have : (begun c i).st.sid = c.st.sid := rfl
      simp [this, e]
  rw [afterOps, drained, this]
  rfl

theorem getLsbD_maskOf (ls : List Nat) (l : Nat) (h : l < 64) : (maskOf ls).getLsbD l = decide (l ∈ ls) := by
  have key : ∀ m : Dword, (ls.foldl (fun m l => m ||| (1#64 <<< l)) m).getLsbD l = (m.getLsbD l || decide (l ∈ ls)) := by
    induction ls with
    | nil => intro m; simp
    | cons x t ih =>
      intro m
      rw [List.foldl_cons, ih]
      have h1 : (1#64 <<< x).getLsbD l = decide (l = x) := by
        rw [BitVec.getLsbD_shiftLeft]
        simp only [h, decide_true, Bool.true_and, BitVec.getLsbD_one]
        by_cases e : l = x
        · simp [e]
        · by_cases h2 : l < x
          · simp [h2, e]
          · simp [h2, e]; omega
      rw [BitVec.getLsbD_or, h1, Bool.or_assoc]
      congr 1
      simp [List.mem_cons, Bool.decide_or]
  rw [maskOf, key]
  simp

/-- A k result as the whole effect of an instruction (R149). -/
theorem k_completes {i : Instr} {s : State} {c : Ctx} (h : Issues i s c) {d : BitVec 6} {v : Group → Word} {x : Word}
    (hv : v (begun c i).g = x) :
    ∃ t c', runInstr i (uniK d v) s = .next t ∧ UniDone i c s t c' (kIs d.toNat x) :=
  uni_completes h fun s' => by rw [← hv, ← writeK_all]; rfl

/-- A j result as the whole effect of an instruction (R149). -/
theorem j_completes {i : Instr} {s : State} {c : Ctx} (h : Issues i s c) {d : BitVec 6} {v : Group → Dword} {x : Dword}
    (hv : v (begun c i).g = x) :
    ∃ t c', runInstr i (uniJ d v) s = .next t ∧ UniDone i c s t c' (jIs d.toNat x) :=
  uni_completes h fun s' => by rw [← hv, ← writeJ_all]; rfl

/-- A q result as the whole effect of an instruction (R149). -/
theorem q_completes {i : Instr} {s : State} {c : Ctx} (h : Issues i s c) {d : BitVec 6} {v : Ctx → Bool} {x : Bool}
    (hv : v (begun c i) = x) :
    ∃ t c', runInstr i (uniQ d v) s = .next t ∧ UniDone i c s t c' (qIs d.toNat x) :=
  uni_completes h fun s' => by rw [← hv, ← writeQ_all]; rfl

/-- What order 3 of R39 has established of a word of layout GA that issues. -/
theorem ga_ok {i : Instr} {s : State} {c : Ctx} (h : Issues i s c) {e : Bool} {op : BitVec 6} {r : BitVec 24}
    (hw : firstWord i = groupWord e op r) : groupOperandOk c.st.fmt c.g.nregs (groupWord e op r) = true := by
  have := issues_checks h
  rwa [hw, group_group, if_pos rfl] at this

end Sys2Proof.Machine
end

