-- ==== Sys2Proof/Laws/Taking.lean ====
section
/-! SUPPORT. Taking a trap and stopping a strand, said once: what these shared operations leave. -/

namespace Sys2Proof.Machine

/-- Bringing a strand to an end of its run with `u` in its place, when the state `e` is otherwise as it stands. -/
theorem endRun_put (s : State) (c : Ctx) (u : Strand → Strand) (hsid : ∀ t, (u t).sid = t.sid) (hg : c.gone = false)
    (hf : (findStrand c.g c.st.sid).isSome) :
    ctxAt (putCtx (endRun s c).1 { (endRun s c).2 with st := u (endRun s c).2.st }) c.core c.slot c.st.sid =
      some ⟨c.core, c.slot, setStrand c.g (u (endRun s c).2.st), u (endRun s c).2.st, (u (endRun s c).2.st).pc, false⟩ := by
  obtain ⟨t, ht⟩ := Option.isSome_iff_exists.mp hf
  unfold ctxAt
  rw [getGroup_putCtx, endRun_ctx, if_pos rfl]
  simp only [hg, Bool.false_eq_true, if_false, findStrand_setStrand]
  have h2 : (u { c.st with cnt := 0, lat := [], occ := 0, sb := restedSb c.st.sb, status := .ready }).sid = c.st.sid := hsid _
  simp only [h2, if_true, ht, Option.map_some]

theorem untouched_endPut (s : State) (c d : Ctx) (h1 : d.core = c.core) (h2 : d.slot = c.slot) :
    Untouched c s (putCtx (endRun s c).1 d) := untouched_trans (untouched_endRun s c) (untouched_putCtx c d _ h1 h2)

theorem findStrand_other {g : Group} {u : Strand} {sid : Nat} (h : sid ≠ u.sid) :
    findStrand (setStrand g u) sid = findStrand g sid := by rw [findStrand_setStrand, if_neg h]

/-- A trap's read of its table: what follows once the entry has been read (R275). -/
theorem takeTrap_read {s e : State} {c : Ctx} {cause : Nat} {h : Dword} (H : TableAt s c cause e h) (sub : Nat) (value epc : Dword) :
    takeTrap s c cause sub value epc =
      if (ctxBlock s (dieOf c.core) c.g.ctx.toNat).ttbase.getLsbD 0 = false ∨ h = 0 then
        stopStrand e { c with st := { c.st with pc := c.pc0, fpc := c.pc0 } } 20 cause value c.pc0 0x46 0 0 none
      else enterHandler e { c with st := { c.st with pc := c.pc0, fpc := c.pc0 } } cause sub value epc h := by
  obtain ⟨ho, pa, dev, go, s', htr, her, hrd⟩ := H
  have h0 : ((ctxBlock s (dieOf c.core) c.g.ctx.toNat).ttbase.toNat % 2 = 0) =
      ((ctxBlock s (dieOf c.core) c.g.ctx.toNat).ttbase.getLsbD 0 = false) := by
    rw [BitVec.getLsbD, Nat.testBit_zero]; simp
  have h1 : (h.toNat = 0) = (h = 0) := by
    apply propext
    exact ⟨fun e => BitVec.eq_of_toNat_eq (by simpa using e), fun e => by rw [e]; rfl⟩
  unfold takeTrap
  simp only [ho, Bool.false_eq_true, if_false, htr, her, hrd, BitVec.ofNat_toNat, BitVec.setWidth_eq, h0, h1]

/-- The whole of R275 where the handler is there. -/
theorem takeTrap_trapped {s e : State} {c : Ctx} {cause : Nat} {h : Dword} (H : HandlerAt s c cause e h) (sub : Nat)
    (value epc : Dword) (hg : c.gone = false) (hf : (findStrand c.g c.st.sid).isSome) :
    ∃ c', Trapped c c.g e (takeTrap s c cause sub value epc) cause sub value epc h c' := by
  obtain ⟨ht, hv, hh⟩ := H
  rw [takeTrap_read ht, if_neg (by rw [hv]; simpa using hh)]
  let d : Ctx := { c with st := { c.st with pc := c.pc0, fpc := c.pc0 } }
  let u : Strand → Strand := fun t => regionAt { t with
    cause := BitVec.ofNat 32 (cause + 256 * sub), epc := epc, value := value, hnd := true, pc := h }
  have hk : enterHandler e d cause sub value epc h = putCtx (endRun e d).1 { (endRun e d).2 with st := u (endRun e d).2.st } := rfl
  refine ⟨_, endRun_put e d u (fun _ => rfl) hg hf, ?_, ?_, ?_, ?_, ?_, ?_⟩
  · rw [hk]
    exact untouched_congr (untouched_endPut e d { (endRun e d).2 with st := u (endRun e d).2.st } rfl rfl) rfl rfl
  · intro sid hne
    exact findStrand_other hne
  · rfl
  · rfl
  · rfl
  · exact ⟨rfl, rfl, rfl, rfl⟩

/-- A handler is found by what the trap knows of its strand: the core, the context and HND. -/
theorem handlerAt_congr {s e : State} {c d : Ctx} {cause : Nat} {h : Dword} (H : HandlerAt s c cause e h) (h1 : d.core = c.core)
    (h2 : d.g.ctx = c.g.ctx) (h3 : d.st.hnd = c.st.hnd) : HandlerAt s d cause e h where
  table := ⟨by rw [h3]; exact H.table.outside, by rw [h1, h2]; exact H.table.entry⟩
  valid := by rw [h1, h2]; exact H.valid
  handler := H.handler

/-- An instruction whose own execution finds a trap takes it. -/
theorem trap_taken {i : Instr} {s : State} {c : Ctx} (h : Issues i s c) {body : State → Ctx → Done} {cause sub : Nat}
    {value : Dword} (hb : body (chargeInstr s c (firstWord i)) (begun c i) = .trap cause sub value) {e : State} {a : Dword}
    (H : HandlerAt (chargeInstr s c (firstWord i)) c cause e a) :
    ∃ t c', runInstr i body s = .next t ∧ Trapped c (issued c i) e t cause sub value c.st.pc a c' := by
  obtain ⟨_, h3, hpc, hgone⟩ := issues_spec h
  obtain ⟨k, _, rfl, hrun⟩ := runInstr_issues h body
  rw [hrun, hb]
  have hs : (issued (atIssue k i) i).strands = (atIssue k i).g.strands := by
    rw [issued_atIssue]; rfl
  let d : Ctx := { atIssue k i with g := issued (atIssue k i) i, st := strandAt (atIssue k i) i }
  have hd : HandlerAt (chargeInstr s k (firstWord i)) d cause e a := by
    refine handlerAt_congr (c := atIssue k i) (by rw [← chargeInstr_atIssue s k i]; exact H) rfl ?_ rfl
    show (issued (atIssue k i) i).ctx = _
    rw [issued_atIssue]; rfl
  obtain ⟨c', H'⟩ := takeTrap_trapped hd sub value k.pc0 hgone (by
    show (findStrand (issued (atIssue k i) i) (atIssue k i).st.sid).isSome
    rw [findStrand, hs, ← findStrand, h3]; rfl)
  have hc : concluded i s k (.trap cause sub value) =
      takeTrap (chargeInstr s k (firstWord i)) d cause sub value k.pc0 := by
    show takeTrap _ { k with g := issued k i, st := strandAt k i } cause sub value k.pc0 = _
    rw [← issued_atIssue k i]; rfl
  have hp : k.pc0 = (atIssue k i).st.pc := hpc
  rw [hc]
  refine ⟨_, c', rfl, H'.strand, untouched_congr H'.untouched rfl rfl, ?_, H'.group, ?_, H'.pc, H'.ended⟩
  · intro sid hne
    rw [H'.others sid hne]
    show (issued (atIssue k i) i).strands.find? _ = _
    rw [hs]; rfl
  · rw [← hp]; exact H'.saved

/-- Posting a record changes the reporting port alone. -/
theorem post_only (s : State) (who : Party) (code src asid flags loc addr ref : Nat) :
    post s who code src asid flags loc addr ref = { s with rep := (post s who code src asid flags loc addr ref).rep } := by
  unfold post
  dsimp only
  split
  · rfl
  · split <;> rfl

/-- What a post does depends on the port, TIME and the tables of contexts. -/
theorem post_rep_congr {s t : State} (who : Party) (code src asid flags loc addr ref : Nat) (h1 : t.rep = s.rep) (h2 : t.time = s.time)
    (h3 : ctxEntry t 0 asid = ctxEntry s 0 asid) :
    (post t who code src asid flags loc addr ref).rep = (post s who code src asid flags loc addr ref).rep := by
  unfold post
  rw [h1, h2, h3]
  dsimp only
  split
  · rfl
  · split <;> rfl

/-- A stop of R275 that posts one record: 19 in a handler, 20 without one. -/
theorem stopStrand_stopped (s : State) (c : Ctx) (cause sub : Nat) (value : Dword) (code : Nat) (hg : c.gone = false)
    (hf : (findStrand c.g c.st.sid).isSome) :
    ∃ c', StoppedAs c c.g s (stopStrand s { c with st := { c.st with pc := c.pc0, fpc := c.pc0 } } cause sub value c.pc0 code 0 0 none)
      cause sub value code c' := by
  let d : Ctx := { c with st := { c.st with pc := c.pc0, fpc := c.pc0 } }
  let u : Strand → Strand := fun t => { t with
    cause := BitVec.ofNat 32 (cause + 256 * sub), epc := c.pc0, value := value, status := .stopped cause none, slot := false }
  have hu : Untouched d s (putCtx (endRun s d).1 { (endRun s d).2 with st := u (endRun s d).2.st }) :=
    untouched_endPut s d _ rfl rfl
  have hc : ctxAt (putCtx (endRun s d).1 { (endRun s d).2 with st := u (endRun s d).2.st }) c.core c.slot c.st.sid = _ :=
    endRun_put s d u (fun _ => rfl) hg hf
  have hcur : (putCtx (endRun s d).1 { (endRun s d).2 with st := u (endRun s d).2.st }).cur = none := rfl
  have hk : stopStrand s d cause sub value c.pc0 code 0 0 none =
      post (putCtx (endRun s d).1 { (endRun s d).2 with st := u (endRun s d).2.st }) (.strand c.core c.slot c.st.sid) code 0 c.g.ctx.toNat 0
        (locStrand c.core c.slot 0) 0 c.pc0.toNat := rfl
  rw [hk]
  revert hu hc hcur
  generalize putCtx (endRun s d).1 { (endRun s d).2 with st := u (endRun s d).2.st } = t0
  intro hu hc hcur
  have e : t0 = { s with cores := t0.cores, groups := t0.groups, teams := t0.teams, cur := t0.cur } := hu.state
  refine ⟨⟨d.core, d.slot, setStrand d.g (u (endRun s d).2.st), u (endRun s d).2.st, (u (endRun s d).2.st).pc, false⟩,
    ?_, ?_, ?_, ?_, rfl, rfl, ?_⟩
  · rw [post_only]
    exact hc
  · rw [post_only]
    have : ({ { t0 with rep := (post t0 (.strand c.core c.slot c.st.sid) code 0 c.g.ctx.toNat 0 (locStrand c.core c.slot 0) 0 c.pc0.toNat).rep } with
        rep := s.rep } : State) = t0 := by
      rw [show s.rep = t0.rep by rw [e]]
    rw [this]
    exact untouched_congr hu rfl rfl
  · exact post_rep_congr _ _ _ _ _ _ _ _ (by rw [e]) (by rw [e]) (by rw [e]; rfl)
  · intro sid hne
    exact findStrand_other hne
  · rw [post_only]
    exact ⟨hcur, rfl, rfl⟩

end Sys2Proof.Machine
end

