-- ==== Sys2Proof/Laws/Control.lean ====
section
/-! SUPPORT. Splits, ends of strands and merges, said once: what these shared operations leave. -/

namespace Sys2Proof.Machine

/-- What an instruction has written joins the writes on their way when its own strand has gone. -/
theorem sentOn_group {c : Ctx} {i : Instr} {s : State} {g : Group} (h : getGroup s c.core c.slot = some g) :
    getGroup (sentOn c i s) c.core c.slot = some (sent c i g) := by
  unfold sentOn
  rw [h]
  exact mfind_mput_same _ _ _

theorem untouched_sentOn (c : Ctx) (i : Instr) (s : State) : Untouched c s (sentOn c i s) := by
  unfold sentOn
  split
  · refine ⟨rfl, rfl, fun _ _ => rfl, fun i j h => ?_, fun _ => rfl⟩
    show mfind (mput s.groups _ _) _ = _
    rw [mfind_mput, if_neg h]; rfl
  · exact untouched_refl c s

theorem sentOn_cur (c : Ctx) (i : Instr) (s : State) : (sentOn c i s).cur = s.cur := by unfold sentOn; split <;> rfl

/-- A group that an instruction has not written since it began: what is on its way stands as it was. -/
theorem sent_begun {c : Ctx} {i : Instr} {g : Group} (hq : g.uq = (issued c i).uq) (hw : g.uw = []) :
    sent c i g = { g with uv := [], uw := [], uq := (issued c i).uq } := by
  unfold sent uCommit
  rw [hw, hq]; rfl

/-- Replacing a strand by parts (R242): `d` is the context at the split, its group already holding the join stack it leaves. -/
theorem splitInto_done {i : Instr} {s : State} {c d : Ctx} (ps : List SPart) (h1 : d.core = c.core) (h2 : d.slot = c.slot)
    (hs : d.st.sid = c.st.sid) (hb : (begun c i).g = c.g) (hsb : d.st.sb = (strandAt c i).sb) (hcy : d.st.cyc = (strandAt c i).cyc)
    (hg : d.g = { c.g with strands := d.g.strands, join := d.g.join })
    (hstr : d.g.strands.filter (fun x => x.sid != c.st.sid) = c.g.strands.filter fun x => x.sid != c.st.sid) :
    ∃ h, SplitDone i c s (sentOn c i (splitInto s d ps)) d.st ps d.g.join h := by
  have hn : d.g.nextSid = c.g.nextSid := by rw [hg]
  have hi : d.g.nextId = c.g.nextId := by rw [hg]
  have hc : c.g = { issued c i with uv := c.g.uv } := by rw [← hb]; exact begun_group c i
  let e : Ctx := (endRun s d).2
  let made := ps.zipIdx.map fun (p, i) => regionAt { e.st with
    sid := d.g.nextSid + i, pc := p.pc, mask := p.mask, lk := p.lk, slot := false, rank := 64 * (d.g.nextId + 1) + i }
  let h : Group := { (removeStrand d.g d.st.sid) with
    strands := (removeStrand d.g d.st.sid).strands ++ made, nextSid := d.g.nextSid + made.length, nextId := d.g.nextId + 1 }
  have hk : splitInto s d ps = putCtx (endRun s d).1 { e with g := h, gone := true } := rfl
  have hlen : made.length = ps.length := by simp [made]
  have hgr : getGroup (splitInto s d ps) c.core c.slot = some h := by
    rw [hk, getGroup_putCtx, if_pos (by rw [← h1, ← h2]; rfl)]; rfl
  have hsent : sent c i h = { h with uv := [], uw := [], uq := (issued c i).uq } := by
    refine sent_begun ?_ ?_
    · show d.g.uq = _
      rw [hg, hc]
    · show d.g.uw = _
      rw [hg, hc]; rfl
  refine ⟨_, sentOn_group hgr, ?_, ?_, ⟨made, ?_, hlen, ?_⟩, by rw [sentOn_cur]; rfl⟩
  · refine untouched_trans ?_ (untouched_sentOn c i _)
    rw [hk]
    exact untouched_congr (untouched_endPut s d _ rfl rfl) h1.symm h2.symm
  · rw [hsent]
    have : h = { d.g with strands := h.strands, nextSid := d.g.nextSid + made.length, nextId := d.g.nextId + 1 } := rfl
    rw [this, hlen, hg]
    dsimp only
    rw [hc]
    rfl
  · show (d.g.strands.filter fun t => t.sid != d.st.sid) ++ made = _
    rw [hs, hstr]
  · intro n p hp
    have hm : made[n]? = some (regionAt { e.st with
      sid := d.g.nextSid + n, pc := p.pc, mask := p.mask, lk := p.lk, slot := false, rank := 64 * (d.g.nextId + 1) + n }) := by
      simp only [made, List.getElem?_map, List.getElem?_zipIdx, hp, Option.map_some, Nat.zero_add]
    refine ⟨_, hm, by rw [← hn]; rfl, rfl, rfl, rfl, rfl, ?_, ?_, ?_⟩
    · rw [← hsb]; rfl
    · rw [← hcy]; rfl
    · rw [← hn, ← hi]
      rfl

/-- What is left when a strand has gone and entries have taken what it brings them (R250, R251): `g` is the group without the
strand, its entries updated. -/
theorem mergeAll_left {i : Instr} {s e : State} {c : Ctx} {d : Ctx} {g : Group} (h1 : d.core = c.core) (h2 : d.slot = c.slot)
    (hb : (begun c i).g = c.g)
    (hg : g = { c.g with strands := g.strands, join := g.join, left := g.left, seen := g.seen, ended := g.ended })
    (hstr : g.strands = c.g.strands.filter fun x => x.sid != c.st.sid) (hu : Untouched c e s) (hc : s.cur = none) :
    ∃ h, LeftDone i c e (sentOn c i (putCtx s { d with g := mergeAll g, gone := true })) g.join g.left g.seen h := by
  have hn : g.nextSid = c.g.nextSid := by rw [hg]
  have hcg : c.g = { issued c i with uv := c.g.uv } := by rw [← hb]; exact begun_group c i
  have hm : (g.join.filter covered).filter (fun e => e.arrived != 0) = merging g.join := by
    rw [List.filter_filter, merging]
    apply List.filter_congr
    intro x _
    rw [Bool.and_comm]
    rfl
  let made := (merging g.join).zipIdx.map fun (e, i) => mergedStrand e (g.nextSid + i)
  have hlen : made.length = (merging g.join).length := by simp [made]
  have hall : mergeAll g = { g with
      strands := g.strands ++ made, nextSid := g.nextSid + made.length, join := g.join.filter fun e => !covered e
      ended := (g.strands ++ made).isEmpty && (g.join.filter fun e => !covered e).isEmpty } := by
    simp only [mergeAll, hm]; rfl
  have hgr : getGroup (putCtx s { d with g := mergeAll g, gone := true }) c.core c.slot = some (mergeAll g) := by
    rw [getGroup_putCtx, if_pos (by rw [← h1, ← h2])]; rfl
  have hsent : sent c i (mergeAll g) = { mergeAll g with uv := [], uw := [], uq := (issued c i).uq } := by
    refine sent_begun ?_ ?_
    · rw [hall]
      show g.uq = _
      rw [hg, hcg]
    · rw [hall]
      show g.uw = _
      rw [hg, hcg]; rfl
  refine ⟨_, sentOn_group hgr, ?_, ?_, ⟨made, ?_, hlen, ?_⟩, by rw [sentOn_cur]; exact hc⟩
  · exact untouched_trans (untouched_trans hu (untouched_putCtx c { d with g := mergeAll g, gone := true } s h1 h2)) (untouched_sentOn c i _)
  · rw [hsent, hall, hlen, hn]
    have hj : (fun e => !covered e) = fun e => !joinFull e := rfl
    rw [hj]
    dsimp only
    rw [hg]
    dsimp only
    rw [hcg]
    rfl
  · rw [hsent, hall, ← hstr]
  · intro n j hj
    have hmn : made[n]? = some (mergedStrand j (g.nextSid + n)) := by
      simp only [made, List.getElem?_map, List.getElem?_zipIdx, hj, Option.map_some, Nat.zero_add]
    exact ⟨_, hmn, by rw [← hn]; rfl, rfl, rfl, rfl, rfl, rfl, rfl, rfl, rfl, rfl, rfl, rfl, rfl, rfl, rfl, rfl, rfl, rfl, rfl, rfl⟩

/-- The end of a strand (R251). -/
theorem endStrand_left {i : Instr} {s e : State} {c d : Ctx} (h1 : d.core = c.core) (h2 : d.slot = c.slot) (hs : d.st.sid = c.st.sid)
    (hm : d.st.mask = c.st.mask) (hl : d.st.slog = c.st.slog) (hv : d.st.vis = c.st.vis) (hb : (begun c i).g = c.g) (hg : d.g = c.g)
    (hu : Untouched c e s) :
    ∃ h, LeftDone i c e (sentOn c i (endStrand s d)) (c.g.join.map fun e => { e with exited := e.exited ||| (c.st.mask &&& e.mask) })
      (c.g.left ++ c.st.slog.filter fun x => !(c.g.left.any fun y => y.id == x.id)) (seenJoin c.g.seen c.st.vis) h := by
  let g : Group := exitLanes { (removeStrand d.g d.st.sid) with
    left := d.g.left ++ d.st.slog.filter fun x => !(d.g.left.any fun y => y.id == x.id), seen := seenJoin d.g.seen d.st.vis } d.st.mask
  have hk : endStrand s d = putCtx (endRun s d).1 { (endRun s d).2 with g := mergeAll g, gone := true } := rfl
  have hj : g.join = c.g.join.map fun e => { e with exited := e.exited ||| (c.st.mask &&& e.mask) } := by
    show (d.g.join.map fun e => { e with exited := e.exited ||| (d.st.mask &&& e.mask) }) = _
    rw [hm, hg]
  have hleft : g.left = c.g.left ++ c.st.slog.filter fun x => !(c.g.left.any fun y => y.id == x.id) := by
    show d.g.left ++ d.st.slog.filter (fun x => !(d.g.left.any fun y => y.id == x.id)) = _
    rw [hl, hg]
  have hseen : g.seen = seenJoin c.g.seen c.st.vis := by
    show seenJoin d.g.seen d.st.vis = _
    rw [hv, hg]
  rw [hk, ← hj, ← hleft, ← hseen]
  refine mergeAll_left h1 h2 hb ?_ ?_ (untouched_trans hu (untouched_congr (untouched_endRun s d) h1.symm h2.symm)) rfl
  · have : g = { d.g with strands := g.strands, join := g.join, left := g.left, seen := g.seen } := rfl
    rw [this, hg]
  · show (d.g.strands.filter fun t => t.sid != d.st.sid) = _
    rw [hs, hg]

end Sys2Proof.Machine
end

