-- ==== Sys2Proof/Laws/Encoded.lean ====
section
/-! SUPPORT. What every encoded instruction has in common: it is issued by `runInstr`, and its E bit is bit 30 of its first word
(R12, R24, R30). -/

namespace Sys2Proof.Machine

theorem firstWord_lit (w l : Word) : ((withLit w l).head?).getD 0 = w := by unfold withLit; split <;> rfl

theorem e_encLA {i : Instr} {op : BitVec 7} {f : LA} (h : encode i = encLA op f) (h2 : eOf i = f.e) :
    (firstWord i).getLsbD 30 = eOf i := by
  rw [firstWord, h, h2, encLA]; exact (congrArg (fun w => w.getLsbD 30) (firstWord_lit _ _)).trans (lane_e _ _ _ _)

theorem e_encLS {i : Instr} {op : BitVec 7} {f : LS} (h : encode i = encLS op f) (h2 : eOf i = f.e) :
    (firstWord i).getLsbD 30 = eOf i := by
  rw [firstWord, h, h2, encLS]; exact (congrArg (fun w => w.getLsbD 30) (firstWord_lit _ _)).trans (lane_e _ _ _ _)

theorem e_encLP {i : Instr} {op : BitVec 7} {f : LP} (h : encode i = encLP op f) (h2 : eOf i = f.e) :
    (firstWord i).getLsbD 30 = eOf i := by
  rw [firstWord, h, h2, encLP]; exact (congrArg (fun w => w.getLsbD 30) (firstWord_lit _ _)).trans (lane_e _ _ _ _)

theorem e_encLM {i : Instr} {op : BitVec 7} {f : LM} (h : encode i = encLM op f) (h2 : eOf i = f.e) :
    (firstWord i).getLsbD 30 = eOf i := by
  rw [firstWord, h, h2, encLM]; exact (congrArg (fun w => w.getLsbD 30) (firstWord_lit _ _)).trans (lane_e _ _ _ _)

theorem e_encGA {i : Instr} {op : BitVec 6} {f : GA} (h : encode i = encGA op f) (h2 : eOf i = f.e) :
    (firstWord i).getLsbD 30 = eOf i := by
  rw [firstWord, h, h2]; exact group_e _ _ _

theorem e_encGX {i : Instr} {op : BitVec 6} {f : GX} (h : encode i = encGX op f) (h2 : eOf i = f.e) :
    (firstWord i).getLsbD 30 = eOf i := by
  rw [firstWord, h, h2]; exact group_e _ _ _

theorem e_encGI {i : Instr} {op : BitVec 6} {f : GI} (h : encode i = encGI op f) (h2 : eOf i = f.e) :
    (firstWord i).getLsbD 30 = eOf i := by
  rw [firstWord, h, h2]; exact group_e _ _ _

theorem e_encGB {i : Instr} {op : BitVec 6} {f : GB} (h : encode i = encGB op f) (h2 : eOf i = f.e) :
    (firstWord i).getLsbD 30 = eOf i := by
  rw [firstWord, h, h2]; exact group_e _ _ _

theorem e_encGD {i : Instr} {op : BitVec 6} {f : GD} (h : encode i = encGD op f) (h2 : eOf i = f.e) :
    (firstWord i).getLsbD 30 = eOf i := by
  rw [firstWord, h, h2]; exact group_e _ _ _

/-- E is bit 30 of the first word. -/
theorem eOf_bit (i : Instr) (h : isEncoded i = true) : (firstWord i).getLsbD 30 = eOf i := by
  cases i
  case nop f => exact lane_e _ _ _ _
  case mov f => exact e_encLA rfl rfl
  case iadd f => exact e_encLA rfl rfl
  case isub f => exact e_encLA rfl rfl
  case imul f => exact e_encLA rfl rfl
  case imulhs f => exact e_encLA rfl rfl
  case imulhu f => exact e_encLA rfl rfl
  case imad f => exact e_encLA rfl rfl
  case imins f => exact e_encLA rfl rfl
  case iminu f => exact e_encLA rfl rfl
  case imaxs f => exact e_encLA rfl rfl
  case imaxu f => exact e_encLA rfl rfl
  case and f => exact e_encLA rfl rfl
  case or f => exact e_encLA rfl rfl
  case xor f => exact e_encLA rfl rfl
  case andn f => exact e_encLA rfl rfl
  case shl f => exact e_encLA rfl rfl
  case shrl f => exact e_encLA rfl rfl
  case shra f => exact e_encLA rfl rfl
  case rotl f => exact e_encLA rfl rfl
  case shli f => exact e_encLS rfl rfl
  case shrli f => exact e_encLS rfl rfl
  case shrai f => exact e_encLS rfl rfl
  case popc f => exact e_encLA rfl rfl
  case clz f => exact e_encLA rfl rfl
  case brev f => exact e_encLA rfl rfl
  case bfx f => exact e_encLA rfl rfl
  case bfi f => exact e_encLA rfl rfl
  case iaddx f => exact e_encLA rfl rfl
  case isubx f => exact e_encLA rfl rfl
  case icmp f => exact e_encLP rfl rfl
  case sel f => exact e_encLA rfl rfl
  case wadd f => exact e_encLA rfl rfl
  case wsub f => exact e_encLA rfl rfl
  case wmulu f => exact e_encLA rfl rfl
  case wmuls f => exact e_encLA rfl rfl
  case wshl f => exact e_encLA rfl rfl
  case wshrl f => exact e_encLA rfl rfl
  case wadds f => exact e_encLA rfl rfl
  case wcmp f => exact e_encLP rfl rfl
  case fadd f => exact e_encLA rfl rfl
  case fsub f => exact e_encLA rfl rfl
  case fmul f => exact e_encLA rfl rfl
  case ffma f => exact e_encLA rfl rfl
  case fmin f => exact e_encLA rfl rfl
  case fmax f => exact e_encLA rfl rfl
  case fabs f => exact e_encLA rfl rfl
  case fneg f => exact e_encLA rfl rfl
  case fcmp f => exact e_encLP rfl rfl
  case frcp f => exact e_encLA rfl rfl
  case fsqrt f => exact e_encLA rfl rfl
  case frsq f => exact e_encLA rfl rfl
  case fexp2 f => exact e_encLA rfl rfl
  case flog2 f => exact e_encLA rfl rfl
  case fsinr f => exact e_encLA rfl rfl
  case fcosr f => exact e_encLA rfl rfl
  case frint f => exact e_encLA rfl rfl
  case ffloor f => exact e_encLA rfl rfl
  case fdiv f => exact e_encLA rfl rfl
  case fclass f => exact e_encLA rfl rfl
  case fscale f => exact e_encLA rfl rfl
  case fcpsgn f => exact e_encLA rfl rfl
  case fsat f => exact e_encLA rfl rfl
  case dadd f => exact e_encLA rfl rfl
  case dsub f => exact e_encLA rfl rfl
  case dmul f => exact e_encLA rfl rfl
  case dfma f => exact e_encLA rfl rfl
  case dmin f => exact e_encLA rfl rfl
  case dmax f => exact e_encLA rfl rfl
  case ddiv f => exact e_encLA rfl rfl
  case dsqrt f => exact e_encLA rfl rfl
  case dcmp f => exact e_encLP rfl rfl
  case drint f => exact e_encLA rfl rfl
  case dabs f => exact e_encLA rfl rfl
  case dneg f => exact e_encLA rfl rfl
  case hadd2 f => exact e_encLA rfl rfl
  case hmul2 f => exact e_encLA rfl rfl
  case hfma2 f => exact e_encLA rfl rfl
  case hmin2 f => exact e_encLA rfl rfl
  case hmax2 f => exact e_encLA rfl rfl
  case dot4s f => exact e_encLA rfl rfl
  case dot4u f => exact e_encLA rfl rfl
  case hdot2 f => exact e_encLA rfl rfl
  case cvt f => exact e_encLS rfl rfl
  case qdx4 f => exact e_encLA rfl rfl
  case qdx8 f => exact e_encLA rfl rfl
  case qaq8 f => exact e_encLA rfl rfl
  case shfli f => exact e_encLA rfl rfl
  case shflx f => exact e_encLS rfl rfl
  case shflu f => exact e_encLS rfl rfl
  case shfld f => exact e_encLS rfl rfl
  case radd f => exact e_encLA rfl rfl
  case rfadd f => exact e_encLA rfl rfl
  case rmins f => exact e_encLA rfl rfl
  case rmaxs f => exact e_encLA rfl rfl
  case plog f => exact e_encLP rfl rfl
  case ptov f => exact e_encLA rfl rfl
  case vtop f => exact e_encLP rfl rfl
  case ldo f => exact e_encLM rfl rfl
  case ldoD f => exact e_encLM rfl rfl
  case ldoQ f => exact e_encLM rfl rfl
  case sto f => exact e_encLM rfl rfl
  case stoD f => exact e_encLM rfl rfl
  case stoQ f => exact e_encLM rfl rfl
  case oadd f => exact e_encLM rfl rfl
  case omaxu f => exact e_encLM rfl rfl
  case ldg f => exact e_encLM rfl rfl
  case ldgD f => exact e_encLM rfl rfl
  case ldgQ f => exact e_encLM rfl rfl
  case stg f => exact e_encLM rfl rfl
  case stgD f => exact e_encLM rfl rfl
  case stgQ f => exact e_encLM rfl rfl
  case credf f => exact e_encLM rfl rfl
  case credd f => exact e_encLM rfl rfl
  case aadd f => exact e_encLM rfl rfl
  case amins f => exact e_encLM rfl rfl
  case amaxs f => exact e_encLM rfl rfl
  case aand f => exact e_encLM rfl rfl
  case aor f => exact e_encLM rfl rfl
  case axor f => exact e_encLM rfl rfl
  case axchg f => exact e_encLM rfl rfl
  case acas f => exact e_encLM rfl rfl
  case gnop f => exact group_e _ _ _
  case kmov f => exact e_encGA rfl rfl
  case jmov f => exact e_encGA rfl rfl
  case klit f => exact e_encGI rfl rfl
  case klith f => exact e_encGI rfl rfl
  case kadd f => exact e_encGA rfl rfl
  case jadd f => exact e_encGA rfl rfl
  case ksub f => exact e_encGA rfl rfl
  case jsub f => exact e_encGA rfl rfl
  case kmul f => exact e_encGA rfl rfl
  case kand f => exact e_encGA rfl rfl
  case kor f => exact e_encGA rfl rfl
  case kxor f => exact e_encGA rfl rfl
  case kshl f => exact e_encGA rfl rfl
  case jshl f => exact e_encGA rfl rfl
  case kshrl f => exact e_encGA rfl rfl
  case jshrl f => exact e_encGA rfl rfl
  case kshra f => exact e_encGA rfl rfl
  case kcmp f => exact e_encGA rfl rfl
  case jcmp f => exact e_encGA rfl rfl
  case ksel f => exact e_encGA rfl rfl
  case kaddi f => exact e_encGA rfl rfl
  case voteAny f => exact e_encGA rfl rfl
  case voteAll f => exact e_encGA rfl rfl
  case voteNone f => exact e_encGA rfl rfl
  case ballot f => exact e_encGA rfl rfl
  case kread f => exact e_encGA rfl rfl
  case rdsv f => exact e_encGA rfl rfl
  case bra f => exact e_encGB rfl rfl
  case brd f => exact e_encGD rfl rfl
  case brx f => exact e_encGX rfl rfl
  case call f => exact e_encGB rfl rfl
  case callx f => exact e_encGX rfl rfl
  case ret f => exact e_encGA rfl rfl
  case regang f => exact e_encGA rfl rfl
  case part f => exact e_encGB rfl rfl
  case exit f => exact e_encGA rfl rfl
  case yield f => exact e_encGA rfl rfl
  case setfmt f => exact e_encGA rfl rfl
  case setfmtLk f => exact e_encGA rfl rfl
  case getfmt f => exact e_encGA rfl rfl
  case getfmtLk f => exact e_encGA rfl rfl
  case mma f => exact e_encGA rfl rfl
  case mmap f => exact e_encGA rfl rfl
  case mmax f => exact e_encGA rfl rfl
  case mclr f => exact e_encGA rfl rfl
  case msta f => exact e_encGA rfl rfl
  case mlda f => exact e_encGA rfl rfl
  case mfence f => exact e_encGA rfl rfl
  case mgath f => exact e_encGA rfl rfl
  case copy f => exact e_encGA rfl rfl
  case tile f => exact e_encGA rfl rfl
  case puts f => exact e_encGA rfl rfl
  case chain f => exact e_encGA rfl rfl
  case token f => exact e_encGA rfl rfl
  case estat f => exact e_encGA rfl rfl
  case cadd f => exact e_encGA rfl rfl
  case cwait f => exact e_encGA rfl rfl
  case cread f => exact e_encGA rfl rfl
  case bar f => exact e_encGA rfl rfl
  case bara f => exact e_encGA rfl rfl
  case barw f => exact e_encGA rfl rfl
  case phase f => exact e_encGA rfl rfl
  case rel f => exact e_encGA rfl rfl
  case acq f => exact e_encGA rfl rfl
  case oalloc f => exact e_encGA rfl rfl
  case ofree f => exact e_encGA rfl rfl
  case orenew f => exact e_encGA rfl rfl
  case launch f => exact e_encGA rfl rfl
  case tspawn f => exact e_encGA rfl rfl
  case tspawnEos f => exact e_encGA rfl rfl
  case tdesc f => exact e_encGA rfl rfl
  case texpand f => exact e_encGA rfl rfl
  case tback f => exact e_encGA rfl rfl
  case troot f => exact e_encGA rfl rfl
  case tfree f => exact e_encGA rfl rfl
  case tnew f => exact e_encGA rfl rfl
  case bsplit f => exact e_encGA rfl rfl
  case bpoint f => exact e_encGA rfl rfl
  case bopen f => exact e_encGA rfl rfl
  case trap f => exact e_encGA rfl rfl
  case rte f => exact e_encGA rfl rfl
  case rteTo f => exact e_encGA rfl rfl
  case bkpt f => exact e_encGA rfl rfl
  case rdctl f => exact e_encGA rfl rfl
  case wrctl f => exact e_encGA rfl rfl
  case sleep f => exact e_encGA rfl rfl
  case mhint f => exact e_encGA rfl rfl
  case oswap f => exact e_encGA rfl rfl
  case errinj f => exact e_encGA rfl rfl
  case eread f => exact e_encGA rfl rfl
  case halt f => exact e_encGA rfl rfl
  all_goals exact absurd (show false = true from h) Bool.false_ne_true

/-- An encoded instruction is executed through its issue. -/
theorem encoded_runs (i : Instr) (h : isEncoded i = true) : ∃ body, ∀ s, exec i s = runInstr i body s := by
  cases i
  case nop f => apply Exists.intro; intro s; show execNop f s = _; unfold execNop; rfl
  case mov f => apply Exists.intro; intro s; show execMov f s = _; unfold execMov; rfl
  case iadd f => apply Exists.intro; intro s; show execIadd f s = _; unfold execIadd; rfl
  case isub f => apply Exists.intro; intro s; show execIsub f s = _; unfold execIsub; rfl
  case imul f => apply Exists.intro; intro s; show execImul f s = _; unfold execImul; rfl
  case imulhs f => apply Exists.intro; intro s; show execImulhs f s = _; unfold execImulhs; rfl
  case imulhu f => apply Exists.intro; intro s; show execImulhu f s = _; unfold execImulhu; rfl
  case imad f => apply Exists.intro; intro s; show execImad f s = _; unfold execImad; rfl
  case imins f => apply Exists.intro; intro s; show execImins f s = _; unfold execImins; rfl
  case iminu f => apply Exists.intro; intro s; show execIminu f s = _; unfold execIminu; rfl
  case imaxs f => apply Exists.intro; intro s; show execImaxs f s = _; unfold execImaxs; rfl
  case imaxu f => apply Exists.intro; intro s; show execImaxu f s = _; unfold execImaxu; rfl
  case and f => apply Exists.intro; intro s; show execAnd f s = _; unfold execAnd; rfl
  case or f => apply Exists.intro; intro s; show execOr f s = _; unfold execOr; rfl
  case xor f => apply Exists.intro; intro s; show execXor f s = _; unfold execXor; rfl
  case andn f => apply Exists.intro; intro s; show execAndn f s = _; unfold execAndn; rfl
  case shl f => apply Exists.intro; intro s; show execShl f s = _; unfold execShl; rfl
  case shrl f => apply Exists.intro; intro s; show execShrl f s = _; unfold execShrl; rfl
  case shra f => apply Exists.intro; intro s; show execShra f s = _; unfold execShra; rfl
  case rotl f => apply Exists.intro; intro s; show execRotl f s = _; unfold execRotl; rfl
  case shli f => apply Exists.intro; intro s; show execShli f s = _; unfold execShli; rfl
  case shrli f => apply Exists.intro; intro s; show execShrli f s = _; unfold execShrli; rfl
  case shrai f => apply Exists.intro; intro s; show execShrai f s = _; unfold execShrai; rfl
  case popc f => apply Exists.intro; intro s; show execPopc f s = _; unfold execPopc; rfl
  case clz f => apply Exists.intro; intro s; show execClz f s = _; unfold execClz; rfl
  case brev f => apply Exists.intro; intro s; show execBrev f s = _; unfold execBrev; rfl
  case bfx f => apply Exists.intro; intro s; show execBfx f s = _; unfold execBfx; rfl
  case bfi f => apply Exists.intro; intro s; show execBfi f s = _; unfold execBfi; rfl
  case iaddx f => apply Exists.intro; intro s; show execIaddx f s = _; unfold execIaddx; rfl
  case isubx f => apply Exists.intro; intro s; show execIsubx f s = _; unfold execIsubx; rfl
  case icmp f => apply Exists.intro; intro s; show execIcmp f s = _; unfold execIcmp; rfl
  case sel f => apply Exists.intro; intro s; show execSel f s = _; unfold execSel; rfl
  case wadd f => apply Exists.intro; intro s; show execWadd f s = _; unfold execWadd; rfl
  case wsub f => apply Exists.intro; intro s; show execWsub f s = _; unfold execWsub; rfl
  case wmulu f => apply Exists.intro; intro s; show execWmulu f s = _; unfold execWmulu; rfl
  case wmuls f => apply Exists.intro; intro s; show execWmuls f s = _; unfold execWmuls; rfl
  case wshl f => apply Exists.intro; intro s; show execWshl f s = _; unfold execWshl; rfl
  case wshrl f => apply Exists.intro; intro s; show execWshrl f s = _; unfold execWshrl; rfl
  case wadds f => apply Exists.intro; intro s; show execWadds f s = _; unfold execWadds; rfl
  case wcmp f => apply Exists.intro; intro s; show execWcmp f s = _; unfold execWcmp; rfl
  case fadd f => apply Exists.intro; intro s; show execFadd f s = _; unfold execFadd; rfl
  case fsub f => apply Exists.intro; intro s; show execFsub f s = _; unfold execFsub; rfl
  case fmul f => apply Exists.intro; intro s; show execFmul f s = _; unfold execFmul; rfl
  case ffma f => apply Exists.intro; intro s; show execFfma f s = _; unfold execFfma; rfl
  case fmin f => apply Exists.intro; intro s; show execFmin f s = _; unfold execFmin; rfl
  case fmax f => apply Exists.intro; intro s; show execFmax f s = _; unfold execFmax; rfl
  case fabs f => apply Exists.intro; intro s; show execFabs f s = _; unfold execFabs; rfl
  case fneg f => apply Exists.intro; intro s; show execFneg f s = _; unfold execFneg; rfl
  case fcmp f => apply Exists.intro; intro s; show execFcmp f s = _; unfold execFcmp; rfl
  case frcp f => apply Exists.intro; intro s; show execFrcp f s = _; unfold execFrcp; rfl
  case fsqrt f => apply Exists.intro; intro s; show execFsqrt f s = _; unfold execFsqrt; rfl
  case frsq f => apply Exists.intro; intro s; show execFrsq f s = _; unfold execFrsq; rfl
  case fexp2 f => apply Exists.intro; intro s; show execFexp2 f s = _; unfold execFexp2; rfl
  case flog2 f => apply Exists.intro; intro s; show execFlog2 f s = _; unfold execFlog2; rfl
  case fsinr f => apply Exists.intro; intro s; show execFsinr f s = _; unfold execFsinr; rfl
  case fcosr f => apply Exists.intro; intro s; show execFcosr f s = _; unfold execFcosr; rfl
  case frint f => apply Exists.intro; intro s; show execFrint f s = _; unfold execFrint; rfl
  case ffloor f => apply Exists.intro; intro s; show execFfloor f s = _; unfold execFfloor; rfl
  case fdiv f => apply Exists.intro; intro s; show execFdiv f s = _; unfold execFdiv; rfl
  case fclass f => apply Exists.intro; intro s; show execFclass f s = _; unfold execFclass; rfl
  case fscale f => apply Exists.intro; intro s; show execFscale f s = _; unfold execFscale; rfl
  case fcpsgn f => apply Exists.intro; intro s; show execFcpsgn f s = _; unfold execFcpsgn; rfl
  case fsat f => apply Exists.intro; intro s; show execFsat f s = _; unfold execFsat; rfl
  case dadd f => apply Exists.intro; intro s; show execDadd f s = _; unfold execDadd; rfl
  case dsub f => apply Exists.intro; intro s; show execDsub f s = _; unfold execDsub; rfl
  case dmul f => apply Exists.intro; intro s; show execDmul f s = _; unfold execDmul; rfl
  case dfma f => apply Exists.intro; intro s; show execDfma f s = _; unfold execDfma; rfl
  case dmin f => apply Exists.intro; intro s; show execDmin f s = _; unfold execDmin; rfl
  case dmax f => apply Exists.intro; intro s; show execDmax f s = _; unfold execDmax; rfl
  case ddiv f => apply Exists.intro; intro s; show execDdiv f s = _; unfold execDdiv; rfl
  case dsqrt f => apply Exists.intro; intro s; show execDsqrt f s = _; unfold execDsqrt; rfl
  case dcmp f => apply Exists.intro; intro s; show execDcmp f s = _; unfold execDcmp; rfl
  case drint f => apply Exists.intro; intro s; show execDrint f s = _; unfold execDrint; rfl
  case dabs f => apply Exists.intro; intro s; show execDabs f s = _; unfold execDabs; rfl
  case dneg f => apply Exists.intro; intro s; show execDneg f s = _; unfold execDneg; rfl
  case hadd2 f => apply Exists.intro; intro s; show execHadd2 f s = _; unfold execHadd2; rfl
  case hmul2 f => apply Exists.intro; intro s; show execHmul2 f s = _; unfold execHmul2; rfl
  case hfma2 f => apply Exists.intro; intro s; show execHfma2 f s = _; unfold execHfma2; rfl
  case hmin2 f => apply Exists.intro; intro s; show execHmin2 f s = _; unfold execHmin2; rfl
  case hmax2 f => apply Exists.intro; intro s; show execHmax2 f s = _; unfold execHmax2; rfl
  case dot4s f => apply Exists.intro; intro s; show execDot4s f s = _; unfold execDot4s; rfl
  case dot4u f => apply Exists.intro; intro s; show execDot4u f s = _; unfold execDot4u; rfl
  case hdot2 f => apply Exists.intro; intro s; show execHdot2 f s = _; unfold execHdot2; rfl
  case cvt f => apply Exists.intro; intro s; show execCvt f s = _; unfold execCvt; rfl
  case qdx4 f => apply Exists.intro; intro s; show execQdx4 f s = _; unfold execQdx4; rfl
  case qdx8 f => apply Exists.intro; intro s; show execQdx8 f s = _; unfold execQdx8; rfl
  case qaq8 f => apply Exists.intro; intro s; show execQaq8 f s = _; unfold execQaq8; rfl
  case shfli f => apply Exists.intro; intro s; show execShfli f s = _; unfold execShfli; rfl
  case shflx f => apply Exists.intro; intro s; show execShflx f s = _; unfold execShflx; rfl
  case shflu f => apply Exists.intro; intro s; show execShflu f s = _; unfold execShflu; rfl
  case shfld f => apply Exists.intro; intro s; show execShfld f s = _; unfold execShfld; rfl
  case radd f => apply Exists.intro; intro s; show execRadd f s = _; unfold execRadd; rfl
  case rfadd f => apply Exists.intro; intro s; show execRfadd f s = _; unfold execRfadd; rfl
  case rmins f => apply Exists.intro; intro s; show execRmins f s = _; unfold execRmins; rfl
  case rmaxs f => apply Exists.intro; intro s; show execRmaxs f s = _; unfold execRmaxs; rfl
  case plog f => apply Exists.intro; intro s; show execPlog f s = _; unfold execPlog; rfl
  case ptov f => apply Exists.intro; intro s; show execPtov f s = _; unfold execPtov; rfl
  case vtop f => apply Exists.intro; intro s; show execVtop f s = _; unfold execVtop; rfl
  case ldo f => apply Exists.intro; intro s; show execLdo f s = _; unfold execLdo; rfl
  case ldoD f => apply Exists.intro; intro s; show execLdoD f s = _; unfold execLdoD; rfl
  case ldoQ f => apply Exists.intro; intro s; show execLdoQ f s = _; unfold execLdoQ; rfl
  case sto f => apply Exists.intro; intro s; show execSto f s = _; unfold execSto; rfl
  case stoD f => apply Exists.intro; intro s; show execStoD f s = _; unfold execStoD; rfl
  case stoQ f => apply Exists.intro; intro s; show execStoQ f s = _; unfold execStoQ; rfl
  case oadd f => apply Exists.intro; intro s; show execOadd f s = _; unfold execOadd; rfl
  case omaxu f => apply Exists.intro; intro s; show execOmaxu f s = _; unfold execOmaxu; rfl
  case ldg f => apply Exists.intro; intro s; show execLdg f s = _; unfold execLdg; rfl
  case ldgD f => apply Exists.intro; intro s; show execLdgD f s = _; unfold execLdgD; rfl
  case ldgQ f => apply Exists.intro; intro s; show execLdgQ f s = _; unfold execLdgQ; rfl
  case stg f => apply Exists.intro; intro s; show execStg f s = _; unfold execStg; rfl
  case stgD f => apply Exists.intro; intro s; show execStgD f s = _; unfold execStgD; rfl
  case stgQ f => apply Exists.intro; intro s; show execStgQ f s = _; unfold execStgQ; rfl
  case credf f => apply Exists.intro; intro s; show execCredf f s = _; unfold execCredf; rfl
  case credd f => apply Exists.intro; intro s; show execCredd f s = _; unfold execCredd; rfl
  case aadd f => apply Exists.intro; intro s; show execAadd f s = _; unfold execAadd; rfl
  case amins f => apply Exists.intro; intro s; show execAmins f s = _; unfold execAmins; rfl
  case amaxs f => apply Exists.intro; intro s; show execAmaxs f s = _; unfold execAmaxs; rfl
  case aand f => apply Exists.intro; intro s; show execAand f s = _; unfold execAand; rfl
  case aor f => apply Exists.intro; intro s; show execAor f s = _; unfold execAor; rfl
  case axor f => apply Exists.intro; intro s; show execAxor f s = _; unfold execAxor; rfl
  case axchg f => apply Exists.intro; intro s; show execAxchg f s = _; unfold execAxchg; rfl
  case acas f => apply Exists.intro; intro s; show execAcas f s = _; unfold execAcas; rfl
  case gnop f => apply Exists.intro; intro s; show execGnop f s = _; unfold execGnop; rfl
  case kmov f => apply Exists.intro; intro s; show execKmov f s = _; unfold execKmov; rfl
  case jmov f => apply Exists.intro; intro s; show execJmov f s = _; unfold execJmov; rfl
  case klit f => apply Exists.intro; intro s; show execKlit f s = _; unfold execKlit; rfl
  case klith f => apply Exists.intro; intro s; show execKlith f s = _; unfold execKlith; rfl
  case kadd f => apply Exists.intro; intro s; show execKadd f s = _; unfold execKadd; rfl
  case jadd f => apply Exists.intro; intro s; show execJadd f s = _; unfold execJadd; rfl
  case ksub f => apply Exists.intro; intro s; show execKsub f s = _; unfold execKsub; rfl
  case jsub f => apply Exists.intro; intro s; show execJsub f s = _; unfold execJsub; rfl
  case kmul f => apply Exists.intro; intro s; show execKmul f s = _; unfold execKmul; rfl
  case kand f => apply Exists.intro; intro s; show execKand f s = _; unfold execKand; rfl
  case kor f => apply Exists.intro; intro s; show execKor f s = _; unfold execKor; rfl
  case kxor f => apply Exists.intro; intro s; show execKxor f s = _; unfold execKxor; rfl
  case kshl f => apply Exists.intro; intro s; show execKshl f s = _; unfold execKshl; rfl
  case jshl f => apply Exists.intro; intro s; show execJshl f s = _; unfold execJshl; rfl
  case kshrl f => apply Exists.intro; intro s; show execKshrl f s = _; unfold execKshrl; rfl
  case jshrl f => apply Exists.intro; intro s; show execJshrl f s = _; unfold execJshrl; rfl
  case kshra f => apply Exists.intro; intro s; show execKshra f s = _; unfold execKshra; rfl
  case kcmp f => apply Exists.intro; intro s; show execKcmp f s = _; unfold execKcmp; rfl
  case jcmp f => apply Exists.intro; intro s; show execJcmp f s = _; unfold execJcmp; rfl
  case ksel f => apply Exists.intro; intro s; show execKsel f s = _; unfold execKsel; rfl
  case kaddi f => apply Exists.intro; intro s; show execKaddi f s = _; unfold execKaddi; rfl
  case voteAny f => apply Exists.intro; intro s; show execVoteAny f s = _; unfold execVoteAny; rfl
  case voteAll f => apply Exists.intro; intro s; show execVoteAll f s = _; unfold execVoteAll; rfl
  case voteNone f => apply Exists.intro; intro s; show execVoteNone f s = _; unfold execVoteNone; rfl
  case ballot f => apply Exists.intro; intro s; show execBallot f s = _; unfold execBallot; rfl
  case kread f => apply Exists.intro; intro s; show execKread f s = _; unfold execKread; rfl
  case rdsv f => apply Exists.intro; intro s; show execRdsv f s = _; unfold execRdsv; rfl
  case bra f => apply Exists.intro; intro s; show execBra f s = _; unfold execBra; rfl
  case brd f => apply Exists.intro; intro s; show execBrd f s = _; unfold execBrd; rfl
  case brx f => apply Exists.intro; intro s; show execBrx f s = _; unfold execBrx; rfl
  case call f => apply Exists.intro; intro s; show execCall f s = _; unfold execCall; rfl
  case callx f => apply Exists.intro; intro s; show execCallx f s = _; unfold execCallx; rfl
  case ret f => apply Exists.intro; intro s; show execRet f s = _; unfold execRet; rfl
  case regang f => apply Exists.intro; intro s; show execRegang f s = _; unfold execRegang; rfl
  case part f => apply Exists.intro; intro s; show execPart f s = _; unfold execPart; rfl
  case exit f => apply Exists.intro; intro s; show execExit f s = _; unfold execExit; rfl
  case yield f => apply Exists.intro; intro s; show execYield f s = _; unfold execYield; rfl
  case setfmt f => apply Exists.intro; intro s; show execSetfmt f s = _; unfold execSetfmt; rfl
  case setfmtLk f => apply Exists.intro; intro s; show execSetfmtLk f s = _; unfold execSetfmtLk; rfl
  case getfmt f => apply Exists.intro; intro s; show execGetfmt f s = _; unfold execGetfmt; rfl
  case getfmtLk f => apply Exists.intro; intro s; show execGetfmtLk f s = _; unfold execGetfmtLk; rfl
  case mma f => apply Exists.intro; intro s; show execMma f s = _; unfold execMma; rfl
  case mmap f => apply Exists.intro; intro s; show execMmap f s = _; unfold execMmap; rfl
  case mmax f => apply Exists.intro; intro s; show execMmax f s = _; unfold execMmax; rfl
  case mclr f => apply Exists.intro; intro s; show execMclr f s = _; unfold execMclr; rfl
  case msta f => apply Exists.intro; intro s; show execMsta f s = _; unfold execMsta; rfl
  case mlda f => apply Exists.intro; intro s; show execMlda f s = _; unfold execMlda; rfl
  case mfence f => apply Exists.intro; intro s; show execMfence f s = _; unfold execMfence; rfl
  case mgath f => apply Exists.intro; intro s; show execMgath f s = _; unfold execMgath; rfl
  case copy f => apply Exists.intro; intro s; show execCopy f s = _; unfold execCopy; rfl
  case tile f => apply Exists.intro; intro s; show execTile f s = _; unfold execTile; rfl
  case puts f => apply Exists.intro; intro s; show execPuts f s = _; unfold execPuts; rfl
  case chain f => apply Exists.intro; intro s; show execChain f s = _; unfold execChain; rfl
  case token f => apply Exists.intro; intro s; show execToken f s = _; unfold execToken; rfl
  case estat f => apply Exists.intro; intro s; show execEstat f s = _; unfold execEstat; rfl
  case cadd f => apply Exists.intro; intro s; show execCadd f s = _; unfold execCadd; rfl
  case cwait f => apply Exists.intro; intro s; show execCwait f s = _; unfold execCwait; rfl
  case cread f => apply Exists.intro; intro s; show execCread f s = _; unfold execCread; rfl
  case bar f => apply Exists.intro; intro s; show execBar f s = _; unfold execBar; rfl
  case bara f => apply Exists.intro; intro s; show execBara f s = _; unfold execBara; rfl
  case barw f => apply Exists.intro; intro s; show execBarw f s = _; unfold execBarw; rfl
  case phase f => apply Exists.intro; intro s; show execPhase f s = _; unfold execPhase; rfl
  case rel f => apply Exists.intro; intro s; show execRel f s = _; unfold execRel; rfl
  case acq f => apply Exists.intro; intro s; show execAcq f s = _; unfold execAcq; rfl
  case oalloc f => apply Exists.intro; intro s; show execOalloc f s = _; unfold execOalloc; rfl
  case ofree f => apply Exists.intro; intro s; show execOfree f s = _; unfold execOfree; rfl
  case orenew f => apply Exists.intro; intro s; show execOrenew f s = _; unfold execOrenew; rfl
  case launch f => apply Exists.intro; intro s; show execLaunch f s = _; unfold execLaunch; rfl
  case tspawn f => apply Exists.intro; intro s; show execTspawn f s = _; unfold execTspawn; rfl
  case tspawnEos f => apply Exists.intro; intro s; show execTspawnEos f s = _; unfold execTspawnEos; rfl
  case tdesc f => apply Exists.intro; intro s; show execTdesc f s = _; unfold execTdesc; rfl
  case texpand f => apply Exists.intro; intro s; show execTexpand f s = _; unfold execTexpand; rfl
  case tback f => apply Exists.intro; intro s; show execTback f s = _; unfold execTback; rfl
  case troot f => apply Exists.intro; intro s; show execTroot f s = _; unfold execTroot; rfl
  case tfree f => apply Exists.intro; intro s; show execTfree f s = _; unfold execTfree; rfl
  case tnew f => apply Exists.intro; intro s; show execTnew f s = _; unfold execTnew; rfl
  case bsplit f => apply Exists.intro; intro s; show execBsplit f s = _; unfold execBsplit; rfl
  case bpoint f => apply Exists.intro; intro s; show execBpoint f s = _; unfold execBpoint; rfl
  case bopen f => apply Exists.intro; intro s; show execBopen f s = _; unfold execBopen; rfl
  case trap f => apply Exists.intro; intro s; show execTrap f s = _; unfold execTrap; rfl
  case rte f => apply Exists.intro; intro s; show execRte f s = _; unfold execRte; rfl
  case rteTo f => apply Exists.intro; intro s; show execRteTo f s = _; unfold execRteTo; rfl
  case bkpt f => apply Exists.intro; intro s; show execBkpt f s = _; unfold execBkpt; rfl
  case rdctl f => apply Exists.intro; intro s; show execRdctl f s = _; unfold execRdctl; rfl
  case wrctl f => apply Exists.intro; intro s; show execWrctl f s = _; unfold execWrctl; rfl
  case sleep f => apply Exists.intro; intro s; show execSleep f s = _; unfold execSleep; rfl
  case mhint f => apply Exists.intro; intro s; show execMhint f s = _; unfold execMhint; rfl
  case oswap f => apply Exists.intro; intro s; show execOswap f s = _; unfold execOswap; rfl
  case errinj f => apply Exists.intro; intro s; show execErrinj f s = _; unfold execErrinj; rfl
  case eread f => apply Exists.intro; intro s; show execEread f s = _; unfold execEread; rfl
  case halt f => apply Exists.intro; intro s; show execHalt f s = _; unfold execHalt; rfl
  all_goals exact absurd (show false = true from h) Bool.false_ne_true

end Sys2Proof.Machine
end

