-- ==== Sys2Proof/Laws/Integers.lean ====
section
/-! SUPPORT. The integer operations of the model in the terms of the pseudocode of R140 to R149. -/

namespace Sys2Proof.Machine

theorem bits_low (x n : Nat) : bits x n 0 = x % 2 ^ (n + 1) := by simp [bits]

theorem shlN_eq {w : Nat} (a : BitVec w) (n : Nat) : shlN a n = if w ≤ n then 0 else BitVec.ofNat w (a.toNat * 2 ^ n) := by
  unfold shlN
  split
  · rfl
  · apply BitVec.eq_of_toNat_eq; simp [Nat.shiftLeft_eq]

theorem shrN_eq {w : Nat} (a : BitVec w) (n : Nat) : shrN a n = if w ≤ n then 0 else BitVec.ofNat w (a.toNat / 2 ^ n) := by
  unfold shrN
  split
  · rfl
  · apply BitVec.eq_of_toNat_eq
    rw [BitVec.toNat_ushiftRight, Nat.shiftRight_eq_div_pow, BitVec.toNat_ofNat, Nat.mod_eq_of_lt]
    exact Nat.lt_of_le_of_lt (Nat.div_le_self _ _) a.isLt

theorem sarN_eq (a : Word) (n : Nat) :
    sarN a n = if 32 ≤ n then (if a.getLsbD 31 then 0xFFFFFFFF else 0) else BitVec.ofInt 32 (a.toInt / 2 ^ n) := by
  unfold sarN
  split
  · simp only [BitVec.msb_eq_getLsbD_last]; rfl
  · apply BitVec.eq_of_toInt_eq
    rw [BitVec.toInt_sshiftRight, BitVec.toInt_ofInt, Int.shiftRight_eq_div_pow]
    have h1 := a.toInt_lt
    have h2 := a.le_toInt
    have hp : (0 : Int) < 2 ^ n := by positivity
    have hq : (1 : Int) ≤ 2 ^ n := hp
    have h3 : -2147483648 ≤ a.toInt / 2 ^ n := (Int.le_ediv_iff_mul_le hp).mpr (by norm_num at h2 ⊢; nlinarith)
    have h4 : a.toInt / 2 ^ n < 2147483648 := (Int.ediv_lt_iff_lt_mul hp).mpr (by norm_num at h1 ⊢; nlinarith)
    rw [Int.bmod_eq_of_le]
    · rfl
    · simpa using h3
    · simpa using h4

theorem rotlN_eq (a : Word) (n : Nat) :
    rotlN a n = if n % 32 = 0 then a else (a <<< (n % 32)) ||| (a >>> (32 - n % 32)) := by
  unfold rotlN
  split
  · rfl
  · rw [BitVec.rotateLeft_def, Nat.mod_mod]

/-- Bits put in from the top down come out in reverse. -/
theorem testBit_foldl_bits (f : Nat → Bool) (n j : Nat) :
    ((List.range n).foldl (fun r i => 2 * r + (f i).toNat) 0).testBit j = (decide (j < n) && f (n - 1 - j)) := by
  induction n generalizing j with
  | zero => simp
  | succ n ih =>
    rw [List.range_succ, List.foldl_append]
    simp only [List.foldl_cons, List.foldl_nil]
    cases j with
    | zero => cases h : f n <;> simp [Nat.testBit_zero, h, Nat.add_mod]
    | succ j =>
      rw [Nat.testBit_succ]
      have e : (2 * (List.range n).foldl (fun r i => 2 * r + (f i).toNat) 0 + (f n).toNat) / 2 =
          (List.range n).foldl (fun r i => 2 * r + (f i).toNat) 0 := by
        cases f n <;> (simp; try omega)
      rw [e, ih]
      have e2 : n + 1 - 1 - (j + 1) = n - 1 - j := by omega
      rw [e2]
      simp

theorem brev32_eq (a : Word) : brev32 a = a.reverse := by
  apply BitVec.eq_of_getLsbD_eq
  intro i hi
  unfold brev32
  rw [BitVec.getLsbD_ofNat, testBit_foldl_bits, BitVec.getLsbD_reverse, BitVec.getMsbD]
  simp [hi]

/-- The field length of R143. -/
theorem bfLen_eq (b : Word) : bfLen b = min (min (b.toNat / 2 ^ 8 % 2 ^ 6) 32) (32 - b.toNat % 2 ^ 5) := by
  simp [bfLen, bits]

theorem bfLen_le (b : Word) : bfLen b ≤ 32 := by rw [bfLen_eq]; omega

/-- BFX, with the field as a number and its sign bit (R143). -/
theorem bfx_eq (a b : Word) (n x : Nat) (hn : n = bfLen b) (hx : x = a.toNat / 2 ^ (b.toNat % 2 ^ 5) % 2 ^ n) :
    bfx a b =
      if b.getLsbD 16 ∧ n > 0 ∧ x.testBit (n - 1) then BitVec.ofInt 32 ((x : Int) - 2 ^ n) else BitVec.ofNat 32 x := by
  have hb : bits b.toNat 4 0 = b.toNat % 2 ^ 5 := by simp [bits]
  unfold bfx
  dsimp only
  rw [hb, ← hn, ← hx]
  have hn := hn ▸ bfLen_le b
  have hx : x < 2 ^ n := hx ▸ Nat.mod_lt _ (by positivity)
  by_cases h16 : b.getLsbD 16 = true
  · by_cases h0 : 0 < n
    · have ht : x.testBit (n - 1) = decide (2 ^ (n - 1) ≤ x) := by
        rw [Nat.testBit_eq_decide_div_mod_eq]
        obtain ⟨m, rfl⟩ : ∃ m, n = m + 1 := ⟨n - 1, by omega⟩
        simp only [Nat.add_sub_cancel] at *
        rw [pow_succ] at hx
        by_cases h : 2 ^ m ≤ x
        · have : x / 2 ^ m = 1 := Nat.div_eq_of_lt_le (by omega) (by omega)
          simp [this, h]
        · have : x / 2 ^ m = 0 := Nat.div_eq_of_lt (by omega)
          simp [this, h]
      by_cases h : 2 ^ (n - 1) ≤ x
      · simp only [h16, h0, h, ht, decide_true, Bool.and_true, if_true, and_self]
        have hp : (2 : Nat) ^ n ≤ 2 ^ 32 := Nat.pow_le_pow_right (by omega) hn
        have hq : (2 : Int) ^ n = ((2 ^ n : Nat) : Int) := by push_cast; rfl
        apply BitVec.eq_of_toNat_eq
        rw [BitVec.toNat_ofNat, BitVec.toNat_ofInt, hq]
        generalize 2 ^ n = p at hp
        omega
      · simp [h16, h0, h, ht]
    · simp [h0]
  · simp only [Bool.not_eq_true] at h16
    simp only [h16, Bool.false_and, Bool.false_eq_true, if_false, false_and]

/-- The four-byte dot products as sums of integers (R181). -/
theorem dot4_signed (a b : Word) :
    dot4 true a b = BitVec.ofInt 32
      (((List.range 4).map fun j => (a.extractLsb' (8 * j) 8).toInt * (b.extractLsb' (8 * j) 8).toInt).sum) := by
  have h : ∀ x : BitVec 8, x.signExtend 32 = BitVec.ofInt 32 x.toInt := fun x => by
    apply BitVec.eq_of_toInt_eq
    rw [BitVec.toInt_signExtend_of_le (by omega), BitVec.toInt_ofInt]
    have h1 := x.toInt_lt
    have h2 := x.le_toInt
    rw [Int.bmod_eq_of_le] <;> norm_num at * <;> omega
  simp only [dot4, List.range, List.range.loop, List.foldl_cons, List.foldl_nil, List.map_cons, List.map_nil, List.sum_cons,
    List.sum_nil, if_true, h, BitVec.ofInt_mul, BitVec.ofInt_add, add_zero]
  ac_rfl

theorem dot4_unsigned (a b : Word) :
    dot4 false a b = BitVec.ofInt 32
      (((List.range 4).map fun j =>
        ((a.extractLsb' (8 * j) 8).toNat : Int) * ((b.extractLsb' (8 * j) 8).toNat : Int)).sum) := by
  have h : ∀ x : BitVec 8, x.setWidth 32 = BitVec.ofInt 32 x.toNat := fun x => by
    apply BitVec.eq_of_toNat_eq; simp
  simp only [dot4, List.range, List.range.loop, List.foldl_cons, List.foldl_nil, List.map_cons, List.map_nil, List.sum_cons,
    List.sum_nil, Bool.false_eq_true, if_false, h, BitVec.ofInt_mul, BitVec.ofInt_add, add_zero]
  ac_rfl

/-- A sign extension is the same integer in more bits. -/
theorem signExtend_eq_ofInt {v w : Nat} (x : BitVec v) (h : v ≤ w) : x.signExtend w = BitVec.ofInt w x.toInt := by
  apply BitVec.eq_of_toInt_eq
  rw [BitVec.toInt_signExtend_of_le h, BitVec.toInt_ofInt]
  have e : (x.signExtend w).toInt = x.toInt := BitVec.toInt_signExtend_of_le h
  have e2 := BitVec.toInt_bmod_cancel (x.signExtend w)
  rw [e] at e2
  exact e2.symm

end Sys2Proof.Machine
end

