-- ==== Sys2Proof/Laws/Memory.lean ====
section
/-! SUPPORT. The memory operations beyond single writes keep memory in canonical form: a write in its order, the copy of a page's frame,
and what outlasts a reset of the dies. -/

namespace Sys2Proof.Machine

/-- A copy within a canonical map is canonical. -/
theorem mwf_rekey {α : Type} [DecidableEq α] {d : α} {m : AMap α} (src dst n : Nat) (h : mwf d m = true) :
    mwf d (rekey src dst n m) = true := by
  have key : ∀ (l r : AMap α), (∀ e ∈ l, e.2 ≠ d) → mwf d r = true →
      mwf d (l.foldl (fun r e => mput r (e.1 - src + dst) e.2) r) = true := by
    intro l
    induction l with
    | nil => exact fun r _ hr => hr
    | cons e t ih =>
      exact fun r hl hr => ih _ (fun x hx => hl x (List.mem_cons_of_mem _ hx)) (mwf_mput _ (hl e List.mem_cons_self) hr)
  refine key _ _ (fun e he => ?_) (mwf_filter _ h)
  exact ((mwf_iff d m).mp h).1 e (List.mem_of_mem_filter he)

theorem Memory.wf_putMem {s : State} (a n v : Nat) (h : Memory.wf s.mem = true) : Memory.wf (putMem s a n v).mem = true :=
  Memory.wf_memWrite _ _ _ h

theorem Memory.wf_copyFrame {s : State} (src dst n : Nat) (h : Memory.wf s.mem = true) :
    Memory.wf (copyFrame s src dst n).mem = true := mwf_rekey src dst n h

theorem Memory.wf_extOnly {m : List Host.Cell} (h : Memory.wf m = true) : Memory.wf (extOnly m) = true := Memory.wf_filter _ h

end Sys2Proof.Machine
end

