-- ==== Sys2Proof/Laws/PerInstr.lean ====
section
/-! SUPPORT. Decoding the words of an instruction gives it back: the statement for one instruction, and its proof for each
constructor. The shapes of words come first. -/

namespace Sys2Proof.Laws.RoundTrip

open Sys2Proof

/-- The second word of an encoding, zero where there is none. -/
def secondWord (i : Instr) : Word := ((encode i)[1]?).getD 0

/-- The words of a well-formed encoded instruction decode to it and to its length. -/
def Statement (i : Instr) : Prop :=
  isEncoded i = true → wellFormed i = true → decodeWords (firstWord i) (secondWord i) = .instr i (instrLen i)

/-! ## Shapes -/

/-- The check of unused fields, as the decoder makes it. -/
def unusedOk (w : Word) : Instr → Bool
  | .nop _ => nopOk w
  | .gnop _ => nopOk w
  | j => fixedOk j

theorem decode_of {w l : Word} {i : Instr}
    (h : (if w.getLsbD 31 then groupInstr w (if twoWord w then l else 0) else laneInstr w (if twoWord w then l else 0)) = some i)
    (ok : unusedOk w i = true) : decodeWords w l = .instr i (if twoWord w then 8 else 4) := by
  unfold decodeWords
  simp only [h]
  exact if_pos ok

theorem trip_event {i : Instr} (h : encode i = []) : Statement i := by
  intro he
  rw [isEncoded, h] at he
  exact absurd he (by decide)

theorem first_lit {i : Instr} {w l : Word} (h : encode i = withLit w l) : firstWord i = w := by
  rw [firstWord, h, withLit]; split <;> rfl

theorem len_lit {i : Instr} {w l : Word} (h : encode i = withLit w l) : instrLen i = if twoWord w then 8 else 4 := by
  rw [instrLen, h, withLit]; split <;> rfl

theorem second_lit {i : Instr} {w l : Word} (h : encode i = withLit w l) :
    secondWord i = if twoWord w then l else 0 := by
  rw [secondWord, h, withLit]; split <;> rfl

theorem trip_lane {i : Instr} {w l : Word} (h : encode i = withLit w l) (hl : litOf i = l) (hg : w.getLsbD 31 = false)
    (hd : laneInstr w l = some i) (hf : fixedOk i = true → unusedOk w i = true) : Statement i := by
  intro _ hw
  simp only [wellFormed, Bool.and_eq_true, litOk, Bool.or_eq_true, beq_iff_eq, hl, first_lit h] at hw
  rw [first_lit h, second_lit h, len_lit h]
  refine decode_of ?_ (hf hw.1.1)
  rw [hg, if_neg (by decide)]
  by_cases ht : twoWord w = true
  · simp only [ht, if_true]; exact hd
  · have h0 : l = 0 := hw.2.resolve_right ht
    subst h0
    simp only [ite_self]; exact hd

theorem getLA_word (op : BitVec 7) (f : LA) : getLA (laneWord f.e op f.g (f.d ++ f.a ++ f.b)) f.lit = f := by
  simp only [getLA, lane_e, lane_g, lane_rest _ _ _ _ _ _ (by omega : 14 + 7 ≤ 21), lane_rest _ _ _ _ _ _ (by omega : 7 + 7 ≤ 21),
    lane_rest _ _ _ _ _ _ (by omega : 0 + 7 ≤ 21), rest_d, rest_a, rest_b]

theorem trip_la (mk : LA → Instr) (op : BitVec 7) (he : ∀ f, encode (mk f) = encLA op f) (hl : ∀ f, litOf (mk f) = f.lit)
    (hd : ∀ w l, w.extractLsb' 23 7 = op → laneInstr w l = some (mk (getLA w l)))
    (hf : ∀ w f, fixedOk (mk f) = true → unusedOk w (mk f) = true) (f : LA) : Statement (mk f) :=
  trip_lane (he f) (hl f) (lane_group _ _ _ _) (by rw [hd _ _ (lane_op _ _ _ _), getLA_word]) (hf _ f)

theorem getLS_word (op : BitVec 7) (f : LS) : getLS (laneWord f.e op f.g (f.d ++ f.a ++ f.imm)) f.lit = f := by
  simp only [getLS, lane_e, lane_g, lane_rest _ _ _ _ _ _ (by omega : 14 + 7 ≤ 21), lane_rest _ _ _ _ _ _ (by omega : 7 + 7 ≤ 21),
    lane_rest _ _ _ _ _ _ (by omega : 0 + 7 ≤ 21), rest_d, rest_a, rest_b]

theorem trip_ls (mk : LS → Instr) (op : BitVec 7) (he : ∀ f, encode (mk f) = encLS op f) (hl : ∀ f, litOf (mk f) = f.lit)
    (hd : ∀ w l, w.extractLsb' 23 7 = op → laneInstr w l = some (mk (getLS w l)))
    (hf : ∀ w f, fixedOk (mk f) = true → unusedOk w (mk f) = true) (f : LS) : Statement (mk f) :=
  trip_lane (he f) (hl f) (lane_group _ _ _ _) (by rw [hd _ _ (lane_op _ _ _ _), getLS_word]) (hf _ f)

theorem getLP_word (op : BitVec 7) (f : LP) : getLP (laneWord f.e op f.g (f.pd ++ f.cond ++ f.a ++ f.b)) f.lit = f := by
  simp only [getLP, lane_e, lane_g, lane_rest _ _ _ _ _ _ (by omega : 7 + 7 ≤ 21),
    lane_rest _ _ _ _ _ _ (by omega : 0 + 7 ≤ 21), lane_rest _ _ _ _ _ _ (by omega : 18 + 3 ≤ 21),
    lane_rest _ _ _ _ _ _ (by omega : 14 + 4 ≤ 21), restP_pd, restP_cond, restP_a, restP_b]

theorem trip_lp (mk : LP → Instr) (op : BitVec 7) (he : ∀ f, encode (mk f) = encLP op f) (hl : ∀ f, litOf (mk f) = f.lit)
    (hd : ∀ w l, w.extractLsb' 23 7 = op → laneInstr w l = some (mk (getLP w l)))
    (hf : ∀ w f, fixedOk (mk f) = true → unusedOk w (mk f) = true) (f : LP) : Statement (mk f) :=
  trip_lane (he f) (hl f) (lane_group _ _ _ _) (by rw [hd _ _ (lane_op _ _ _ _), getLP_word]) (hf _ f)

theorem getLM_word (op : BitVec 7) (f : LM) : getLM (laneWord f.e op f.g (f.d ++ f.a ++ f.imm)) f.lit = f := by
  simp only [getLM, lane_e, lane_g, lane_rest _ _ _ _ _ _ (by omega : 14 + 7 ≤ 21), lane_rest _ _ _ _ _ _ (by omega : 7 + 7 ≤ 21),
    lane_rest _ _ _ _ _ _ (by omega : 0 + 7 ≤ 21), rest_d, rest_a, rest_b]

theorem trip_lm (mk : LM → Instr) (op : BitVec 7) (he : ∀ f, encode (mk f) = encLM op f) (hl : ∀ f, litOf (mk f) = f.lit)
    (hd : ∀ w l, w.extractLsb' 23 7 = op → laneInstr w l = some (mk (getLM w l)))
    (hf : ∀ w f, fixedOk (mk f) = true → unusedOk w (mk f) = true) (f : LM) : Statement (mk f) :=
  trip_lane (he f) (hl f) (lane_group _ _ _ _) (by rw [hd _ _ (lane_op _ _ _ _), getLM_word]) (hf _ f)

theorem trip_nop (f : LN) : Statement (.nop f) := by
  intro _ _
  obtain ⟨e⟩ := f
  cases e <;> decide

theorem trip_gnop (f : GN) : Statement (.gnop f) := by
  intro _ _
  obtain ⟨e⟩ := f
  cases e <;> decide

/-- Opcodes of group words with a second word (R29). -/
def twoOp (op : BitVec 6) : Bool := op.toNat == 0x15 || op.toNat == 0x16 || op.toNat == 0x18

theorem two_group (e : Bool) (op : BitVec 6) (r : BitVec 24) : twoWord (groupWord e op r) = twoOp op := by
  rw [twoWord, group_group, if_pos rfl, group_op]; rfl

theorem trip_one {i : Instr} {e : Bool} {op : BitVec 6} {r : BitVec 24} (h : encode i = [groupWord e op r]) (h2 : twoOp op = false)
    (hd : fixedOk i = true → groupInstr (groupWord e op r) 0 = some i) (hf : ∀ w, fixedOk i = true → unusedOk w i = true) :
    Statement i := by
  intro _ hw
  simp only [wellFormed, Bool.and_eq_true] at hw
  have hl : instrLen i = if twoWord (groupWord e op r) then 8 else 4 := by rw [instrLen, h, two_group, h2]; rfl
  have hw1 : firstWord i = groupWord e op r := by rw [firstWord, h]; rfl
  rw [hw1, hl]
  refine decode_of ?_ (hf _ hw.1.1)
  rw [group_group, if_pos rfl, two_group, h2]
  exact hd hw.1.1

theorem trip_two {i : Instr} {e : Bool} {op : BitVec 6} {r : BitVec 24} {l : Word} (h : encode i = [groupWord e op r, l])
    (h2 : twoOp op = true) (hd : groupInstr (groupWord e op r) l = some i)
    (hf : ∀ w, fixedOk i = true → unusedOk w i = true) : Statement i := by
  intro _ hw
  simp only [wellFormed, Bool.and_eq_true] at hw
  have hl : instrLen i = if twoWord (groupWord e op r) then 8 else 4 := by rw [instrLen, h, two_group, h2]; rfl
  have hw1 : firstWord i = groupWord e op r := by rw [firstWord, h]; rfl
  have hw2 : secondWord i = l := by rw [secondWord, h]; rfl
  rw [hw1, hw2, hl]
  refine decode_of ?_ (hf _ hw.1.1)
  rw [group_group, if_pos rfl, two_group, h2]
  exact hd

theorem getGA_word (op : BitVec 6) (f : GA) : getGA (groupWord f.e op (f.d ++ f.a ++ f.b ++ f.x)) = f := by
  simp only [getGA, group_e, group_rest _ _ _ _ _ (by omega : 18 + 6 ≤ 24), group_rest _ _ _ _ _ (by omega : 12 + 6 ≤ 24),
    group_rest _ _ _ _ _ (by omega : 6 + 6 ≤ 24), group_rest _ _ _ _ _ (by omega : 0 + 6 ≤ 24), restG_d, restG_a, restG_b, restG_x]

theorem getGX_word (op : BitVec 6) (f : GX) : getGX (groupWord f.e op (f.d ++ f.a ++ f.b ++ f.x)) f.off = f := by
  simp only [getGX, group_e, group_rest _ _ _ _ _ (by omega : 18 + 6 ≤ 24), group_rest _ _ _ _ _ (by omega : 12 + 6 ≤ 24),
    group_rest _ _ _ _ _ (by omega : 6 + 6 ≤ 24), group_rest _ _ _ _ _ (by omega : 0 + 6 ≤ 24), restG_d, restG_a, restG_b, restG_x]

theorem getGI_word (op : BitVec 6) (f : GI) : getGI (groupWord f.e op (f.d ++ f.h ++ f.imm)) = f := by
  simp only [getGI, group_e, group_rest _ _ _ _ _ (by omega : 18 + 6 ≤ 24), group_rest _ _ _ _ _ (by omega : 16 + 2 ≤ 24),
    group_rest _ _ _ _ _ (by omega : 0 + 16 ≤ 24), restI_d, restI_h, restI_i]

theorem getGB_word (op : BitVec 6) (f : GB) : getGB (groupWord f.e op (f.sel ++ f.off)) = f := by
  simp only [getGB, group_e, group_rest _ _ _ _ _ (by omega : 20 + 4 ≤ 24), group_rest _ _ _ _ _ (by omega : 0 + 20 ≤ 24),
    restB_s, restB_o]

theorem getGD_word (op : BitVec 6) (f : GD) : getGD (groupWord f.e op (f.sel ++ f.off)) f.join = f := by
  simp only [getGD, group_e, group_rest _ _ _ _ _ (by omega : 20 + 4 ≤ 24), group_rest _ _ _ _ _ (by omega : 0 + 20 ≤ 24),
    restB_s, restB_o]

theorem trip_ga (mk : GA → Instr) (op : BitVec 6) (he : ∀ f, encode (mk f) = encGA op f) (h2 : twoOp op = false)
    (hd : ∀ w, w.extractLsb' 24 6 = op → fixedOk (mk (getGA w)) = true → groupInstr w 0 = some (mk (getGA w)))
    (hf : ∀ w f, fixedOk (mk f) = true → unusedOk w (mk f) = true) (f : GA) : Statement (mk f) :=
  trip_one (he f) h2 (fun h => by rw [hd _ (group_op _ _ _) (by rw [getGA_word]; exact h), getGA_word]) fun w h => hf w f h

theorem trip_gi (mk : GI → Instr) (op : BitVec 6) (he : ∀ f, encode (mk f) = encGI op f) (h2 : twoOp op = false)
    (hd : ∀ w, w.extractLsb' 24 6 = op → groupInstr w 0 = some (mk (getGI w)))
    (hf : ∀ w f, fixedOk (mk f) = true → unusedOk w (mk f) = true) (f : GI) : Statement (mk f) :=
  trip_one (he f) h2 (fun _ => by rw [hd _ (group_op _ _ _), getGI_word]) fun w h => hf w f h

theorem trip_gb (mk : GB → Instr) (op : BitVec 6) (he : ∀ f, encode (mk f) = encGB op f) (h2 : twoOp op = false)
    (hd : ∀ w, w.extractLsb' 24 6 = op → groupInstr w 0 = some (mk (getGB w)))
    (hf : ∀ w f, fixedOk (mk f) = true → unusedOk w (mk f) = true) (f : GB) : Statement (mk f) :=
  trip_one (he f) h2 (fun _ => by rw [hd _ (group_op _ _ _), getGB_word]) fun w h => hf w f h

theorem trip_gx (mk : GX → Instr) (op : BitVec 6) (he : ∀ f, encode (mk f) = encGX op f) (h2 : twoOp op = true)
    (hd : ∀ w l, w.extractLsb' 24 6 = op → groupInstr w l = some (mk (getGX w l)))
    (hf : ∀ w f, fixedOk (mk f) = true → unusedOk w (mk f) = true) (f : GX) : Statement (mk f) :=
  trip_two (he f) h2 (by rw [hd _ _ (group_op _ _ _), getGX_word]) fun w h => hf w f h

theorem trip_gd (mk : GD → Instr) (op : BitVec 6) (he : ∀ f, encode (mk f) = encGD op f) (h2 : twoOp op = true)
    (hd : ∀ w l, w.extractLsb' 24 6 = op → groupInstr w l = some (mk (getGD w l)))
    (hf : ∀ w f, fixedOk (mk f) = true → unusedOk w (mk f) = true) (f : GD) : Statement (mk f) :=
  trip_two (he f) h2 (by rw [hd _ _ (group_op _ _ _), getGD_word]) fun w h => hf w f h

/-! ## The constructors -/

theorem nop (f : LN) : Statement (.nop f) := trip_nop f
theorem mov (f : LA) : Statement (.mov f) := trip_la .mov 1 (fun _ => rfl) (fun _ => rfl) (fun _ _ h => by rw [laneInstr, h]; rfl) (fun _ _ h => h) f
theorem iadd (f : LA) : Statement (.iadd f) := trip_la .iadd 2 (fun _ => rfl) (fun _ => rfl) (fun _ _ h => by rw [laneInstr, h]; rfl) (fun _ _ h => h) f
theorem isub (f : LA) : Statement (.isub f) := trip_la .isub 3 (fun _ => rfl) (fun _ => rfl) (fun _ _ h => by rw [laneInstr, h]; rfl) (fun _ _ h => h) f
theorem imul (f : LA) : Statement (.imul f) := trip_la .imul 4 (fun _ => rfl) (fun _ => rfl) (fun _ _ h => by rw [laneInstr, h]; rfl) (fun _ _ h => h) f
theorem imulhs (f : LA) : Statement (.imulhs f) := trip_la .imulhs 5 (fun _ => rfl) (fun _ => rfl) (fun _ _ h => by rw [laneInstr, h]; rfl) (fun _ _ h => h) f
theorem imulhu (f : LA) : Statement (.imulhu f) := trip_la .imulhu 6 (fun _ => rfl) (fun _ => rfl) (fun _ _ h => by rw [laneInstr, h]; rfl) (fun _ _ h => h) f
theorem imad (f : LA) : Statement (.imad f) := trip_la .imad 7 (fun _ => rfl) (fun _ => rfl) (fun _ _ h => by rw [laneInstr, h]; rfl) (fun _ _ h => h) f
theorem imins (f : LA) : Statement (.imins f) := trip_la .imins 8 (fun _ => rfl) (fun _ => rfl) (fun _ _ h => by rw [laneInstr, h]; rfl) (fun _ _ h => h) f
theorem iminu (f : LA) : Statement (.iminu f) := trip_la .iminu 9 (fun _ => rfl) (fun _ => rfl) (fun _ _ h => by rw [laneInstr, h]; rfl) (fun _ _ h => h) f
theorem imaxs (f : LA) : Statement (.imaxs f) := trip_la .imaxs 10 (fun _ => rfl) (fun _ => rfl) (fun _ _ h => by rw [laneInstr, h]; rfl) (fun _ _ h => h) f
theorem imaxu (f : LA) : Statement (.imaxu f) := trip_la .imaxu 11 (fun _ => rfl) (fun _ => rfl) (fun _ _ h => by rw [laneInstr, h]; rfl) (fun _ _ h => h) f
theorem and (f : LA) : Statement (.and f) := trip_la .and 12 (fun _ => rfl) (fun _ => rfl) (fun _ _ h => by rw [laneInstr, h]; rfl) (fun _ _ h => h) f
theorem or (f : LA) : Statement (.or f) := trip_la .or 13 (fun _ => rfl) (fun _ => rfl) (fun _ _ h => by rw [laneInstr, h]; rfl) (fun _ _ h => h) f
theorem xor (f : LA) : Statement (.xor f) := trip_la .xor 14 (fun _ => rfl) (fun _ => rfl) (fun _ _ h => by rw [laneInstr, h]; rfl) (fun _ _ h => h) f
theorem andn (f : LA) : Statement (.andn f) := trip_la .andn 15 (fun _ => rfl) (fun _ => rfl) (fun _ _ h => by rw [laneInstr, h]; rfl) (fun _ _ h => h) f
theorem shl (f : LA) : Statement (.shl f) := trip_la .shl 16 (fun _ => rfl) (fun _ => rfl) (fun _ _ h => by rw [laneInstr, h]; rfl) (fun _ _ h => h) f
theorem shrl (f : LA) : Statement (.shrl f) := trip_la .shrl 17 (fun _ => rfl) (fun _ => rfl) (fun _ _ h => by rw [laneInstr, h]; rfl) (fun _ _ h => h) f
theorem shra (f : LA) : Statement (.shra f) := trip_la .shra 18 (fun _ => rfl) (fun _ => rfl) (fun _ _ h => by rw [laneInstr, h]; rfl) (fun _ _ h => h) f
theorem rotl (f : LA) : Statement (.rotl f) := trip_la .rotl 19 (fun _ => rfl) (fun _ => rfl) (fun _ _ h => by rw [laneInstr, h]; rfl) (fun _ _ h => h) f
theorem shli (f : LS) : Statement (.shli f) := trip_ls .shli 20 (fun _ => rfl) (fun _ => rfl) (fun _ _ h => by rw [laneInstr, h]; rfl) (fun _ _ h => h) f
theorem shrli (f : LS) : Statement (.shrli f) := trip_ls .shrli 21 (fun _ => rfl) (fun _ => rfl) (fun _ _ h => by rw [laneInstr, h]; rfl) (fun _ _ h => h) f
theorem shrai (f : LS) : Statement (.shrai f) := trip_ls .shrai 22 (fun _ => rfl) (fun _ => rfl) (fun _ _ h => by rw [laneInstr, h]; rfl) (fun _ _ h => h) f
theorem popc (f : LA) : Statement (.popc f) := trip_la .popc 23 (fun _ => rfl) (fun _ => rfl) (fun _ _ h => by rw [laneInstr, h]; rfl) (fun _ _ h => h) f
theorem clz (f : LA) : Statement (.clz f) := trip_la .clz 24 (fun _ => rfl) (fun _ => rfl) (fun _ _ h => by rw [laneInstr, h]; rfl) (fun _ _ h => h) f
theorem brev (f : LA) : Statement (.brev f) := trip_la .brev 25 (fun _ => rfl) (fun _ => rfl) (fun _ _ h => by rw [laneInstr, h]; rfl) (fun _ _ h => h) f
theorem bfx (f : LA) : Statement (.bfx f) := trip_la .bfx 26 (fun _ => rfl) (fun _ => rfl) (fun _ _ h => by rw [laneInstr, h]; rfl) (fun _ _ h => h) f
theorem bfi (f : LA) : Statement (.bfi f) := trip_la .bfi 27 (fun _ => rfl) (fun _ => rfl) (fun _ _ h => by rw [laneInstr, h]; rfl) (fun _ _ h => h) f
theorem iaddx (f : LA) : Statement (.iaddx f) := trip_la .iaddx 28 (fun _ => rfl) (fun _ => rfl) (fun _ _ h => by rw [laneInstr, h]; rfl) (fun _ _ h => h) f
theorem isubx (f : LA) : Statement (.isubx f) := trip_la .isubx 29 (fun _ => rfl) (fun _ => rfl) (fun _ _ h => by rw [laneInstr, h]; rfl) (fun _ _ h => h) f
theorem icmp (f : LP) : Statement (.icmp f) := trip_lp .icmp 30 (fun _ => rfl) (fun _ => rfl) (fun _ _ h => by rw [laneInstr, h]; rfl) (fun _ _ h => h) f
theorem sel (f : LA) : Statement (.sel f) := trip_la .sel 31 (fun _ => rfl) (fun _ => rfl) (fun _ _ h => by rw [laneInstr, h]; rfl) (fun _ _ h => h) f
theorem wadd (f : LA) : Statement (.wadd f) := trip_la .wadd 32 (fun _ => rfl) (fun _ => rfl) (fun _ _ h => by rw [laneInstr, h]; rfl) (fun _ _ h => h) f
theorem wsub (f : LA) : Statement (.wsub f) := trip_la .wsub 33 (fun _ => rfl) (fun _ => rfl) (fun _ _ h => by rw [laneInstr, h]; rfl) (fun _ _ h => h) f
theorem wmulu (f : LA) : Statement (.wmulu f) := trip_la .wmulu 34 (fun _ => rfl) (fun _ => rfl) (fun _ _ h => by rw [laneInstr, h]; rfl) (fun _ _ h => h) f
theorem wmuls (f : LA) : Statement (.wmuls f) := trip_la .wmuls 35 (fun _ => rfl) (fun _ => rfl) (fun _ _ h => by rw [laneInstr, h]; rfl) (fun _ _ h => h) f
theorem wshl (f : LA) : Statement (.wshl f) := trip_la .wshl 36 (fun _ => rfl) (fun _ => rfl) (fun _ _ h => by rw [laneInstr, h]; rfl) (fun _ _ h => h) f
theorem wshrl (f : LA) : Statement (.wshrl f) := trip_la .wshrl 37 (fun _ => rfl) (fun _ => rfl) (fun _ _ h => by rw [laneInstr, h]; rfl) (fun _ _ h => h) f
theorem wadds (f : LA) : Statement (.wadds f) := trip_la .wadds 38 (fun _ => rfl) (fun _ => rfl) (fun _ _ h => by rw [laneInstr, h]; rfl) (fun _ _ h => h) f
theorem wcmp (f : LP) : Statement (.wcmp f) := trip_lp .wcmp 39 (fun _ => rfl) (fun _ => rfl) (fun _ _ h => by rw [laneInstr, h]; rfl) (fun _ _ h => h) f
theorem fadd (f : LA) : Statement (.fadd f) := trip_la .fadd 40 (fun _ => rfl) (fun _ => rfl) (fun _ _ h => by rw [laneInstr, h]; rfl) (fun _ _ h => h) f
theorem fsub (f : LA) : Statement (.fsub f) := trip_la .fsub 41 (fun _ => rfl) (fun _ => rfl) (fun _ _ h => by rw [laneInstr, h]; rfl) (fun _ _ h => h) f
theorem fmul (f : LA) : Statement (.fmul f) := trip_la .fmul 42 (fun _ => rfl) (fun _ => rfl) (fun _ _ h => by rw [laneInstr, h]; rfl) (fun _ _ h => h) f
theorem ffma (f : LA) : Statement (.ffma f) := trip_la .ffma 43 (fun _ => rfl) (fun _ => rfl) (fun _ _ h => by rw [laneInstr, h]; rfl) (fun _ _ h => h) f
theorem fmin (f : LA) : Statement (.fmin f) := trip_la .fmin 44 (fun _ => rfl) (fun _ => rfl) (fun _ _ h => by rw [laneInstr, h]; rfl) (fun _ _ h => h) f
theorem fmax (f : LA) : Statement (.fmax f) := trip_la .fmax 45 (fun _ => rfl) (fun _ => rfl) (fun _ _ h => by rw [laneInstr, h]; rfl) (fun _ _ h => h) f
theorem fabs (f : LA) : Statement (.fabs f) := trip_la .fabs 46 (fun _ => rfl) (fun _ => rfl) (fun _ _ h => by rw [laneInstr, h]; rfl) (fun _ _ h => h) f
theorem fneg (f : LA) : Statement (.fneg f) := trip_la .fneg 47 (fun _ => rfl) (fun _ => rfl) (fun _ _ h => by rw [laneInstr, h]; rfl) (fun _ _ h => h) f
theorem fcmp (f : LP) : Statement (.fcmp f) := trip_lp .fcmp 48 (fun _ => rfl) (fun _ => rfl) (fun _ _ h => by rw [laneInstr, h]; rfl) (fun _ _ h => h) f
theorem frcp (f : LA) : Statement (.frcp f) := trip_la .frcp 49 (fun _ => rfl) (fun _ => rfl) (fun _ _ h => by rw [laneInstr, h]; rfl) (fun _ _ h => h) f
theorem fsqrt (f : LA) : Statement (.fsqrt f) := trip_la .fsqrt 50 (fun _ => rfl) (fun _ => rfl) (fun _ _ h => by rw [laneInstr, h]; rfl) (fun _ _ h => h) f
theorem frsq (f : LA) : Statement (.frsq f) := trip_la .frsq 51 (fun _ => rfl) (fun _ => rfl) (fun _ _ h => by rw [laneInstr, h]; rfl) (fun _ _ h => h) f
theorem fexp2 (f : LA) : Statement (.fexp2 f) := trip_la .fexp2 52 (fun _ => rfl) (fun _ => rfl) (fun _ _ h => by rw [laneInstr, h]; rfl) (fun _ _ h => h) f
theorem flog2 (f : LA) : Statement (.flog2 f) := trip_la .flog2 53 (fun _ => rfl) (fun _ => rfl) (fun _ _ h => by rw [laneInstr, h]; rfl) (fun _ _ h => h) f
theorem fsinr (f : LA) : Statement (.fsinr f) := trip_la .fsinr 54 (fun _ => rfl) (fun _ => rfl) (fun _ _ h => by rw [laneInstr, h]; rfl) (fun _ _ h => h) f
theorem fcosr (f : LA) : Statement (.fcosr f) := trip_la .fcosr 55 (fun _ => rfl) (fun _ => rfl) (fun _ _ h => by rw [laneInstr, h]; rfl) (fun _ _ h => h) f
theorem frint (f : LA) : Statement (.frint f) := trip_la .frint 56 (fun _ => rfl) (fun _ => rfl) (fun _ _ h => by rw [laneInstr, h]; rfl) (fun _ _ h => h) f
theorem ffloor (f : LA) : Statement (.ffloor f) := trip_la .ffloor 57 (fun _ => rfl) (fun _ => rfl) (fun _ _ h => by rw [laneInstr, h]; rfl) (fun _ _ h => h) f
theorem fdiv (f : LA) : Statement (.fdiv f) := trip_la .fdiv 58 (fun _ => rfl) (fun _ => rfl) (fun _ _ h => by rw [laneInstr, h]; rfl) (fun _ _ h => h) f
theorem fclass (f : LA) : Statement (.fclass f) := trip_la .fclass 59 (fun _ => rfl) (fun _ => rfl) (fun _ _ h => by rw [laneInstr, h]; rfl) (fun _ _ h => h) f
theorem fscale (f : LA) : Statement (.fscale f) := trip_la .fscale 60 (fun _ => rfl) (fun _ => rfl) (fun _ _ h => by rw [laneInstr, h]; rfl) (fun _ _ h => h) f
theorem fcpsgn (f : LA) : Statement (.fcpsgn f) := trip_la .fcpsgn 61 (fun _ => rfl) (fun _ => rfl) (fun _ _ h => by rw [laneInstr, h]; rfl) (fun _ _ h => h) f
theorem fsat (f : LA) : Statement (.fsat f) := trip_la .fsat 62 (fun _ => rfl) (fun _ => rfl) (fun _ _ h => by rw [laneInstr, h]; rfl) (fun _ _ h => h) f
theorem dadd (f : LA) : Statement (.dadd f) := trip_la .dadd 64 (fun _ => rfl) (fun _ => rfl) (fun _ _ h => by rw [laneInstr, h]; rfl) (fun _ _ h => h) f
theorem dsub (f : LA) : Statement (.dsub f) := trip_la .dsub 65 (fun _ => rfl) (fun _ => rfl) (fun _ _ h => by rw [laneInstr, h]; rfl) (fun _ _ h => h) f
theorem dmul (f : LA) : Statement (.dmul f) := trip_la .dmul 66 (fun _ => rfl) (fun _ => rfl) (fun _ _ h => by rw [laneInstr, h]; rfl) (fun _ _ h => h) f
theorem dfma (f : LA) : Statement (.dfma f) := trip_la .dfma 67 (fun _ => rfl) (fun _ => rfl) (fun _ _ h => by rw [laneInstr, h]; rfl) (fun _ _ h => h) f
theorem dmin (f : LA) : Statement (.dmin f) := trip_la .dmin 68 (fun _ => rfl) (fun _ => rfl) (fun _ _ h => by rw [laneInstr, h]; rfl) (fun _ _ h => h) f
theorem dmax (f : LA) : Statement (.dmax f) := trip_la .dmax 69 (fun _ => rfl) (fun _ => rfl) (fun _ _ h => by rw [laneInstr, h]; rfl) (fun _ _ h => h) f
theorem ddiv (f : LA) : Statement (.ddiv f) := trip_la .ddiv 70 (fun _ => rfl) (fun _ => rfl) (fun _ _ h => by rw [laneInstr, h]; rfl) (fun _ _ h => h) f
theorem dsqrt (f : LA) : Statement (.dsqrt f) := trip_la .dsqrt 71 (fun _ => rfl) (fun _ => rfl) (fun _ _ h => by rw [laneInstr, h]; rfl) (fun _ _ h => h) f
theorem dcmp (f : LP) : Statement (.dcmp f) := trip_lp .dcmp 72 (fun _ => rfl) (fun _ => rfl) (fun _ _ h => by rw [laneInstr, h]; rfl) (fun _ _ h => h) f
theorem drint (f : LA) : Statement (.drint f) := trip_la .drint 73 (fun _ => rfl) (fun _ => rfl) (fun _ _ h => by rw [laneInstr, h]; rfl) (fun _ _ h => h) f
theorem dabs (f : LA) : Statement (.dabs f) := trip_la .dabs 74 (fun _ => rfl) (fun _ => rfl) (fun _ _ h => by rw [laneInstr, h]; rfl) (fun _ _ h => h) f
theorem dneg (f : LA) : Statement (.dneg f) := trip_la .dneg 75 (fun _ => rfl) (fun _ => rfl) (fun _ _ h => by rw [laneInstr, h]; rfl) (fun _ _ h => h) f
theorem hadd2 (f : LA) : Statement (.hadd2 f) := trip_la .hadd2 76 (fun _ => rfl) (fun _ => rfl) (fun _ _ h => by rw [laneInstr, h]; rfl) (fun _ _ h => h) f
theorem hmul2 (f : LA) : Statement (.hmul2 f) := trip_la .hmul2 77 (fun _ => rfl) (fun _ => rfl) (fun _ _ h => by rw [laneInstr, h]; rfl) (fun _ _ h => h) f
theorem hfma2 (f : LA) : Statement (.hfma2 f) := trip_la .hfma2 78 (fun _ => rfl) (fun _ => rfl) (fun _ _ h => by rw [laneInstr, h]; rfl) (fun _ _ h => h) f
theorem hmin2 (f : LA) : Statement (.hmin2 f) := trip_la .hmin2 79 (fun _ => rfl) (fun _ => rfl) (fun _ _ h => by rw [laneInstr, h]; rfl) (fun _ _ h => h) f
theorem hmax2 (f : LA) : Statement (.hmax2 f) := trip_la .hmax2 80 (fun _ => rfl) (fun _ => rfl) (fun _ _ h => by rw [laneInstr, h]; rfl) (fun _ _ h => h) f
theorem dot4s (f : LA) : Statement (.dot4s f) := trip_la .dot4s 81 (fun _ => rfl) (fun _ => rfl) (fun _ _ h => by rw [laneInstr, h]; rfl) (fun _ _ h => h) f
theorem dot4u (f : LA) : Statement (.dot4u f) := trip_la .dot4u 82 (fun _ => rfl) (fun _ => rfl) (fun _ _ h => by rw [laneInstr, h]; rfl) (fun _ _ h => h) f
theorem hdot2 (f : LA) : Statement (.hdot2 f) := trip_la .hdot2 83 (fun _ => rfl) (fun _ => rfl) (fun _ _ h => by rw [laneInstr, h]; rfl) (fun _ _ h => h) f
theorem cvt (f : LS) : Statement (.cvt f) := trip_ls .cvt 84 (fun _ => rfl) (fun _ => rfl) (fun _ _ h => by rw [laneInstr, h]; rfl) (fun _ _ h => h) f
theorem qdx4 (f : LA) : Statement (.qdx4 f) := trip_la .qdx4 85 (fun _ => rfl) (fun _ => rfl) (fun _ _ h => by rw [laneInstr, h]; rfl) (fun _ _ h => h) f
theorem qdx8 (f : LA) : Statement (.qdx8 f) := trip_la .qdx8 86 (fun _ => rfl) (fun _ => rfl) (fun _ _ h => by rw [laneInstr, h]; rfl) (fun _ _ h => h) f
theorem qaq8 (f : LA) : Statement (.qaq8 f) := trip_la .qaq8 87 (fun _ => rfl) (fun _ => rfl) (fun _ _ h => by rw [laneInstr, h]; rfl) (fun _ _ h => h) f
theorem shfli (f : LA) : Statement (.shfli f) := trip_la .shfli 88 (fun _ => rfl) (fun _ => rfl) (fun _ _ h => by rw [laneInstr, h]; rfl) (fun _ _ h => h) f
theorem shflx (f : LS) : Statement (.shflx f) := trip_ls .shflx 89 (fun _ => rfl) (fun _ => rfl) (fun _ _ h => by rw [laneInstr, h]; rfl) (fun _ _ h => h) f
theorem shflu (f : LS) : Statement (.shflu f) := trip_ls .shflu 90 (fun _ => rfl) (fun _ => rfl) (fun _ _ h => by rw [laneInstr, h]; rfl) (fun _ _ h => h) f
theorem shfld (f : LS) : Statement (.shfld f) := trip_ls .shfld 91 (fun _ => rfl) (fun _ => rfl) (fun _ _ h => by rw [laneInstr, h]; rfl) (fun _ _ h => h) f
theorem radd (f : LA) : Statement (.radd f) := trip_la .radd 92 (fun _ => rfl) (fun _ => rfl) (fun _ _ h => by rw [laneInstr, h]; rfl) (fun _ _ h => h) f
theorem rfadd (f : LA) : Statement (.rfadd f) := trip_la .rfadd 93 (fun _ => rfl) (fun _ => rfl) (fun _ _ h => by rw [laneInstr, h]; rfl) (fun _ _ h => h) f
theorem rmins (f : LA) : Statement (.rmins f) := trip_la .rmins 94 (fun _ => rfl) (fun _ => rfl) (fun _ _ h => by rw [laneInstr, h]; rfl) (fun _ _ h => h) f
theorem rmaxs (f : LA) : Statement (.rmaxs f) := trip_la .rmaxs 95 (fun _ => rfl) (fun _ => rfl) (fun _ _ h => by rw [laneInstr, h]; rfl) (fun _ _ h => h) f
theorem plog (f : LP) : Statement (.plog f) := trip_lp .plog 96 (fun _ => rfl) (fun _ => rfl) (fun _ _ h => by rw [laneInstr, h]; rfl) (fun _ _ h => h) f
theorem ptov (f : LA) : Statement (.ptov f) := trip_la .ptov 97 (fun _ => rfl) (fun _ => rfl) (fun _ _ h => by rw [laneInstr, h]; rfl) (fun _ _ h => h) f
theorem vtop (f : LP) : Statement (.vtop f) := trip_lp .vtop 98 (fun _ => rfl) (fun _ => rfl) (fun _ _ h => by rw [laneInstr, h]; rfl) (fun _ _ h => h) f
theorem ldo (f : LM) : Statement (.ldo f) := trip_lm .ldo 104 (fun _ => rfl) (fun _ => rfl) (fun _ _ h => by rw [laneInstr, h]; rfl) (fun _ _ h => h) f
theorem ldoD (f : LM) : Statement (.ldoD f) := trip_lm .ldoD 105 (fun _ => rfl) (fun _ => rfl) (fun _ _ h => by rw [laneInstr, h]; rfl) (fun _ _ h => h) f
theorem ldoQ (f : LM) : Statement (.ldoQ f) := trip_lm .ldoQ 106 (fun _ => rfl) (fun _ => rfl) (fun _ _ h => by rw [laneInstr, h]; rfl) (fun _ _ h => h) f
theorem sto (f : LM) : Statement (.sto f) := trip_lm .sto 107 (fun _ => rfl) (fun _ => rfl) (fun _ _ h => by rw [laneInstr, h]; rfl) (fun _ _ h => h) f
theorem stoD (f : LM) : Statement (.stoD f) := trip_lm .stoD 108 (fun _ => rfl) (fun _ => rfl) (fun _ _ h => by rw [laneInstr, h]; rfl) (fun _ _ h => h) f
theorem stoQ (f : LM) : Statement (.stoQ f) := trip_lm .stoQ 109 (fun _ => rfl) (fun _ => rfl) (fun _ _ h => by rw [laneInstr, h]; rfl) (fun _ _ h => h) f
theorem oadd (f : LM) : Statement (.oadd f) := trip_lm .oadd 110 (fun _ => rfl) (fun _ => rfl) (fun _ _ h => by rw [laneInstr, h]; rfl) (fun _ _ h => h) f
theorem omaxu (f : LM) : Statement (.omaxu f) := trip_lm .omaxu 111 (fun _ => rfl) (fun _ => rfl) (fun _ _ h => by rw [laneInstr, h]; rfl) (fun _ _ h => h) f
theorem ldg (f : LM) : Statement (.ldg f) := trip_lm .ldg 112 (fun _ => rfl) (fun _ => rfl) (fun _ _ h => by rw [laneInstr, h]; rfl) (fun _ _ h => h) f
theorem ldgD (f : LM) : Statement (.ldgD f) := trip_lm .ldgD 113 (fun _ => rfl) (fun _ => rfl) (fun _ _ h => by rw [laneInstr, h]; rfl) (fun _ _ h => h) f
theorem ldgQ (f : LM) : Statement (.ldgQ f) := trip_lm .ldgQ 114 (fun _ => rfl) (fun _ => rfl) (fun _ _ h => by rw [laneInstr, h]; rfl) (fun _ _ h => h) f
theorem stg (f : LM) : Statement (.stg f) := trip_lm .stg 115 (fun _ => rfl) (fun _ => rfl) (fun _ _ h => by rw [laneInstr, h]; rfl) (fun _ _ h => h) f
theorem stgD (f : LM) : Statement (.stgD f) := trip_lm .stgD 116 (fun _ => rfl) (fun _ => rfl) (fun _ _ h => by rw [laneInstr, h]; rfl) (fun _ _ h => h) f
theorem stgQ (f : LM) : Statement (.stgQ f) := trip_lm .stgQ 117 (fun _ => rfl) (fun _ => rfl) (fun _ _ h => by rw [laneInstr, h]; rfl) (fun _ _ h => h) f
theorem credf (f : LM) : Statement (.credf f) := trip_lm .credf 118 (fun _ => rfl) (fun _ => rfl) (fun _ _ h => by rw [laneInstr, h]; rfl) (fun _ _ h => h) f
theorem credd (f : LM) : Statement (.credd f) := trip_lm .credd 119 (fun _ => rfl) (fun _ => rfl) (fun _ _ h => by rw [laneInstr, h]; rfl) (fun _ _ h => h) f
theorem aadd (f : LM) : Statement (.aadd f) := trip_lm .aadd 120 (fun _ => rfl) (fun _ => rfl) (fun _ _ h => by rw [laneInstr, h]; rfl) (fun _ _ h => h) f
theorem amins (f : LM) : Statement (.amins f) := trip_lm .amins 121 (fun _ => rfl) (fun _ => rfl) (fun _ _ h => by rw [laneInstr, h]; rfl) (fun _ _ h => h) f
theorem amaxs (f : LM) : Statement (.amaxs f) := trip_lm .amaxs 122 (fun _ => rfl) (fun _ => rfl) (fun _ _ h => by rw [laneInstr, h]; rfl) (fun _ _ h => h) f
theorem aand (f : LM) : Statement (.aand f) := trip_lm .aand 123 (fun _ => rfl) (fun _ => rfl) (fun _ _ h => by rw [laneInstr, h]; rfl) (fun _ _ h => h) f
theorem aor (f : LM) : Statement (.aor f) := trip_lm .aor 124 (fun _ => rfl) (fun _ => rfl) (fun _ _ h => by rw [laneInstr, h]; rfl) (fun _ _ h => h) f
theorem axor (f : LM) : Statement (.axor f) := trip_lm .axor 125 (fun _ => rfl) (fun _ => rfl) (fun _ _ h => by rw [laneInstr, h]; rfl) (fun _ _ h => h) f
theorem axchg (f : LM) : Statement (.axchg f) := trip_lm .axchg 126 (fun _ => rfl) (fun _ => rfl) (fun _ _ h => by rw [laneInstr, h]; rfl) (fun _ _ h => h) f
theorem acas (f : LM) : Statement (.acas f) := trip_lm .acas 127 (fun _ => rfl) (fun _ => rfl) (fun _ _ h => by rw [laneInstr, h]; rfl) (fun _ _ h => h) f
theorem gnop (f : GN) : Statement (.gnop f) := trip_gnop f
theorem kmov (f : GA) : Statement (.kmov f) := trip_ga .kmov 1 (fun _ => rfl) rfl (fun _ h k => by
  have k := of_decide_eq_true k
  rw [groupInstr, h]
  simp [k]) (fun _ _ h => h) f
theorem jmov (f : GA) : Statement (.jmov f) := trip_ga .jmov 1 (fun _ => rfl) rfl (fun _ h k => by
  have k := of_decide_eq_true k
  rw [groupInstr, h]
  simp [k]) (fun _ _ h => h) f
theorem klit (f : GI) : Statement (.klit f) := trip_gi .klit 2 (fun _ => rfl) rfl (fun _ h => by rw [groupInstr, h]; rfl) (fun _ _ h => h) f
theorem klith (f : GI) : Statement (.klith f) := trip_gi .klith 3 (fun _ => rfl) rfl (fun _ h => by rw [groupInstr, h]; rfl) (fun _ _ h => h) f
theorem kadd (f : GA) : Statement (.kadd f) := trip_ga .kadd 4 (fun _ => rfl) rfl (fun _ h k => by
  have k := of_decide_eq_true k
  rw [groupInstr, h]
  simp [k]) (fun _ _ h => h) f
theorem jadd (f : GA) : Statement (.jadd f) := trip_ga .jadd 4 (fun _ => rfl) rfl (fun _ h k => by
  have k := of_decide_eq_true k
  rw [groupInstr, h]
  simp [k]) (fun _ _ h => h) f
theorem ksub (f : GA) : Statement (.ksub f) := trip_ga .ksub 5 (fun _ => rfl) rfl (fun _ h k => by
  have k := of_decide_eq_true k
  rw [groupInstr, h]
  simp [k]) (fun _ _ h => h) f
theorem jsub (f : GA) : Statement (.jsub f) := trip_ga .jsub 5 (fun _ => rfl) rfl (fun _ h k => by
  have k := of_decide_eq_true k
  rw [groupInstr, h]
  simp [k]) (fun _ _ h => h) f
theorem kmul (f : GA) : Statement (.kmul f) := trip_ga .kmul 6 (fun _ => rfl) rfl (fun _ h _ => by rw [groupInstr, h]; rfl) (fun _ _ h => h) f
theorem kand (f : GA) : Statement (.kand f) := trip_ga .kand 7 (fun _ => rfl) rfl (fun _ h _ => by rw [groupInstr, h]; rfl) (fun _ _ h => h) f
theorem kor (f : GA) : Statement (.kor f) := trip_ga .kor 8 (fun _ => rfl) rfl (fun _ h _ => by rw [groupInstr, h]; rfl) (fun _ _ h => h) f
theorem kxor (f : GA) : Statement (.kxor f) := trip_ga .kxor 9 (fun _ => rfl) rfl (fun _ h _ => by rw [groupInstr, h]; rfl) (fun _ _ h => h) f
theorem kshl (f : GA) : Statement (.kshl f) := trip_ga .kshl 10 (fun _ => rfl) rfl (fun _ h k => by
  have k := of_decide_eq_true k
  rw [groupInstr, h]
  simp [k]) (fun _ _ h => h) f
theorem jshl (f : GA) : Statement (.jshl f) := trip_ga .jshl 10 (fun _ => rfl) rfl (fun _ h k => by
  have k := of_decide_eq_true k
  rw [groupInstr, h]
  simp [k]) (fun _ _ h => h) f
theorem kshrl (f : GA) : Statement (.kshrl f) := trip_ga .kshrl 11 (fun _ => rfl) rfl (fun _ h k => by
  have k := of_decide_eq_true k
  rw [groupInstr, h]
  simp [k]) (fun _ _ h => h) f
theorem jshrl (f : GA) : Statement (.jshrl f) := trip_ga .jshrl 11 (fun _ => rfl) rfl (fun _ h k => by
  have k := of_decide_eq_true k
  rw [groupInstr, h]
  simp [k]) (fun _ _ h => h) f
theorem kshra (f : GA) : Statement (.kshra f) := trip_ga .kshra 12 (fun _ => rfl) rfl (fun _ h _ => by rw [groupInstr, h]; rfl) (fun _ _ h => h) f
theorem kcmp (f : GA) : Statement (.kcmp f) := trip_ga .kcmp 13 (fun _ => rfl) rfl (fun _ h k => by
  have k := of_decide_eq_true k
  rw [groupInstr, h]
  exact if_pos k) (fun _ _ h => h) f
theorem jcmp (f : GA) : Statement (.jcmp f) := trip_ga .jcmp 13 (fun _ => rfl) rfl (fun _ h k => by
  have k := of_decide_eq_true k
  rw [groupInstr, h]
  exact (if_neg (by rw [k]; decide)).trans (if_pos k)) (fun _ _ h => h) f
theorem ksel (f : GA) : Statement (.ksel f) := trip_ga .ksel 14 (fun _ => rfl) rfl (fun _ h _ => by rw [groupInstr, h]; rfl) (fun _ _ h => h) f
theorem kaddi (f : GA) : Statement (.kaddi f) := trip_ga .kaddi 15 (fun _ => rfl) rfl (fun _ h _ => by rw [groupInstr, h]; rfl) (fun _ _ h => h) f
theorem voteAny (f : GA) : Statement (.voteAny f) := trip_ga .voteAny 16 (fun _ => rfl) rfl (fun _ h k => by
  have k := of_decide_eq_true k
  rw [groupInstr, h]
  simp [k]) (fun _ _ h => h) f
theorem voteAll (f : GA) : Statement (.voteAll f) := trip_ga .voteAll 16 (fun _ => rfl) rfl (fun _ h k => by
  have k := of_decide_eq_true k
  rw [groupInstr, h]
  simp [k]) (fun _ _ h => h) f
theorem voteNone (f : GA) : Statement (.voteNone f) := trip_ga .voteNone 16 (fun _ => rfl) rfl (fun _ h k => by
  have k := of_decide_eq_true k
  rw [groupInstr, h]
  simp [k]) (fun _ _ h => h) f
theorem ballot (f : GA) : Statement (.ballot f) := trip_ga .ballot 17 (fun _ => rfl) rfl (fun _ h _ => by rw [groupInstr, h]; rfl) (fun _ _ h => h) f
theorem kread (f : GA) : Statement (.kread f) := trip_ga .kread 18 (fun _ => rfl) rfl (fun _ h _ => by rw [groupInstr, h]; rfl) (fun _ _ h => h) f
theorem rdsv (f : GA) : Statement (.rdsv f) := trip_ga .rdsv 19 (fun _ => rfl) rfl (fun _ h _ => by rw [groupInstr, h]; rfl) (fun _ _ h => h) f
theorem bra (f : GB) : Statement (.bra f) := trip_gb .bra 20 (fun _ => rfl) rfl (fun _ h => by rw [groupInstr, h]; rfl) (fun _ _ h => h) f
theorem brd (f : GD) : Statement (.brd f) := trip_gd .brd 21 (fun _ => rfl) rfl (fun _ _ h => by rw [groupInstr, h]; rfl) (fun _ _ h => h) f
theorem brx (f : GX) : Statement (.brx f) := trip_gx .brx 22 (fun _ => rfl) rfl (fun _ _ h => by rw [groupInstr, h]; rfl) (fun _ _ h => h) f
theorem call (f : GB) : Statement (.call f) := trip_gb .call 23 (fun _ => rfl) rfl (fun _ h => by rw [groupInstr, h]; rfl) (fun _ _ h => h) f
theorem callx (f : GX) : Statement (.callx f) := trip_gx .callx 24 (fun _ => rfl) rfl (fun _ _ h => by rw [groupInstr, h]; rfl) (fun _ _ h => h) f
theorem ret (f : GA) : Statement (.ret f) := trip_ga .ret 25 (fun _ => rfl) rfl (fun _ h _ => by rw [groupInstr, h]; rfl) (fun _ _ h => h) f
theorem regang (f : GA) : Statement (.regang f) := trip_ga .regang 26 (fun _ => rfl) rfl (fun _ h _ => by rw [groupInstr, h]; rfl) (fun _ _ h => h) f
theorem part (f : GB) : Statement (.part f) := trip_gb .part 27 (fun _ => rfl) rfl (fun _ h => by rw [groupInstr, h]; rfl) (fun _ _ h => h) f
theorem exit (f : GA) : Statement (.exit f) := trip_ga .exit 28 (fun _ => rfl) rfl (fun _ h _ => by rw [groupInstr, h]; rfl) (fun _ _ h => h) f
theorem yield (f : GA) : Statement (.yield f) := trip_ga .yield 29 (fun _ => rfl) rfl (fun _ h _ => by rw [groupInstr, h]; rfl) (fun _ _ h => h) f
theorem setfmt (f : GA) : Statement (.setfmt f) := trip_ga .setfmt 30 (fun _ => rfl) rfl (fun _ h k => by
  have k := of_decide_eq_true k
  rw [groupInstr, h]
  simp [k]) (fun _ _ h => h) f
theorem setfmtLk (f : GA) : Statement (.setfmtLk f) := trip_ga .setfmtLk 30 (fun _ => rfl) rfl (fun _ h k => by
  have k := of_decide_eq_true k
  rw [groupInstr, h]
  simp [k]) (fun _ _ h => h) f
theorem getfmt (f : GA) : Statement (.getfmt f) := trip_ga .getfmt 31 (fun _ => rfl) rfl (fun _ h k => by
  have k := of_decide_eq_true k
  rw [groupInstr, h]
  simp [k]) (fun _ _ h => h) f
theorem getfmtLk (f : GA) : Statement (.getfmtLk f) := trip_ga .getfmtLk 31 (fun _ => rfl) rfl (fun _ h k => by
  have k := of_decide_eq_true k
  rw [groupInstr, h]
  simp [k]) (fun _ _ h => h) f
theorem mma (f : GA) : Statement (.mma f) := trip_ga .mma 32 (fun _ => rfl) rfl (fun _ h _ => by rw [groupInstr, h]; rfl) (fun _ _ h => h) f
theorem mmap (f : GA) : Statement (.mmap f) := trip_ga .mmap 33 (fun _ => rfl) rfl (fun _ h _ => by rw [groupInstr, h]; rfl) (fun _ _ h => h) f
theorem mmax (f : GA) : Statement (.mmax f) := trip_ga .mmax 34 (fun _ => rfl) rfl (fun _ h _ => by rw [groupInstr, h]; rfl) (fun _ _ h => h) f
theorem mclr (f : GA) : Statement (.mclr f) := trip_ga .mclr 35 (fun _ => rfl) rfl (fun _ h _ => by rw [groupInstr, h]; rfl) (fun _ _ h => h) f
theorem msta (f : GA) : Statement (.msta f) := trip_ga .msta 36 (fun _ => rfl) rfl (fun _ h _ => by rw [groupInstr, h]; rfl) (fun _ _ h => h) f
theorem mlda (f : GA) : Statement (.mlda f) := trip_ga .mlda 37 (fun _ => rfl) rfl (fun _ h _ => by rw [groupInstr, h]; rfl) (fun _ _ h => h) f
theorem mfence (f : GA) : Statement (.mfence f) := trip_ga .mfence 38 (fun _ => rfl) rfl (fun _ h _ => by rw [groupInstr, h]; rfl) (fun _ _ h => h) f
theorem mgath (f : GA) : Statement (.mgath f) := trip_ga .mgath 39 (fun _ => rfl) rfl (fun _ h _ => by rw [groupInstr, h]; rfl) (fun _ _ h => h) f
theorem copy (f : GA) : Statement (.copy f) := trip_ga .copy 40 (fun _ => rfl) rfl (fun _ h _ => by rw [groupInstr, h]; rfl) (fun _ _ h => h) f
theorem tile (f : GA) : Statement (.tile f) := trip_ga .tile 41 (fun _ => rfl) rfl (fun _ h _ => by rw [groupInstr, h]; rfl) (fun _ _ h => h) f
theorem puts (f : GA) : Statement (.puts f) := trip_ga .puts 42 (fun _ => rfl) rfl (fun _ h _ => by rw [groupInstr, h]; rfl) (fun _ _ h => h) f
theorem chain (f : GA) : Statement (.chain f) := trip_ga .chain 43 (fun _ => rfl) rfl (fun _ h _ => by rw [groupInstr, h]; rfl) (fun _ _ h => h) f
theorem token (f : GA) : Statement (.token f) := trip_ga .token 44 (fun _ => rfl) rfl (fun _ h _ => by rw [groupInstr, h]; rfl) (fun _ _ h => h) f
theorem estat (f : GA) : Statement (.estat f) := trip_ga .estat 45 (fun _ => rfl) rfl (fun _ h _ => by rw [groupInstr, h]; rfl) (fun _ _ h => h) f
theorem cadd (f : GA) : Statement (.cadd f) := trip_ga .cadd 46 (fun _ => rfl) rfl (fun _ h _ => by rw [groupInstr, h]; rfl) (fun _ _ h => h) f
theorem cwait (f : GA) : Statement (.cwait f) := trip_ga .cwait 47 (fun _ => rfl) rfl (fun _ h _ => by rw [groupInstr, h]; rfl) (fun _ _ h => h) f
theorem cread (f : GA) : Statement (.cread f) := trip_ga .cread 48 (fun _ => rfl) rfl (fun _ h _ => by rw [groupInstr, h]; rfl) (fun _ _ h => h) f
theorem bar (f : GA) : Statement (.bar f) := trip_ga .bar 49 (fun _ => rfl) rfl (fun _ h _ => by rw [groupInstr, h]; rfl) (fun _ _ h => h) f
theorem bara (f : GA) : Statement (.bara f) := trip_ga .bara 50 (fun _ => rfl) rfl (fun _ h _ => by rw [groupInstr, h]; rfl) (fun _ _ h => h) f
theorem barw (f : GA) : Statement (.barw f) := trip_ga .barw 51 (fun _ => rfl) rfl (fun _ h _ => by rw [groupInstr, h]; rfl) (fun _ _ h => h) f
theorem phase (f : GA) : Statement (.phase f) := trip_ga .phase 52 (fun _ => rfl) rfl (fun _ h _ => by rw [groupInstr, h]; rfl) (fun _ _ h => h) f
theorem rel (f : GA) : Statement (.rel f) := trip_ga .rel 53 (fun _ => rfl) rfl (fun _ h _ => by rw [groupInstr, h]; rfl) (fun _ _ h => h) f
theorem acq (f : GA) : Statement (.acq f) := trip_ga .acq 54 (fun _ => rfl) rfl (fun _ h _ => by rw [groupInstr, h]; rfl) (fun _ _ h => h) f
theorem oalloc (f : GA) : Statement (.oalloc f) := trip_ga .oalloc 55 (fun _ => rfl) rfl (fun _ h _ => by rw [groupInstr, h]; rfl) (fun _ _ h => h) f
theorem ofree (f : GA) : Statement (.ofree f) := trip_ga .ofree 56 (fun _ => rfl) rfl (fun _ h _ => by rw [groupInstr, h]; rfl) (fun _ _ h => h) f
theorem orenew (f : GA) : Statement (.orenew f) := trip_ga .orenew 57 (fun _ => rfl) rfl (fun _ h _ => by rw [groupInstr, h]; rfl) (fun _ _ h => h) f
theorem launch (f : GA) : Statement (.launch f) := trip_ga .launch 58 (fun _ => rfl) rfl (fun _ h _ => by rw [groupInstr, h]; rfl) (fun _ _ h => h) f
theorem tspawn (f : GA) : Statement (.tspawn f) := trip_ga .tspawn 59 (fun _ => rfl) rfl (fun _ h k => by
  have k := of_decide_eq_true k
  rw [groupInstr, h]
  simp [k]) (fun _ _ h => h) f
theorem tspawnEos (f : GA) : Statement (.tspawnEos f) := trip_ga .tspawnEos 59 (fun _ => rfl) rfl (fun _ h k => by
  have k := of_decide_eq_true k
  rw [groupInstr, h]
  simp [k]) (fun _ _ h => h) f
theorem tdesc (f : GA) : Statement (.tdesc f) := trip_ga .tdesc 60 (fun _ => rfl) rfl (fun _ h k => by
  have k := of_decide_eq_true k
  rw [groupInstr, h]
  simp [k]) (fun _ _ h => h) f
theorem texpand (f : GA) : Statement (.texpand f) := trip_ga .texpand 60 (fun _ => rfl) rfl (fun _ h k => by
  have k := of_decide_eq_true k
  rw [groupInstr, h]
  simp [k]) (fun _ _ h => h) f
theorem tback (f : GA) : Statement (.tback f) := trip_ga .tback 60 (fun _ => rfl) rfl (fun _ h k => by
  have k := of_decide_eq_true k
  rw [groupInstr, h]
  simp [k]) (fun _ _ h => h) f
theorem troot (f : GA) : Statement (.troot f) := trip_ga .troot 60 (fun _ => rfl) rfl (fun _ h k => by
  have k := of_decide_eq_true k
  rw [groupInstr, h]
  simp [k]) (fun _ _ h => h) f
theorem tfree (f : GA) : Statement (.tfree f) := trip_ga .tfree 60 (fun _ => rfl) rfl (fun _ h k => by
  have k := of_decide_eq_true k
  rw [groupInstr, h]
  simp [k]) (fun _ _ h => h) f
theorem tnew (f : GA) : Statement (.tnew f) := trip_ga .tnew 60 (fun _ => rfl) rfl (fun _ h k => by
  have k := of_decide_eq_true k
  rw [groupInstr, h]
  simp [k]) (fun _ _ h => h) f
theorem bsplit (f : GA) : Statement (.bsplit f) := trip_ga .bsplit 61 (fun _ => rfl) rfl (fun _ h k => by
  have k := of_decide_eq_true k
  rw [groupInstr, h]
  simp [k]) (fun _ _ h => h) f
theorem bpoint (f : GA) : Statement (.bpoint f) := trip_ga .bpoint 61 (fun _ => rfl) rfl (fun _ h k => by
  have k := of_decide_eq_true k
  rw [groupInstr, h]
  simp [k]) (fun _ _ h => h) f
theorem bopen (f : GA) : Statement (.bopen f) := trip_ga .bopen 61 (fun _ => rfl) rfl (fun _ h k => by
  have k := of_decide_eq_true k
  rw [groupInstr, h]
  simp [k]) (fun _ _ h => h) f
theorem trap (f : GA) : Statement (.trap f) := trip_ga .trap 63 (fun _ => rfl) rfl (fun _ h k => by
  have k := of_decide_eq_true k
  rw [groupInstr, h]
  simp [k]) (fun _ _ h => h) f
theorem rte (f : GA) : Statement (.rte f) := trip_ga .rte 63 (fun _ => rfl) rfl (fun _ h k => by
  have k := of_decide_eq_true k
  rw [groupInstr, h]
  simp [k]) (fun _ _ h => h) f
theorem rteTo (f : GA) : Statement (.rteTo f) := trip_ga .rteTo 63 (fun _ => rfl) rfl (fun _ h k => by
  have k := of_decide_eq_true k
  rw [groupInstr, h]
  simp [k]) (fun _ _ h => h) f
theorem bkpt (f : GA) : Statement (.bkpt f) := trip_ga .bkpt 63 (fun _ => rfl) rfl (fun _ h k => by
  have k := of_decide_eq_true k
  rw [groupInstr, h]
  simp [k]) (fun _ _ h => h) f
theorem rdctl (f : GA) : Statement (.rdctl f) := trip_ga .rdctl 63 (fun _ => rfl) rfl (fun _ h k => by
  have k := of_decide_eq_true k
  rw [groupInstr, h]
  simp [k]) (fun _ _ h => h) f
theorem wrctl (f : GA) : Statement (.wrctl f) := trip_ga .wrctl 63 (fun _ => rfl) rfl (fun _ h k => by
  have k := of_decide_eq_true k
  rw [groupInstr, h]
  simp [k]) (fun _ _ h => h) f
theorem sleep (f : GA) : Statement (.sleep f) := trip_ga .sleep 63 (fun _ => rfl) rfl (fun _ h k => by
  have k := of_decide_eq_true k
  rw [groupInstr, h]
  simp [k]) (fun _ _ h => h) f
theorem mhint (f : GA) : Statement (.mhint f) := trip_ga .mhint 63 (fun _ => rfl) rfl (fun _ h k => by
  have k := of_decide_eq_true k
  rw [groupInstr, h]
  simp [k]) (fun _ _ h => h) f
theorem oswap (f : GA) : Statement (.oswap f) := trip_ga .oswap 63 (fun _ => rfl) rfl (fun _ h k => by
  have k := of_decide_eq_true k
  rw [groupInstr, h]
  simp [k]) (fun _ _ h => h) f
theorem errinj (f : GA) : Statement (.errinj f) := trip_ga .errinj 63 (fun _ => rfl) rfl (fun _ h k => by
  have k := of_decide_eq_true k
  rw [groupInstr, h]
  simp [k]) (fun _ _ h => h) f
theorem eread (f : GA) : Statement (.eread f) := trip_ga .eread 63 (fun _ => rfl) rfl (fun _ h k => by
  have k := of_decide_eq_true k
  rw [groupInstr, h]
  simp [k]) (fun _ _ h => h) f
theorem halt (f : GA) : Statement (.halt f) := trip_ga .halt 63 (fun _ => rfl) rfl (fun _ h k => by
  have k := of_decide_eq_true k
  rw [groupInstr, h]
  simp [k]) (fun _ _ h => h) f
theorem mainPowerOn : Statement .mainPowerOn := trip_event rfl
theorem mainPowerRemoval : Statement .mainPowerRemoval := trip_event rfl
theorem startAttempt (memOk linkOk : Bool) : Statement (.startAttempt memOk linkOk) := trip_event rfl
theorem bootOkTimeout : Statement .bootOkTimeout := trip_event rfl
theorem bootstatOk : Statement .bootstatOk := trip_event rfl
theorem bootstatClr : Statement .bootstatClr := trip_event rfl
theorem tick : Statement .tick := trip_event rfl
theorem thermalTrip (temp : BitVec 8) : Statement (.thermalTrip temp) := trip_event rfl
theorem thermalWarning (temp : BitVec 8) : Statement (.thermalWarning temp) := trip_event rfl
theorem powerLimitExceeded (watts : Nat) : Statement (.powerLimitExceeded watts) := trip_event rfl
theorem powerStateCmd (cmd : BitVec 3) : Statement (.powerStateCmd cmd) := trip_event rfl
theorem powerOffCmd : Statement .powerOffCmd := trip_event rfl
theorem powerCmdReserved (cmd : BitVec 3) : Statement (.powerCmdReserved cmd) := trip_event rfl
theorem powerTransitionDone : Statement .powerTransitionDone := trip_event rfl
theorem htcfgWrite (die : Nat) (val : BitVec 32) : Statement (.htcfgWrite die val) := trip_event rfl
theorem pcieLinkTrain (port gen width : Nat) : Statement (.pcieLinkTrain port gen width) := trip_event rfl
theorem vfMailboxWrite (vf : Nat) (val : BitVec 32) : Statement (.vfMailboxWrite vf val) := trip_event rfl
theorem portDmaRequest (storage : Bool) (asid : BitVec 8) (va : BitVec 64) (write : Bool) (val : BitVec 64) : Statement (.portDmaRequest storage asid va write val) := trip_event rfl
theorem forwardedRequest (addr : BitVec 52) : Statement (.forwardedRequest addr) := trip_event rfl
theorem getVersion : Statement .getVersion := trip_event rfl
theorem getCapabilities (ver : Nat) : Statement (.getCapabilities ver) := trip_event rfl
theorem negotiateAlgorithms (mlDsa sha3 : Bool) : Statement (.negotiateAlgorithms mlDsa sha3) := trip_event rfl
theorem getDigests : Statement .getDigests := trip_event rfl
theorem getCertificate (cslot off len : Nat) : Statement (.getCertificate cslot off len) := trip_event rfl
theorem challenge (cslot : Nat) (nonce : BitVec 256) : Statement (.challenge cslot nonce) := trip_event rfl
theorem getMeasurements (idx : Nat) (signed : Bool) (nonce : BitVec 256) : Statement (.getMeasurements idx signed nonce) := trip_event rfl
theorem unsupportedRequest (code : BitVec 8) : Statement (.unsupportedRequest code) := trip_event rfl
theorem txinvcGo (die : Nat) (val : BitVec 32) : Statement (.txinvcGo die val) := trip_event rfl
theorem invalidationComplete (die : Nat) : Statement (.invalidationComplete die) := trip_event rfl
theorem frresumeGo (die : Nat) (val : BitVec 64) : Statement (.frresumeGo die val) := trip_event rfl
theorem logEntryReplay (core idx : Nat) : Statement (.logEntryReplay core idx) := trip_event rfl
theorem teamResume (die cluster core grp : Nat) : Statement (.teamResume die cluster core grp) := trip_event rfl
theorem teamRenew (die cluster core grp : Nat) (units : BitVec 16) : Statement (.teamRenew die cluster core grp units) := trip_event rfl
theorem teamMove (die cluster core grp : Nat) : Statement (.teamMove die cluster core grp) := trip_event rfl
theorem teamEnd (die cluster core grp : Nat) : Statement (.teamEnd die cluster core grp) := trip_event rfl
theorem teamRestart (die cluster core grp : Nat) : Statement (.teamRestart die cluster core grp) := trip_event rfl
theorem teamcmdReservedOp (die : Nat) (val : BitVec 64) : Statement (.teamcmdReservedOp die val) := trip_event rfl
theorem contextStop (ctx : BitVec 8) (stop : Bool) : Statement (.contextStop ctx stop) := trip_event rfl
theorem contextKill (ctx : BitVec 8) : Statement (.contextKill ctx) := trip_event rfl
theorem cccmdSetCounter (die : Nat) : Statement (.cccmdSetCounter die) := trip_event rfl
theorem cccmdClearPage (die : Nat) : Statement (.cccmdClearPage die) := trip_event rfl
theorem cccmdRead (die : Nat) : Statement (.cccmdRead die) := trip_event rfl
theorem cccmdReserved (die : Nat) : Statement (.cccmdReserved die) := trip_event rfl
theorem csplitWrite (die : Nat) (val : BitVec 32) : Statement (.csplitWrite die val) := trip_event rfl
theorem chctlClear (die : Nat) (tierL : Bool) (ch : Nat) : Statement (.chctlClear die tierL ch) := trip_event rfl
theorem chctlFreeze (die : Nat) (tierL : Bool) (ch : Nat) (on : Bool) : Statement (.chctlFreeze die tierL ch on) := trip_event rfl
theorem counterWrite (die : Nat) (tierL : Bool) (ch which : Nat) (val : BitVec 64) : Statement (.counterWrite die tierL ch which val) := trip_event rfl
theorem fedoor (fe : Nat) (val : BitVec 64) : Statement (.fedoor fe val) := trip_event rfl
theorem fecfgWrite (fe : Nat) (val : BitVec 64) : Statement (.fecfgWrite fe val) := trip_event rfl
theorem registerWrite (addr : RegAddr) (size : Nat) (val : BitVec 64) : Statement (.registerWrite addr size val) := trip_event rfl
theorem instructionFetch (core slot sid : Nat) : Statement (.instructionFetch core slot sid) := trip_event rfl
theorem pageTableWalk (unit : Nat) (asid : BitVec 8) (va : BitVec 64) : Statement (.pageTableWalk unit asid va) := trip_event rfl
theorem portArbitration (core port : Nat) : Statement (.portArbitration core port) := trip_event rfl
theorem resultReturn (core slot id : Nat) : Statement (.resultReturn core slot id) := trip_event rfl
theorem trapDelivery (core slot sid : Nat) : Statement (.trapDelivery core slot sid) := trip_event rfl
theorem releasePerformed (core slot sid : Nat) : Statement (.releasePerformed core slot sid) := trip_event rfl
theorem acquirePerformed (core slot sid : Nat) : Statement (.acquirePerformed core slot sid) := trip_event rfl
theorem carillonOperation (core slot sid : Nat) : Statement (.carillonOperation core slot sid) := trip_event rfl
theorem cwaitWake (core slot sid : Nat) : Statement (.cwaitWake core slot sid) := trip_event rfl
theorem cwaitTimeout (core slot sid : Nat) : Statement (.cwaitTimeout core slot sid) := trip_event rfl
theorem sleepWake (core slot sid : Nat) : Statement (.sleepWake core slot sid) := trip_event rfl
theorem barrierRelease (core slot scope line : Nat) : Statement (.barrierRelease core slot scope line) := trip_event rfl
theorem matrixOpStart (core : Nat) : Statement (.matrixOpStart core) := trip_event rfl
theorem matrixOpComplete (core : Nat) : Statement (.matrixOpComplete core) := trip_event rfl
theorem mmapStart (pair : Nat) : Statement (.mmapStart pair) := trip_event rfl
theorem mmaxStart (cluster : Nat) : Statement (.mmaxStart cluster) := trip_event rfl
theorem pairTimeout (core : Nat) : Statement (.pairTimeout core) := trip_event rfl
theorem oswapComplete (core : Nat) : Statement (.oswapComplete core) := trip_event rfl
theorem registerDeckMove (core slot sid deck : Nat) : Statement (.registerDeckMove core slot sid deck) := trip_event rfl
theorem registerRecall (core slot sid : Nat) : Statement (.registerRecall core slot sid) := trip_event rfl
theorem tierRefresh (die : Nat) (tierL : Bool) (ch : Nat) (waits : List (Option (BitVec 8))) : Statement (.tierRefresh die tierL ch waits) := trip_event rfl
theorem memoryChannelRequest (pa : BitVec 52) (sel : BitVec 3) (ctx : Option (BitVec 8)) (write : Bool) (activates : Nat) (conflict : Bool) : Statement (.memoryChannelRequest pa sel ctx write activates conflict) := trip_event rfl
theorem walkerBeatGrant (walker : Nat) : Statement (.walkerBeatGrant walker) := trip_event rfl
theorem beatWrite (walker wslot : Nat) : Statement (.beatWrite walker wslot) := trip_event rfl
theorem blockFetch (walker wslot : Nat) : Statement (.blockFetch walker wslot) := trip_event rfl
theorem permitSatisfied (walker wslot : Nat) : Statement (.permitSatisfied walker wslot) := trip_event rfl
theorem waitBlockToken (walker wslot : Nat) : Statement (.waitBlockToken walker wslot) := trip_event rfl
theorem blockDrainComplete (walker wslot : Nat) : Statement (.blockDrainComplete walker wslot) := trip_event rfl
theorem walkerFaultResume (walker wslot : Nat) : Statement (.walkerFaultResume walker wslot) := trip_event rfl
theorem launchProcess (fe : Nat) : Statement (.launchProcess fe) := trip_event rfl
theorem pageMove (fe : Nat) : Statement (.pageMove fe) := trip_event rfl
theorem mhintRequest (core : Nat) : Statement (.mhintRequest core) := trip_event rfl
theorem conditionTest (cluster seq cond : Nat) : Statement (.conditionTest cluster seq cond) := trip_event rfl
theorem dispatchPass (cluster : Nat) : Statement (.dispatchPass cluster) := trip_event rfl
theorem queueUnspill (cluster : Nat) : Statement (.queueUnspill cluster) := trip_event rfl
theorem budgetExhausted (team : Nat) : Statement (.budgetExhausted team) := trip_event rfl
theorem teamEndRelease (team : Nat) : Statement (.teamEndRelease team) := trip_event rfl
theorem launchCompletion (fe lslot : Nat) : Statement (.launchCompletion fe lslot) := trip_event rfl
theorem teamSave (team : Nat) : Statement (.teamSave team) := trip_event rfl
theorem revocationWindowExpiry (cluster : Nat) : Statement (.revocationWindowExpiry cluster) := trip_event rfl
theorem scrubStart (cluster : Nat) : Statement (.scrubStart cluster) := trip_event rfl
theorem scrubComplete (cluster : Nat) : Statement (.scrubComplete cluster) := trip_event rfl
theorem ringRecordWrite : Statement .ringRecordWrite := trip_event rfl
theorem ringHeadReread (kind key : Nat) : Statement (.ringHeadReread kind key) := trip_event rfl
theorem correctedError (kind inst : Nat) (addr : BitVec 52) (ctx : BitVec 8) (syndrome : BitVec 16) : Statement (.correctedError kind inst addr ctx syndrome) := trip_event rfl
theorem uncorrectableError (kind inst : Nat) (addr : BitVec 52) (ctx : BitVec 8) (syndrome : BitVec 16) : Statement (.uncorrectableError kind inst addr ctx syndrome) := trip_event rfl
theorem treeStep (core slot sid : Nat) : Statement (.treeStep core slot sid) := trip_event rfl
theorem treeBackgroundFree (die : Nat) : Statement (.treeBackgroundFree die) := trip_event rfl
theorem boundsTileAppend (fe : Nat) : Statement (.boundsTileAppend fe) := trip_event rfl
theorem boundsTaskIssue (fe lslot : Nat) : Statement (.boundsTaskIssue fe lslot) := trip_event rfl
theorem bootScrubTimeout : Statement .bootScrubTimeout := trip_event rfl
theorem releaseRingRoom (fe : Nat) : Statement (.releaseRingRoom fe) := trip_event rfl

end Sys2Proof.Laws.RoundTrip
end

