-- ==== Sys2Proof/Laws/Reduce.lean ====
section
/-! SUPPORT. The tree of the reductions (R135): its levels as a recursion, and its value for an associative combination. -/

namespace Sys2Proof.Machine

/-- The value at index `i` of level `n` of the tree. -/
def treeLevel {α : Type} (f : α → α → α) (g : Nat → Option α) : Nat → Nat → Option α
  | 0, i => g i
  | n + 1, i => combine2 f (treeLevel f g n (2 * i)) (treeLevel f g n (2 * i + 1))

theorem pairUp_map {α : Type} (f : α → α → α) (h : Nat → Option α) (n s : Nat) :
    pairUp f ((List.range' (2 * s) (2 * n)).map h) =
      (List.range' s n).map fun i => combine2 f (h (2 * i)) (h (2 * i + 1)) := by
  induction n generalizing s with
  | zero => rfl
  | succ n ih =>
    have e : 2 * (n + 1) = 2 * n + 1 + 1 := by omega
    rw [e, List.range'_succ, List.range'_succ, List.range'_succ]
    simp only [List.map_cons, pairUp]
    have := ih (s + 1)
    rw [show 2 * (s + 1) = 2 * s + 1 + 1 by omega] at this
    rw [this]

theorem levels_map {α : Type} (f : α → α → α) (g : Nat → Option α) (k n : Nat) :
    (List.range k).foldl (fun l _ => pairUp f l) ((List.range' 0 (2 ^ k * n)).map g) =
      (List.range' 0 n).map (treeLevel f g k) := by
  induction k generalizing n with
  | zero => simp [treeLevel]
  | succ k ih =>
    rw [List.range_succ, List.foldl_append, show 2 ^ (k + 1) * n = 2 ^ k * (2 * n) by ring, ih (2 * n)]
    simp only [List.foldl_cons, List.foldl_nil]
    have := pairUp_map f (treeLevel f g k) n 0
    simpa [treeLevel] using this

/-- The reduction over 64 lanes is the root of the tree. -/
theorem reduceTree_eq {α : Type} (f : α → α → α) (g : Nat → Option α) :
    reduceTree f ((List.range 64).map g) = treeLevel f g 6 0 := by
  have h := levels_map f g 6 1
  unfold reduceTree
  rw [List.range_eq_range' (n := 64)]
  rw [show (64 : Nat) = 2 ^ 6 * 1 by norm_num, h]
  rfl

/-- A list combined from the left. -/
def foldAll {α : Type} (f : α → α → α) : List α → Option α
  | [] => none
  | x :: t => some (t.foldl f x)

theorem foldAll_append {α : Type} (f : α → α → α) (hf : ∀ x y z, f (f x y) z = f x (f y z)) (l r : List α) :
    foldAll f (l ++ r) = combine2 f (foldAll f l) (foldAll f r) := by
  cases l with
  | nil => simp [foldAll, combine2]
  | cons x t =>
    cases r with
    | nil => simp [foldAll, combine2]
    | cons y u =>
      simp only [List.cons_append, foldAll, combine2, List.foldl_append, List.foldl_cons]
      congr 1
      generalize t.foldl f x = z
      induction u generalizing y with
      | nil => rfl
      | cons w u ih => simp only [List.foldl_cons]; rw [hf, ih]

/-- For an associative combination the tree gives what any order gives. -/
theorem treeLevel_eq {α : Type} (f : α → α → α) (hf : ∀ x y z, f (f x y) z = f x (f y z)) (g : Nat → Option α)
    (n i : Nat) : treeLevel f g n i = foldAll f ((List.range' (2 ^ n * i) (2 ^ n)).filterMap g) := by
  induction n generalizing i with
  | zero => simp only [treeLevel, pow_zero, one_mul]; cases h : g i <;> simp [List.range', h, foldAll]
  | succ n ih =>
    simp only [treeLevel]
    rw [ih, ih, ← foldAll_append f hf, ← List.filterMap_append]
    congr 2
    rw [show 2 ^ (n + 1) * i = 2 ^ n * (2 * i) by ring, show 2 ^ n * (2 * i + 1) = 2 ^ n * (2 * i) + 1 * 2 ^ n by ring,
      List.range'_append, pow_succ]
    congr 1; ring

theorem filterMap_ite {α : Type} (p : Nat → Bool) (v : Nat → α) (l : List Nat) :
    l.filterMap (fun i => if p i then some (v i) else none) = (l.filter p).map v := by
  induction l with
  | nil => rfl
  | cons a t ih => by_cases h : p a <;> simp [h, ih]

/-- The terms of a mask's lanes, combined. -/
theorem reduce_lanes {α : Type} (f : α → α → α) (hf : ∀ x y z, f (f x y) z = f x (f y z)) (c : Ctx) (v : Nat → α) :
    reduceTree f (redTerms c v) = foldAll f ((lanesOf c.st.mask).map v) := by
  unfold redTerms
  rw [reduceTree_eq, treeLevel_eq f hf]
  simp only [Nat.mul_zero]
  rw [filterMap_ite (fun l => c.st.mask.getLsbD l)]
  rw [← List.range_eq_range']
  rfl

end Sys2Proof.Machine
end

