-- ==== Sys2Proof/Tests/Slice0.lean ====
section
/-! SUPPORT. Tests: words of the manual's encodings and what they decode to, ill-formed instructions that the checks refuse, and for each
obligation states and operands that meet its hypotheses. -/

namespace Sys2Proof.Tests

open Sys2Proof Sys2Proof.Machine

/-- `i` is ready in `s`, and no write of a uniform register is on its way. -/
def readyNow (i : Instr) (s : State) : Bool :=
  match curCtx s with
  | some c => (issueTrap s c i).isNone && unblocked s c.g c.st (blockOf c (firstWord i)) && c.g.uq == [] && c.g.uv == [] && c.g.uw == []
  | none => false

/-- A strand of 16 lanes at work, with nothing else in the machine. -/
def s0 : State := placeWord State.reset 32 0

/-- `s0` with another group. -/
def withG (u : Group → Group) : State := { s0 with groups := s0.groups.map fun p => (p.1, u p.2) }

/-- `s0` with another strand. -/
def withS (u : Strand → Strand) : State := withG fun g => { g with strands := g.strands.map u }

/-- `s0` with these k registers. -/
def withK (k : AMap Word) : State := withG fun g => { g with k := k }

/-- `i` is ready in `s`, and its strand and group meet `p`. -/
def meets (i : Instr) (s : State) (p : Ctx → Bool) : Bool := readyNow i s && (curCtx s).any p

/-- Each instruction of a list is one of those that `k` names, and is ready in `s`. -/
def areReady {α : Type} (k : Instr → Option α) (s : State) (l : List Instr) : Bool := l.all fun i => (k i).isSome && readyNow i s

/-- An LA word with three even codes. -/
def fLA : LA := ⟨false, 0, 4, 2, 6, 0⟩

/-- The same with b unused. -/
def fLA1 : LA := ⟨true, 1, 62, 2, 0, 0⟩

/-- Layouts LS, LP, LM. -/
def fLS (n : BitVec 7) : LS := ⟨false, 0, 4, 8, n, 0⟩
def fLP (n : BitVec 4) : LP := ⟨false, 0, 7, n, 2, 6, 0⟩

/-- The strand at work in `s`. -/
def ctx (s : State) : Ctx := (curCtx s).getD ⟨0, 0, codeGroup 0 0, { sid := 0 }, 0, false⟩

theorem issues_at {i : Instr} {s : State} (h : readyNow i s = true) : Issues i s (ctx s) := by
  unfold readyNow at h
  split at h
  · next c hc =>
    simp only [Bool.and_eq_true, Option.isNone_iff_eq_none, beq_iff_eq] at h
    obtain ⟨⟨⟨⟨h1, h2⟩, h3⟩, h4⟩, h5⟩ := h
    have hx : ctx s = c := by rw [ctx, hc]; rfl
    refine ⟨c, ⟨hc, h1, h2⟩, ?_⟩
    rw [hx]
    obtain ⟨core, slot, g, st, pc, run⟩ := c
    simp only at h3 h4 h5
    cases g
    simp_all [atIssue, begun, uView, groupAt, uSettle]
  · exact absurd h (by decide)

/-- The entry of the trap table for a cause can be read from `s` by the strand of `c`, and `p` holds of it. -/
def tableNow (p : Nat → Bool) (s : State) (c : Ctx) (cause : Nat) : Bool :=
  !c.st.hnd &&
    match translate s c.core (dieOf c.core) c.g.ctx.toNat (.load 8) 8
        (bits (ctxBlock s (dieOf c.core) c.g.ctx.toNat).ttbase.toNat 56 8 * 256 + 8 * cause) false with
    | (.ok pa _ _, s') =>
      let x := errReadMem s' pa 8 c.core c.g.ctx.toNat
      !x.1 && p (memRead x.2.mem pa 8) && decide (memRead x.2.mem pa 8 < 2 ^ 64)
    | _ => false

theorem table_entry {p : Nat → Bool} {s : State} {c : Ctx} {cause : Nat} (h : tableNow p s c cause = true) :
    ∃ e h, TableAt s c cause e h ∧ p h.toNat = true := by
  unfold tableNow at h
  simp only [Bool.and_eq_true, Bool.not_eq_true'] at h
  obtain ⟨h1, h3⟩ := h
  split at h3
  · next pa dev go s' ht =>
    simp only [Bool.and_eq_true, Bool.not_eq_true', decide_eq_true_eq] at h3
    obtain ⟨⟨hb, hp⟩, h4⟩ := h3
    have h5 : (BitVec.ofNat 64 (memRead (errReadMem s' pa 8 c.core c.g.ctx.toNat).2.mem pa 8)).toNat =
        memRead (errReadMem s' pa 8 c.core c.g.ctx.toNat).2.mem pa 8 := by
      rw [BitVec.toNat_ofNat]; exact Nat.mod_eq_of_lt h4
    exact ⟨_, BitVec.ofNat 64 (memRead (errReadMem s' pa 8 c.core c.g.ctx.toNat).2.mem pa 8),
      ⟨h1, pa, dev, go, s', ht, Prod.ext hb rfl, h5.symm⟩, by rw [h5]; exact hp⟩
  · exact absurd h3 (by decide)

theorem table_at {s : State} {c : Ctx} {cause : Nat} (h : tableNow (· == 0) s c cause = true) : ∃ e h, TableAt s c cause e h := by
  obtain ⟨e, x, ht, _⟩ := table_entry h
  exact ⟨e, x, ht⟩

/-- A handler for a cause can be entered from `s` by the strand of `c`. -/
def handlerNow (s : State) (c : Ctx) (cause : Nat) : Bool :=
  (ctxBlock s (dieOf c.core) c.g.ctx.toNat).ttbase.getLsbD 0 && tableNow (· != 0) s c cause

theorem handler_at {s : State} {c : Ctx} {cause : Nat} (h : handlerNow s c cause = true) : ∃ e h, HandlerAt s c cause e h := by
  obtain ⟨h1, h2⟩ := (Bool.and_eq_true _ _).mp h
  obtain ⟨e, x, ht, hp⟩ := table_entry h2
  exact ⟨e, x, ht, h1, fun h0 => by rw [h0] at hp; exact absurd hp (by decide)⟩

/-- Words from physical address `a` on, 4 bytes each. -/
def words (s : State) (a : Nat) (l : List Nat) : State :=
  { s with mem := (l.zipIdx).foldl (fun m p => memWrite m (a + 4 * p.2) 4 p.1) s.mem }

/-- `s` with context 0 privileged: its entry at physical address 0, where CTXBASE points (R57). -/
def priv (s : State) : State := words s 0 [3]

theorem some_pair {α β : Type} {o : Option (α × β)} (h : o.isSome = true) : ∃ a b, o = some (a, b) := by
  obtain ⟨x, hx⟩ := Option.isSome_iff_exists.1 h
  exact ⟨x.1, x.2, hx⟩

theorem some_with {α β : Type} {o : Option (α × β)} (p : β → Bool) (h : o.any (fun x => p x.2) = true) :
    ∃ a b, o = some (a, b) ∧ p b = true := by
  cases o with
  | none => exact Bool.noConfusion h
  | some x => exact ⟨x.1, x.2, rfl, h⟩

/-- A translation succeeds. -/
def isOk (t : Tr × State) : Bool := match t.1 with | .ok _ _ _ => true | .code _ => false

theorem tr_ok {t : Tr × State} (h : isOk t = true) : ∃ pa lg cls e, t = (.ok pa lg cls, e) := by
  obtain ⟨a, e⟩ := t
  cases a with
  | ok pa lg cls => exact ⟨pa, lg, cls, e, rfl⟩
  | code c => exact absurd h Bool.false_ne_true

/-- A record from its fields: byte offset and value. -/
def fields (l : List (Nat × Nat)) : Nat := l.foldl (fun x p => x + p.2 * 2 ^ (8 * p.1)) 0

/-- A launch in slot 0 of front end 0 with this record. -/
def launchWith (l : List (Nat × Nat)) : Launch := { asid := 0, va := 0x10000, rcd := BitVec.ofNat 2048 (fields l), phase := .active }

/-- `s` with that launch. -/
def withL (s : State) (l : List (Nat × Nat)) : State := { s with fes := [(0, { slots := [(0, launchWith l)] })] }

/-! ## Hypotheses of the obligations about lane words -/

/-- FMT with B = 1, all lanes in point form (R127, R322). -/
def sB : State := withS fun t => { t with fmt := 0x10000 }

/-- FMT with B = 1, every lane holding a tile in interval form. -/
def sI : State :=
  { s0 with groups := s0.groups.map fun p => (p.1, { p.2 with
      tiles := (List.range 16).map fun l => (l, ⟨l, 0, 1, false⟩)
      strands := p.2.strands.map fun t => { t with fmt := 0x10000 } }) }

/-- Every lane of the mask is in interval form. -/
def allIv (c : Ctx) : Bool := fmtB c.st.fmt && c.st.mask != 0 && (lanesOf c.st.mask).all fun l => !pointForm c.g l

theorem witness_NarrowIntegerResults :
    areReady intLane s0 [.mov fLA1, .iadd ⟨true, 1, 63, 2, 113, 0⟩, .isub ⟨false, 0, 5, 5, 5, 0⟩, .imul ⟨false, 2, 127, 2, 1, 0⟩,
      .imulhs ⟨false, 3, 0, 2, 1, 0⟩, .imulhu ⟨false, 0, 5, 114, 1, 7⟩, .imad fLA, .imins fLA, .iminu fLA, .imaxs fLA, .imaxu fLA,
      .and fLA, .or fLA, .xor fLA, .andn fLA, .shl fLA, .shrl fLA, .shra fLA, .rotl fLA, .popc fLA1, .clz fLA1, .brev fLA1,
      .bfx fLA, .bfi fLA, .dot4s fLA, .dot4u fLA] = true ∧
    areReady intLane (withS fun t => { t with lat := [.narrow []], cnt := 1 }) [.iadd ⟨false, 0, 5, 2, 115, 0⟩] = true ∧
    areReady immLane s0 [.shli (fLS 31), .shrli (fLS 0), .shrai (fLS 31)] = true := by decide

theorem witness_WideIntegerResults :
    areReady wideLane s0 [.wadd fLA, .wsub fLA, .wmulu fLA, .wmuls fLA, .wshl fLA, .wshrl fLA, .wadds fLA] = true := by decide

theorem witness_SelectionResults :
    readyNow (.sel ⟨false, 3, 4, 2, 6, 0⟩) s0 = true ∧ readyNow (.ptov ⟨false, 0, 4, 7, 0, 0⟩) s0 = true := by decide

theorem witness_CarryChainResults : areReady carryLane s0 [.iaddx fLA, .isubx fLA] = true := by decide

theorem witness_PredicateResults :
    areReady predLane s0 [.icmp (fLP 0), .icmp (fLP 11), .wcmp (fLP 11), .vtop ⟨false, 0, 1, 0, 2, 0, 0⟩] = true ∧
    readyNow (.plog ⟨false, 0, 1, 15, 7, 0, 0⟩) s0 = true := by decide

theorem witness_ShuffleResults :
    areReady shuffleLane s0 [.shfli fLA, .shflx (fLS 63), .shflu (fLS 1), .shfld (fLS 127)] = true := by decide

theorem witness_ReductionResults :
    (∀ i ∈ [Instr.radd fLA1, .rmins fLA1, .rmaxs fLA1],
      (reducesTo i).isSome = true ∧ meets i s0 (fun c => c.st.mask != 0) = true) ∧
    meets (.rfadd fLA1) s0 (fun c => !fmtB c.st.fmt) = true ∧
    meets (.rfadd fLA1) sB (fun c => fmtB c.st.fmt && c.st.mask != 0 && c.g.tiles == []) = true ∧
    meets (.rfadd fLA1) sI allIv = true := by decide

/-- Every FP32 word. -/
def floatWords : List Instr :=
  [.fadd fLA, .fsub fLA, .fmul fLA, .ffma fLA, .fdiv fLA, .frcp fLA1, .fsqrt fLA1, .frsq fLA1, .fexp2 fLA1, .flog2 fLA1,
    .fsinr fLA1, .fcosr fLA1, .fmin fLA, .fmax fLA, .frint fLA1, .ffloor fLA1, .fscale fLA, .fsat fLA1, .fclass fLA1, .fabs fLA1,
    .fneg fLA1, .fcpsgn fLA]

theorem witness_FloatResults :
    ∀ i ∈ floatWords, (floatLane i).isSome = true ∧ meets i s0 (fun c => !fmtB c.st.fmt) = true := by decide

theorem witness_WideAndPackedResults :
    (∀ i ∈ floatWords, (intervalLane i).isSome = true ∧ meets i sB (fun c => fmtB c.st.fmt) = true ∧ meets i sI allIv = true) ∧
    areReady doubleLane s0 [.dadd fLA, .dsub fLA, .dmul fLA, .dfma fLA, .dmin fLA, .dmax fLA, .ddiv fLA, .dsqrt fLA1, .drint fLA1,
      .dabs fLA1, .dneg fLA1] = true ∧
    areReady halfLane s0 [.hadd2 fLA, .hmul2 fLA, .hfma2 fLA, .hmin2 fLA, .hmax2 fLA] = true ∧
    readyNow (.hdot2 fLA) s0 = true := by decide

theorem witness_FloatCompareResults :
    meets (.fcmp (fLP 7)) s0 (fun c => !fmtB c.st.fmt) = true ∧ meets (.fcmp (fLP 0)) sB (fun c => fmtB c.st.fmt) = true ∧
    meets (.fcmp (fLP 5)) sI allIv = true ∧ readyNow (.dcmp (fLP 7)) s0 = true := by decide

theorem witness_ConversionResults :
    ((List.range 128).filter fun n => cvtValid n).all (fun n => meets (.cvt (fLS (BitVec.ofNat 7 n))) s0 fun c => !fmtB c.st.fmt) = true ∧
    meets (.cvt (fLS 0)) sI allIv = true ∧ meets (.cvt (fLS 2)) sB (fun c => fmtB c.st.fmt) = true ∧
    areReady quantBlock s0 [.qdx4 fLA1, .qdx8 fLA1, .qaq8 ⟨false, 0, 4, 2, 97, 0⟩] = true := by decide

/-! ## Hypotheses of the obligations about uniform registers, control flow and traps -/

/-- A GA word with its four fields. -/
def ga (d a b x : BitVec 6) : GA := ⟨true, d, a, b, x⟩

theorem witness_UniformResults :
    areReady uniWord s0 [.kmov (ga 15 2 0 0), .kadd (ga 0 2 3 0), .ksub (ga 0 2 3 0), .kmul (ga 0 2 3 0), .kand (ga 0 2 3 0),
      .kor (ga 0 2 3 0), .kxor (ga 0 2 3 0), .kshl (ga 0 2 3 0), .kshrl (ga 0 2 3 0), .kshra (ga 0 2 3 0), .kaddi (ga 0 2 63 63)] = true ∧
    readyNow (.klit ⟨false, 15, 0, 0xFFFF⟩) s0 = true ∧ readyNow (.klith ⟨false, 0, 0, 0xFFFF⟩) s0 = true ∧
    areReady uniPair s0 [.jmov (ga 14 2 0 32), .jadd (ga 0 2 4 32), .jsub (ga 0 2 4 32), .jshl (ga 0 2 3 32), .jshrl (ga 0 2 3 32)] = true ∧
    readyNow (.ballot (ga 6 7 0 0)) s0 = true ∧
    areReady uniPred s0 [.kcmp (ga 7 2 3 11), .jcmp (ga 7 2 4 43), .voteAny (ga 7 7 0 0), .voteAll (ga 1 1 0 1), .voteNone (ga 1 1 0 2)] =
      true ∧
    readyNow (.ksel (ga 0 2 3 7)) s0 = true ∧ readyNow (.kread (ga 0 2 0 63)) s0 = true := by decide

/-- Writes of the file by number: k2, q3 and an entry of G. -/
def ws0 : List (Nat × Dword) := [(2, 5), (67, 1), (128, 9)]

/-- `a` takes effect in cycle 4 and `b` in the same cycle through the next port. -/
def writeA : UWrite := ⟨4, 1, 0, 2, 5⟩
def writeB : UWrite := ⟨4, 2, 1, 2, 6⟩

theorem witness_UniformWritesLand :
    ((ctx s0).g.uq = [] ∧ (∀ w ∈ ws0, w.1 < 72 ∨ 128 ≤ w.1 ∧ w.1 < 256) ∧ (ws0.map Prod.fst).Nodup ∧
      ws0.lookup 2 = some 5 ∧ mget 0 [(130, landCycle (ctx s0) (firstWord (.kmov (ga 2 3 0 0))))] (128 + 2) =
        landCycle (ctx s0) (firstWord (.kmov (ga 2 3 0 0)))) ∧
    ((ctx s0).g.uv = [] ∧ writeA.key = 2 ∧ writeB.key = 2 ∧ writeA.at_ < 5 ∧ writeB.at_ < 5 ∧ writeA.at_ = writeB.at_ ∧
      writeA.port < writeB.port) := by decide

theorem witness_SystemValueResults :
    ((List.range 26).all fun n => readyNow (.rdsv (ga 4 0 0 (BitVec.ofNat 6 n))) (withL s0 [])) = true ∧
    (∃ tm l, getTeam (withL s0 []) (ctx (withL s0 [])).g.team = some tm ∧
      mfind (getFe (withL s0 []) tm.fe).slots tm.lslot = some l) ∧
    readyNow (.getfmt (ga 15 0 0 0)) s0 = true ∧ readyNow (.getfmtLk (ga 14 0 0 1)) s0 = true ∧
    ((List.range 7).all fun n => readyNow (.rdctl (ga 4 (BitVec.ofNat 6 n) 0 3)) s0) = true :=
  ⟨by decide, ⟨_, _, rfl, rfl⟩, by decide, by decide, by decide⟩

/-- A bounds group whose k2 is an FMT with B = 1. -/
def sFmt : State := withG fun g => { g with bounds := true, k := [(2, 0x10000)] }

theorem witness_StrandRegisterResults :
    readyNow (.nop ⟨false⟩) s0 = true ∧ readyNow (.gnop ⟨true⟩) s0 = true ∧
    meets (.setfmt (ga 0 2 0 0)) s0 (fun c => (readK c.g 2).extractLsb' 6 2 == 0 && (readK c.g 2).extractLsb' 17 15 == 0 &&
      fmtB (readK c.g 2) == fmtB c.st.fmt) = true ∧
    meets (.setfmt (ga 0 2 0 0)) sFmt (fun c => (readK c.g 2).extractLsb' 6 2 == 0 && (readK c.g 2).extractLsb' 17 15 == 0 &&
      fmtB (readK c.g 2) && c.g.bounds) = true ∧
    readyNow (.setfmtLk (ga 0 2 0 1)) s0 = true ∧
    ((List.range 4).all fun n => readyNow (.wrctl (ga 0 (BitVec.ofNat 6 n) 4 4)) (priv s0)) = true ∧
    readyNow (.wrctl (ga 0 6 4 4)) (priv s0) = true := by decide

/-- p1 true in lane 0 alone. -/
def sP : State := withG fun g => { g with p := [(0, 2)] }

/-- p1 true in every lane. -/
def sPall : State := withG fun g => { g with p := (List.range 16).map fun l => (l, 2) }

theorem quiet_at {s : State} (h : (ctx s).g.ops = []) : Quiet (ctx s) := by
  unfold Quiet; rw [h]; intro x hx; exact absurd hx (List.not_mem_nil)

theorem none_open_at {s : State} {n : Nat} (h : (ctx s).g.op = []) : NoneOpen (ctx s) n := by
  intro l _ ho
  unfold readOpen at ho; rw [h] at ho
  simp [mget] at ho

set_option maxRecDepth 20000 in
theorem witness_BranchResults :
    (Issues (.bra ⟨true, 7, 5⟩) s0 (ctx s0) ∧ Quiet (ctx s0)) ∧ Issues (.call ⟨true, 0, 0xFFFFF⟩) s0 (ctx s0) ∧
    Issues (.ret (ga 0 0 0 0)) s0 (ctx s0) ∧
    (Issues (.bra ⟨true, 8, 5⟩) sPall (ctx sPall) ∧ Quiet (ctx sPall) ∧ (ctx sPall).st.mask ≠ 0 ∧ NoneOpen (ctx sPall) 1 ∧
      lanesTrue (ctx sPall) 1 = (ctx sPall).st.mask) ∧
    (Issues (.brd ⟨true, 14, 5, 9⟩) s0 (ctx s0) ∧ Quiet (ctx s0) ∧ (ctx s0).st.mask ≠ 0 ∧ NoneOpen (ctx s0) 7 ∧
      lanesTrue (ctx s0) 7 = 0) :=
  ⟨⟨issues_at (by decide), quiet_at (by decide)⟩, issues_at (by decide), issues_at (by decide),
    ⟨issues_at (by decide), quiet_at (by decide), by decide, none_open_at (by decide), by decide⟩,
    ⟨issues_at (by decide), quiet_at (by decide), by decide, none_open_at (by decide), by decide⟩⟩

/-- `sP` with REGANG at 0x10008. -/
def sRe : State := words sP 0x20008 [0xDA000000]

/-- `s0` with REGANG at 0x10008. -/
def sPart : State := words s0 0x20008 [0xDA000000]

/-- `s0` with one slice of its mask. -/
def sOne : State := withS fun t => { t with mask := 0xF }

/-- `codeWords` finds these words. -/
def codeNow (s : State) (i : Instr) (vas : List Dword) (ws : List Word) : Bool :=
  match codeWords (ctx s) vas (chargeInstr s (ctx s) (firstWord i)) with
  | some x => x.1 == ws
  | none => false

theorem code_at {s : State} {i : Instr} {vas : List Dword} {ws : List Word} (h : codeNow s i vas ws = true) :
    ∃ e, codeWords (ctx s) vas (chargeInstr s (ctx s) (firstWord i)) = some (ws, e) := by
  unfold codeNow at h
  split at h
  · next x hx => exact ⟨x.2, by rw [hx, ← eq_of_beq h]⟩
  · exact absurd h (by decide)

set_option maxRecDepth 20000 in
theorem witness_SplitResults :
    (Issues (.bra ⟨true, 8, 5⟩) sP (ctx sP) ∧ Quiet (ctx sP) ∧ NoneOpen (ctx sP) 1 ∧ lanesTrue (ctx sP) 1 ≠ 0 ∧
      lanesTrue (ctx sP) 1 ≠ (ctx sP).st.mask) ∧
    (Issues (.brd ⟨true, 8, 5, 2⟩) sRe (ctx sRe) ∧ Quiet (ctx sRe) ∧ NoneOpen (ctx sRe) 1 ∧ lanesTrue (ctx sRe) 1 ≠ 0 ∧
      lanesTrue (ctx sRe) 1 ≠ (ctx sRe).st.mask ∧
      (∃ e, codeWords (ctx sRe) [jumpTo (ctx sRe) (2#32)] (chargeInstr sRe (ctx sRe) (firstWord (.brd ⟨true, 8, 5, 2⟩))) =
        some ([regangWord], e)) ∧ (ctx sRe).g.join.length < 256) ∧
    (Issues (.part ⟨true, 0, 2⟩) sOne (ctx sOne) ∧ Quiet (ctx sOne) ∧ (slicesOf (ctx sOne).st.mask).length ≤ 1) ∧
    (Issues (.part ⟨true, 0, 2⟩) sPart (ctx sPart) ∧ Quiet (ctx sPart) ∧ 2 ≤ (slicesOf (ctx sPart).st.mask).length ∧
      (∃ e, codeWords (ctx sPart) [jumpTo (ctx sPart) (2#20)] (chargeInstr sPart (ctx sPart) (firstWord (.part ⟨true, 0, 2⟩))) =
        some ([regangWord], e)) ∧ (ctx sPart).g.join.length < 256) :=
  ⟨⟨issues_at (by decide), quiet_at (by decide), none_open_at (by decide), by decide, by decide⟩,
    ⟨issues_at (by decide), quiet_at (by decide), none_open_at (by decide), by decide, by decide, code_at (by decide), by decide⟩,
    ⟨issues_at (by decide), quiet_at (by decide), by decide⟩,
    ⟨issues_at (by decide), quiet_at (by decide), by decide, code_at (by decide), by decide⟩⟩

/-- A table of one target at 0x10020. -/
def sTab1 : State := words s0 0x20020 [1, 0, 20]

/-- A table of two targets at 0x10020, its reconvergence address 0x10040; v0 is 1 in lane 0. -/
def sTab2 : State := words { s0 with groups := s0.groups.map fun p => (p.1, { p.2 with v := [(0, 1)] }) } 0x20020
  [2, 16, 20, 24, 0, 0, 0, 0, 0xDA000000]

/-- BRX and CALLX on v0 with their table 32 bytes on. -/
def gx : GX := ⟨true, 0, 0, 0, 0, 8⟩

/-- `codeWords` after `codeWords`. -/
def codeThen (s : State) (i : Instr) (vas : List Dword) (ws : List Word) (vas2 : List Dword) (ws2 : List Word) : Bool :=
  match codeWords (ctx s) vas (chargeInstr s (ctx s) (firstWord i)) with
  | some x => x.1 == ws && (match codeWords (ctx s) vas2 x.2 with | some y => y.1 == ws2 | none => false)
  | none => false

theorem code_then {s : State} {i : Instr} {vas : List Dword} {ws : List Word} {vas2 : List Dword} {ws2 : List Word}
    (h : codeThen s i vas ws vas2 ws2 = true) :
    ∃ e e', codeWords (ctx s) vas (chargeInstr s (ctx s) (firstWord i)) = some (ws, e) ∧ codeWords (ctx s) vas2 e = some (ws2, e') := by
  unfold codeThen at h
  split at h
  · next x hx =>
    simp only [Bool.and_eq_true] at h
    split at h
    · next y hy => exact ⟨x.2, y.2, by rw [hx, ← eq_of_beq h.1], by rw [hy, ← eq_of_beq h.2]⟩
    · exact absurd h.2 (by decide)
  · exact absurd h (by decide)

theorem witness_TableTransferResults :
    (∀ i ∈ [Instr.brx gx, .callx gx], (tableJump i).isSome = true ∧ Issues i sTab1 (ctx sTab1) ∧
      (∃ e, codeWords (ctx sTab1) [jumpTo (ctx sTab1) (8#32), jumpTo (ctx sTab1) (8#32) + 8] (chargeInstr sTab1 (ctx sTab1) (firstWord i)) =
        some ([1, 20], e)) ∧ Issues i sTab2 (ctx sTab2) ∧
      ∃ e e', codeWords (ctx sTab2) [jumpTo (ctx sTab2) (8#32), jumpTo (ctx sTab2) (8#32) + 8, jumpTo (ctx sTab2) (8#32) + 12]
          (chargeInstr sTab2 (ctx sTab2) (firstWord i)) = some ([2, 20, 24], e) ∧
        codeWords (ctx sTab2) [jumpTo (ctx sTab2) (8#32) + 8, jumpTo (ctx sTab2) (8#32) + 12, jumpTo (ctx sTab2) (8#32) + 4,
          jumpTo (ctx sTab2) (16#32)] e = some ([20, 24, 16, regangWord], e')) ∧
    (Quiet (ctx sTab1) ∧ (ctx sTab1).st.mask ≠ 0 ∧ (∀ l ∈ lanesOf (ctx sTab1).st.mask, (readV (ctx sTab1).g l 0).toNat < 1) ∧
      indicesOf (ctx sTab1) 0 1 = [0] ∧ (partsOf (ctx sTab1) 0 (targetsOf (ctx sTab1) [0] [20]) 0).length = 1) ∧
    (Quiet (ctx sTab2) ∧ (ctx sTab2).st.mask ≠ 0 ∧ (∀ l ∈ lanesOf (ctx sTab2).st.mask, (readV (ctx sTab2).g l 0).toNat < 2) ∧
      indicesOf (ctx sTab2) 0 2 = [0, 1] ∧ (partsOf (ctx sTab2) 0 (targetsOf (ctx sTab2) [0, 1] [20, 24]) 0).length ≠ 1 ∧
      (ctx sTab2).g.join.length < 256) := by
  refine ⟨?_, ⟨quiet_at (by decide), by decide, by decide, by decide, by decide⟩,
    ⟨quiet_at (by decide), by decide, by decide, by decide, by decide, by decide⟩⟩
  intro i hi
  rcases List.mem_cons.1 hi with rfl | hi
  · exact ⟨rfl, issues_at (by decide), code_at (by decide), issues_at (by decide), code_then (by decide)⟩
  · rw [List.mem_singleton] at hi
    subst hi
    exact ⟨rfl, issues_at (by decide), code_at (by decide), issues_at (by decide), code_then (by decide)⟩

/-- The strand's top entry is at its own address. -/
def sTop : State := withG fun g => { g with join := [{ pc := 0x10000, mask := 0xFFFF, fmt := 0, lk := 0, cause := 0, epc := 0, value := 0, fpc := 0, hnd := false, rank := 0 }] }

theorem top_first {js : List Join} {m : Dword} {e : Join} (h : js.head? = some e) (hm : m &&& ~~~e.mask = 0) : TopIs js m 0 := by
  cases js with
  | nil => exact absurd h (by simp)
  | cons x l =>
    simp only [List.head?_cons, Option.some.injEq] at h
    subst h
    exact ⟨⟨x, rfl, hm⟩, fun k e hk => absurd hk (Nat.not_lt_zero k)⟩

theorem witness_LeavingResults :
    (∃ e, Issues (.regang (ga 0 0 0 0)) sTop (ctx sTop) ∧ Quiet (ctx sTop) ∧ TopIs (ctx sTop).g.join (ctx sTop).st.mask 0 ∧
      (ctx sTop).g.join[0]? = some e ∧ e.pc = (ctx sTop).st.pc) ∧
    (Issues (.regang (ga 0 0 0 0)) s0 (ctx s0) ∧ Quiet (ctx s0) ∧ (ctx s0).g.join = []) ∧
    Issues (.exit (ga 0 0 0 0)) sTop (ctx sTop) ∧ Issues (.halt (ga 0 0 0 10)) (priv sTop) (ctx (priv sTop)) :=
  ⟨⟨_, issues_at (by decide), quiet_at (by decide), top_first rfl (by decide), rfl, rfl⟩,
    ⟨issues_at (by decide), quiet_at (by decide), rfl⟩, issues_at (by decide), issues_at (by decide)⟩

/-- In a handler. -/
def sHnd : State := withS fun t => { t with hnd := true }

/-- `s0` with a trap table in its code page, a handler for every cause. -/
def sTrap : State :=
  words { s0 with dies := [(0, { ctxs := [(0, { ttbase := 0x10001 })] })] } 0x20000 ((List.range 16).flatMap fun _ => [0x10100, 0])

/-- The same with the table not enabled, and its entries zero. -/
def sOff : State :=
  words { s0 with dies := [(0, { ctxs := [(0, { ttbase := 0x10000 })] })] } 0x20000 ((List.range 16).flatMap fun _ => [0, 0])

set_option maxRecDepth 20000 in
theorem witness_ReturnResults :
    (Issues (.rte (ga 0 0 0 1)) sHnd (ctx sHnd) ∧ Issues (.rteTo (ga 1 4 0 1)) sHnd (ctx sHnd) ∧ (ctx sHnd).st.hnd = true) ∧
    (Issues (.rte (ga 0 0 0 1)) sTrap (ctx sTrap) ∧
      ∃ e h, HandlerAt (chargeInstr sTrap (ctx sTrap) (firstWord (.rte (ga 0 0 0 1)))) (ctx sTrap) 1 e h) ∧
    (Issues (.rteTo (ga 1 4 0 1)) sTrap (ctx sTrap) ∧
      ∃ e h, HandlerAt (chargeInstr sTrap (ctx sTrap) (firstWord (.rteTo (ga 1 4 0 1)))) (ctx sTrap) 1 e h) :=
  ⟨⟨issues_at (by decide), issues_at (by decide), by decide⟩, ⟨issues_at (by decide), handler_at (by decide)⟩,
    ⟨issues_at (by decide), handler_at (by decide)⟩⟩

set_option maxRecDepth 20000 in
theorem witness_TrapResults :
    (Issues (.trap (ga 63 0 0 0)) sTrap (ctx sTrap) ∧
      ∃ e h, HandlerAt (chargeInstr sTrap (ctx sTrap) (firstWord (.trap (ga 63 0 0 0)))) (ctx sTrap) 13 e h) ∧
    (Issues (.bkpt (ga 0 0 0 2)) sTrap (ctx sTrap) ∧
      ∃ e h, HandlerAt (chargeInstr sTrap (ctx sTrap) (firstWord (.bkpt (ga 0 0 0 2)))) (ctx sTrap) 12 e h) ∧
    (failsCheck sTrap (ctx sTrap) (.shli (fLS 32)) 1 ∧ ∃ e h, HandlerAt sTrap (ctx sTrap) 1 e h) ∧
    (failsCheck sTrap (ctx sTrap) (.iadd ⟨false, 0, 64, 0, 0, 0⟩) 2 ∧ ¬ failsCheck sTrap (ctx sTrap) (.iadd ⟨false, 0, 64, 0, 0, 0⟩) 1 ∧
      ∃ e h, HandlerAt sTrap (ctx sTrap) 2 e h) ∧
    (failsCheck sTrap (ctx sTrap) (.exit ⟨false, 0, 0, 0, 0⟩) 3 ∧ ¬ failsCheck sTrap (ctx sTrap) (.exit ⟨false, 0, 0, 0, 0⟩) 1 ∧
      ¬ failsCheck sTrap (ctx sTrap) (.exit ⟨false, 0, 0, 0, 0⟩) 2 ∧ ∃ e h, HandlerAt sTrap (ctx sTrap) 3 e h) ∧
    (failsCheck sTrap (ctx sTrap) (.iadd ⟨true, 0, 5, 115, 0, 0⟩) 4 ∧ ¬ failsCheck sTrap (ctx sTrap) (.iadd ⟨true, 0, 5, 115, 0, 0⟩) 1 ∧
      ¬ failsCheck sTrap (ctx sTrap) (.iadd ⟨true, 0, 5, 115, 0, 0⟩) 2 ∧ ¬ failsCheck sTrap (ctx sTrap) (.iadd ⟨true, 0, 5, 115, 0, 0⟩) 3 ∧
      ∃ e h, HandlerAt sTrap (ctx sTrap) 4 e h) ∧
    (failsCheck sOff (ctx sOff) (.shli (fLS 32)) 1 ∧ (∃ e h, TableAt sOff (ctx sOff) 1 e h) ∧
      (ctxBlock sOff (dieOf (ctx sOff).core) (ctx sOff).g.ctx.toNat).ttbase.getLsbD 0 = false) ∧
    (curCtx sTrap = some (ctx sTrap) ∧ settled sTrap (ctx sTrap).g (ctx sTrap).st = true ∧ curCtx sOff = some (ctx sOff) ∧
      settled sOff (ctx sOff).g (ctx sOff).st = true ∧ curCtx sHnd = some (ctx sHnd) ∧ settled sHnd (ctx sHnd).g (ctx sHnd).st = true) ∧
    (failsCheck sHnd (ctx sHnd) (.shli (fLS 32)) 1 ∧ (ctx sHnd).st.hnd = true) := by
  refine ⟨⟨issues_at (by decide), handler_at (by decide)⟩, ⟨issues_at (by decide), handler_at (by decide)⟩,
    ⟨?_, handler_at (by decide)⟩, ⟨?_, ?_, handler_at (by decide)⟩, ⟨?_, ?_, ?_, handler_at (by decide)⟩,
    ⟨?_, ?_, ?_, ?_, handler_at (by decide)⟩, ⟨?_, table_at (by decide), by decide⟩,
    ⟨rfl, by decide, rfl, by decide, rfl, by decide⟩, ⟨?_, by decide⟩⟩ <;>
    (simp only [failsCheck]; decide)

/-! ## Hypotheses of the obligations about the column -/

/-- An LM word with its address in v0 and data in v4, or its address in k2. -/
def lm0 : LM := ⟨false, 0, 4, 0, 0, 0⟩
def lmK : LM := ⟨false, 0, 4, 98, 0, 0⟩

/-- A column whose first 64 KiB but for granule 0 belong to context 0, an allocation of team 0 from granule 1 on. -/
def colA (cls : Cls) : Column :=
  { tags := (List.range 3).map fun g => (g + 1, .alloc 0 0 1), allocs := [⟨256, 768, cls, 1, 0, 0, 1, false, 0, 256, 0⟩], stamps := [(4, 0)] }

/-- `s0` with that column on cores 0 and 1, k2 an address in it, TIME 1,000. -/
def sCol (cls : Cls) (k2 : Word) : State :=
  { withK [(2, k2), (3, 64)] with time := 1000, cores := [(0, { col := colA cls }), (1, { col := colA cls })] }

theorem witness_ColumnLoadResults :
    (∀ i ∈ [Instr.ldo lmK, .ldoD lmK, .ldoQ lmK], (colLoad i).isSome = true ∧ readyNow i (sCol .lap 0x100) = true ∧
      readyNow i (sCol .ref 0x40000100) = true) ∧
    (∀ size ∈ [4, 8, 16],
      (ColPass (sCol .lap 0x100) (ctx (sCol .lap 0x100)) lmK size false ∧
        (∀ l ∈ guardLanes (ctx (sCol .lap 0x100)) lmK.g,
          colOf (ctx (sCol .lap 0x100)) (colEa (ctx (sCol .lap 0x100)) lmK size l) = (ctx (sCol .lap 0x100)).core)) ∧
      (ColPass (sCol .ref 0x40000100) (ctx (sCol .ref 0x40000100)) lmK size false ∧
        (∃ l ∈ guardLanes (ctx (sCol .ref 0x40000100)) lmK.g,
          colOf (ctx (sCol .ref 0x40000100)) (colEa (ctx (sCol .ref 0x40000100)) lmK size l) ≠ (ctx (sCol .ref 0x40000100)).core))) := by
  refine ⟨by decide, fun size hs => ?_⟩
  simp only [List.mem_cons, List.not_mem_nil, or_false] at hs
  rcases hs with rfl | rfl | rfl <;>
    exact ⟨⟨⟨by decide, by decide, ⟨by decide, by decide⟩, rfl⟩, by decide⟩, ⟨by decide, by decide, ⟨by decide, by decide⟩, rfl⟩, ⟨0, by decide, by decide⟩⟩

theorem witness_ColumnStoreResults :
    (∀ i ∈ [Instr.sto lmK, .stoD lmK, .stoQ lmK], (colStore i).isSome = true ∧ readyNow i (sCol .lap 0x100) = true) ∧
    (∀ size ∈ [4, 8, 16], ColPass (sCol .lap 0x100) (ctx (sCol .lap 0x100)) lmK size true) ∧
    (∀ i ∈ [Instr.oadd lmK, .omaxu lmK], (colUpdate i).isSome = true ∧ readyNow i (sCol .ref 0x400003FC) = true) ∧
    ColPass (sCol .ref 0x400003FC) (ctx (sCol .ref 0x400003FC)) lmK 4 false := by
  refine ⟨by decide, fun size hs => ?_, by decide, ⟨by decide, by decide, ⟨by decide, by decide⟩, rfl⟩⟩
  simp only [List.mem_cons, List.not_mem_nil, or_false] at hs
  rcases hs with rfl | rfl | rfl <;> exact ⟨by decide, by decide, ⟨by decide, by decide⟩, rfl⟩

/-- `sCol` with a trap table. -/
def sColT (cls : Cls) (k2 : Word) : State :=
  words { sCol cls k2 with dies := [(0, { ctxs := [(0, { ttbase := 0x10001 })] })] } 0x20000 ((List.range 16).flatMap fun _ => [0x10100, 0])

set_option maxRecDepth 20000 in
theorem witness_ColumnTraps :
    (∀ i ∈ [Instr.ldo lmK, .ldoD lmK, .ldoQ lmK, .sto lmK, .stoD lmK, .stoQ lmK, .oadd lmK, .omaxu lmK], (colAny i).isSome = true) ∧
    (∀ p ∈ [(0x80000000, 1), (0x1800000, 1), (0x101, 2), (0, 3)], ∃ k2 : Word, k2 = BitVec.ofNat 32 p.1 ∧
      Issues (.ldo lmK) (sColT .ref k2) (ctx (sColT .ref k2)) ∧ (getCore (sColT .ref k2) 0).col.busy = none ∧
      (getCore (sColT .ref k2) 1).col.busy = none ∧ 0 ∈ guardLanes (ctx (sColT .ref k2)) lmK.g ∧
      (∀ m ∈ guardLanes (ctx (sColT .ref k2)) lmK.g,
        colSub (sColT .ref k2) (ctx (sColT .ref k2)) 4 (colEa (ctx (sColT .ref k2)) lmK 4 m) = p.2) ∧ p.2 ≠ 0 ∧
      ∃ e h, HandlerAt (chargeInstr (sColT .ref k2) (ctx (sColT .ref k2)) (firstWord (.ldo lmK))) (ctx (sColT .ref k2)) 5 e h) ∧
    (Issues (.ldo lmK) (sColT .trap 0x100) (ctx (sColT .trap 0x100)) ∧
      (∀ m ∈ guardLanes (ctx (sColT .trap 0x100)) lmK.g,
        colSub (sColT .trap 0x100) (ctx (sColT .trap 0x100)) 4 (colEa (ctx (sColT .trap 0x100)) lmK 4 m) = 0 ∧
        stale (sColT .trap 0x100) (ctx (sColT .trap 0x100)) lmK 4 false m = true ∧
        colEa (ctx (sColT .trap 0x100)) lmK 4 m = 0x100) ∧
      ∃ e h, HandlerAt (chargeInstr (sColT .trap 0x100) (ctx (sColT .trap 0x100)) (firstWord (.ldo lmK))) (ctx (sColT .trap 0x100)) 6 e h) := by
  refine ⟨by decide, fun p hp => ?_, issues_at (by decide), by decide, handler_at (by decide)⟩
  simp only [List.mem_cons, List.not_mem_nil, or_false] at hp
  rcases hp with rfl | rfl | rfl | rfl <;>
    exact ⟨_, rfl, issues_at (by decide), rfl, rfl, by decide, by decide, by decide, handler_at (by decide)⟩

theorem lowest_zero {s : State} {core n : Nat} (h : ∀ i < n, i < 98304 ∧ tagAt (getCore s core).col i = .free) :
    LowestFree s core n 0 :=
  ⟨fun i hi => by simpa using h i hi, fun h hh => absurd hh (Nat.not_lt_zero h)⟩

/-- k2 a length, k3 a lifetime or a second operand. -/
def sK (k2 k3 : Word) : State := withK [(2, k2), (3, k3)]

theorem witness_AllocationResults :
    (∀ p ∈ [(0, 0), (1, 1), (2, 62500)], readyNow (.oalloc (ga 4 2 3 (BitVec.ofNat 6 p.1))) (sK 256 (BitVec.ofNat 32 p.2)) = true ∧
      allocOk (sK 256 (BitVec.ofNat 32 p.2)) (ctx (sK 256 (BitVec.ofNat 32 p.2))) (ga 4 2 3 (BitVec.ofNat 6 p.1)) ∧
      LowestFree (sK 256 (BitVec.ofNat 32 p.2)) 0 ((256 + 255) / 256) 0) ∧
    ((getTeam s0 (ctx s0).g.team).map fun t => t.uid) = some (ctx s0).g.team ∧ s0.errs = [] ∧
    mwf Tag.free (getCore s0 0).col.tags = true ∧
    (Issues (.oalloc (ga 4 2 3 0)) (sK 0 0) (ctx (sK 0 0)) ∧ ¬ allocOk (sK 0 0) (ctx (sK 0 0)) (ga 4 2 3 0)) ∧
    (Issues (.ofree (ga 0 2 0 0)) (sCol .ref 256) (ctx (sCol .ref 256)) ∧
      OwnAlloc (sCol .ref 256) (ctx (sCol .ref 256)) (ga 0 2 0 0) ⟨256, 768, .ref, 1, 0, 0, 1, false, 0, 256, 0⟩ ∧
      ∀ x ∈ piecesOf (sCol .ref 256) 0 ⟨256, 768, .ref, 1, 0, 0, 1, false, 0, 256, 0⟩, x.size % 256 = 0 ∧ x.base % 256 = 0 ∧ x.ctx = 0) ∧
    (Issues (.ofree (ga 0 2 0 0)) (sCol .ref 512) (ctx (sCol .ref 512)) ∧
      ∀ al, ¬ OwnAlloc (sCol .ref 512) (ctx (sCol .ref 512)) (ga 0 2 0 0) al) := by
  refine ⟨fun p hp => ?_, by decide, rfl, by decide, ⟨issues_at (by decide), ?_⟩, ⟨issues_at (by decide), rfl, by decide⟩, issues_at (by decide),
    fun al h => ?_⟩
  · simp only [List.mem_cons, List.not_mem_nil, or_false] at hp
    have hr : 62500 ≤ Config.retmin / 64 := by unfold Config.retmin; omega
    rcases hp with rfl | rfl | rfl
    · exact ⟨by decide, ⟨by decide, by decide, .inl ⟨by decide, by decide⟩, by decide⟩, lowest_zero (by decide)⟩
    all_goals exact ⟨by decide, ⟨by decide, by decide, .inr ⟨by decide, by decide, by decide, le_trans (by decide) hr⟩, by decide⟩,
      lowest_zero (by decide)⟩
  · exact fun h => absurd h.1 (by decide)
  · unfold OwnAlloc at h
    have : (getCore (sCol .ref 512) (ctx (sCol .ref 512)).core).col.allocs.find? (fun x =>
        x.base == (readK (ctx (sCol .ref 512)).g 2).toNat && x.team == (ctx (sCol .ref 512)).g.team && !x.static) = none := by decide
    exact absurd (this.symm.trans h) (by simp)

/-- A column with an exchange of pages 0 and 383 in progress. -/
def sBusy : State := { sCol .ref 0 with cores := [(0, { col := { colA .ref with busy := some (0, 383) } })] }

theorem witness_RenewAndExchangeResults :
    (∀ cls ∈ [Cls.ref, .lap], Issues (.orenew (ga 0 2 3 0)) (sCol cls 0x100) (ctx (sCol cls 0x100)) ∧ (sCol cls 0x100).errs = [] ∧
      (getCore (sCol cls 0x100) (renewCore (ctx (sCol cls 0x100)) (ga 0 2 3 0))).col.busy = none ∧
      (readK (ctx (sCol cls 0x100)).g 3).toNat = 64 ∧ (readK (ctx (sCol cls 0x100)).g 2).extractLsb' 25 5 = 0 ∧
      (readK (ctx (sCol cls 0x100)).g 2).getLsbD 31 = false ∧
      ∀ sec, renewed (ctx (sCol cls 0x100)) (ga 0 2 3 0) sec → sec = 4 ∧
        ownedBy (getCore (sCol cls 0x100) (renewCore (ctx (sCol cls 0x100)) (ga 0 2 3 0))).col (ctx (sCol cls 0x100)).g.ctx (64 * sec) = true ∧
        trapExpired (getCore (sCol cls 0x100) (renewCore (ctx (sCol cls 0x100)) (ga 0 2 3 0))).col sec (sCol cls 0x100).time.toNat = false) ∧
    (Issues (.orenew (ga 0 2 3 0)) (sK 0 65537) (ctx (sK 0 65537)) ∧ Issues (.orenew (ga 0 2 3 0)) (sK 0 0) (ctx (sK 0 0))) ∧
    (Issues (.oswap (ga 0 2 3 7)) (priv (sK 0 0x17F0000)) (ctx (priv (sK 0 0x17F0000))) ∧
      swapOk (priv (sK 0 0x17F0000)) (ctx (priv (sK 0 0x17F0000))) 0 0x17F0000) ∧
    (Issues (.oswap (ga 0 2 3 7)) (priv (sK 0 0)) (ctx (priv (sK 0 0))) ∧ ¬ swapOk (priv (sK 0 0)) (ctx (priv (sK 0 0))) 0 0) ∧
    (mwf Tag.free (getCore (priv (sK 0 0x17F0000)) 0).col.tags = true ∧ ColDistinct (getCore (priv (sK 0 0x17F0000)) 0).col) ∧
    (getCore sBusy 0).col.busy.isSome = true := by
  refine ⟨fun cls hc => ?_, ⟨issues_at (by decide), issues_at (by decide)⟩, ⟨issues_at (by decide), ?_⟩, ⟨issues_at (by decide), ?_⟩,
    ⟨by decide, by decide, by decide, by decide⟩, by decide⟩
  · have h1 : ∀ cls, colAddr (readK (ctx (sCol cls 0x100)).g (ga 0 2 3 0).a.toNat).toNat = 256 := fun _ => rfl
    have h2 : ∀ cls, (readK (ctx (sCol cls 0x100)).g (ga 0 2 3 0).b.toNat).toNat = 64 := fun _ => rfl
    have h4 : ∀ cls sec, renewed (ctx (sCol cls 0x100)) (ga 0 2 3 0) sec → sec = 4 := by
      intro cls sec h
      unfold renewed at h
      rw [h1, h2] at h
      omega
    simp only [List.mem_cons, List.not_mem_nil, or_false] at hc
    rcases hc with rfl | rfl <;>
    · refine ⟨issues_at (by decide), rfl, by decide, by decide, by decide, by decide, fun sec hsec => ?_⟩
      obtain rfl := h4 _ sec hsec
      exact ⟨rfl, by decide, by decide⟩
  · refine ⟨by decide, by decide, by decide, by decide, by decide, fun g r h => ?_⟩
    have : tagAt (getCore (priv (sK 0 0x17F0000)) (ctx (priv (sK 0 0x17F0000))).core).col g = .free := rfl
    rw [this] at h
    exact absurd h (by simp)
  · intro h
    exact h.2.2.2.2.1 rfl

/-! ## Hypotheses of the obligations about global memory, counters and barriers -/

/-- k2, k3 a virtual address in the code page. -/
def sG : State := withK [(2, 0x10100)]

/-- j2 and the pair at k2 an address in a sync page of die 0's Carillons, at 0x12000. -/
def sSync : State := tlbFill (withK [(2, 0x12000)]) 0 0 0x12000 0x80000000047 12

theorem witness_GlobalLoadResults :
    ∀ p ∈ [(Instr.ldg lmK, 4), (.ldgD lmK, 8), (.ldgQ lmK, 16)], (globalLoad p.1).map (·.2) = some p.2 ∧ Issues p.1 sG (ctx sG) ∧
      Quiet (ctx sG) ∧ NoLog sG (ctx sG) ∧
      ∃ ls e, reached (ctx sG) (.load p.2) p.2 false (laneEas (ctx sG) lmK p.2) (chargeInstr sG (ctx sG) (firstWord p.1)) =
        some (ls, e) ∧ (e.errs == []) = true := by
  intro p hp
  simp only [List.mem_cons, List.not_mem_nil, or_false] at hp
  rcases hp with rfl | rfl | rfl <;>
    exact ⟨rfl, issues_at (by decide), quiet_at rfl, rfl, some_with (fun e : State => e.errs == []) (by decide)⟩

set_option maxRecDepth 20000 in
theorem witness_GlobalWriteResults :
    (∀ p ∈ [(Instr.stg lmK, 4), (.stgD lmK, 8), (.stgQ lmK, 16)], (globalStore p.1).map (·.2.1) = some p.2 ∧ Issues p.1 sG (ctx sG) ∧
      Quiet (ctx sG) ∧ NoLog sG (ctx sG) ∧ storeOverflow sG (ctx sG) ((laneEas (ctx sG) lmK p.2).map Prod.snd) = false ∧
      (ctx sG).st.slog = [] ∧
      ∃ ls e, reached (ctx sG) .store p.2 true (laneEas (ctx sG) lmK p.2) (chargeInstr sG (ctx sG) (firstWord p.1)) = some (ls, e)) ∧
    (∀ p ∈ [(Instr.aadd lmK, 4), (.amins lmK, 4), (.amaxs lmK, 4), (.aand lmK, 4), (.aor lmK, 4), (.axor lmK, 4), (.axchg lmK, 4),
        (.acas lmK, 4)], (globalAtomic p.1).map (fun x => (x.2.1, x.2.2.2)) = some (p.2, true) ∧ Issues p.1 sG (ctx sG) ∧
      ∃ ls e, reached (ctx sG) .atomic p.2 true (laneEas (ctx sG) lmK p.2) (chargeInstr sG (ctx sG) (firstWord p.1)) = some (ls, e)) ∧
    (∀ p ∈ [(Instr.credf lmK, 8), (.credd lmK, 16)], (globalAtomic p.1).map (fun x => (x.2.1, x.2.2.2)) = some (p.2, false) ∧
      Issues p.1 sSync (ctx sSync) ∧ Quiet (ctx sSync) ∧ NoLog sSync (ctx sSync) ∧
      ∃ ls e, reached (ctx sSync) .sync p.2 true (laneEas (ctx sSync) lmK p.2) (chargeInstr sSync (ctx sSync) (firstWord p.1)) =
        some (ls, e)) := by
  refine ⟨fun p hp => ?_, fun p hp => ?_, fun p hp => ?_⟩ <;> simp only [List.mem_cons, List.not_mem_nil, or_false] at hp
  · rcases hp with rfl | rfl | rfl <;>
      exact ⟨rfl, issues_at (by decide), quiet_at rfl, rfl, by decide, rfl, some_pair (by decide)⟩
  · rcases hp with rfl | rfl | rfl | rfl | rfl | rfl | rfl | rfl <;>
      exact ⟨rfl, issues_at (by decide), some_pair (by decide)⟩
  · rcases hp with rfl | rfl <;>
      exact ⟨rfl, issues_at (by decide), quiet_at rfl, rfl, some_pair (by decide)⟩

/-- The unit that a translation of `va` names is free or a counter, and sound. -/
def isCounter (t : Tr × State) : Bool :=
  match t with
  | (.ok pa _ _, e) => ((getUnit e pa).kind == .free || (getUnit e pa).kind == .counter) && !(getUnit e pa).bad && e.errs == []
  | _ => false

set_option maxRecDepth 20000 in
theorem witness_CounterAndPhaseResults :
    (∀ x ∈ [0, 9, 14], Issues (.cadd (ga 0 2 5 x)) sSync (ctx sSync) ∧
      ∃ pa lg cls e, translate (chargeInstr sSync (ctx sSync) (firstWord (.cadd (ga 0 2 5 x)))) 0 0 0 .sync 8 0x12000 true =
        (.ok pa lg cls, e)) ∧
    (∀ x ∈ [0, 1, 2, 3], Issues (.cread (ga 4 2 0 x)) sSync (ctx sSync) ∧
      ∃ pa lg cls e, translate (chargeInstr sSync (ctx sSync) (firstWord (.cread (ga 4 2 0 x)))) 0 0 0 .sync (creadSize (x.toNat % 4)) 0x12000
        false = (.ok pa lg cls, e)) ∧
    (∀ x ∈ [1, 6, 9, 14], Issues (.cwait (ga 0 2 4 x)) sSync (ctx sSync) ∧
      isCounter (translate (chargeInstr sSync (ctx sSync) (firstWord (.cwait (ga 0 2 4 x)))) 0 0 0 .sync 8 0x12000 false) = true) ∧
    (Quiet (ctx sSync) ∧ NoLog sSync (ctx sSync) ∧ (readJ (ctx sSync).g 2).toNat = 0x12000) ∧
    (∀ x ∈ [1, 2, 3, 4, 5, 6], readyNow (.rel (ga 0 0 0 x)) s0 = true ∧ readyNow (.acq (ga 0 0 0 x)) s0 = true ∧
      readyNow (.phase (ga 0 0 0 x)) s0 = true) ∧ readyNow (.sleep (ga 0 2 0 5)) s0 = true := by
  refine ⟨fun x hx => ?_, fun x hx => ?_, fun x hx => ?_, ⟨quiet_at rfl, rfl, by decide⟩, by decide, by decide⟩ <;>
    simp only [List.mem_cons, List.not_mem_nil, or_false] at hx
  · rcases hx with rfl | rfl | rfl <;> exact ⟨issues_at (by decide), tr_ok (by decide)⟩
  · rcases hx with rfl | rfl | rfl | rfl <;> exact ⟨issues_at (by decide), tr_ok (by decide)⟩
  · rcases hx with rfl | rfl | rfl | rfl <;> exact ⟨issues_at (by decide), by decide⟩

/-- A strand with a pending arrival at group barrier 0 in generation `n`, the group's generation being `m`. -/
def sBar (n m : Nat) : State :=
  withG fun g => { g with strands := g.strands.map fun t => { t with bars := [⟨1, 0, n⟩] }, bars := [(0, m)] }

/-- A launch with COOP, blocks of one team and eight gong lines (R223, R257). -/
def sGong : State := withL s0 [(11, 1), (24, 1), (26, 8)]

set_option exponentiation.threshold 4096 in
set_option maxRecDepth 20000 in
theorem witness_BarrierResults :
    (∀ p ∈ [((0 : BitVec 6), (1 : BitVec 6)), (15, 2), (7, 3), (7, 4), (7, 5)],
      readyNow (.bar (ga p.1 0 0 p.2)) sGong = true ∧ readyNow (.bara (ga p.1 0 0 p.2)) sGong = true ∧
      readyNow (.barw (ga p.1 0 0 p.2)) sGong = true ∧ arrivedIn (ctx sGong).st p.2.toNat p.1.toNat = none) ∧
    (Quiet (ctx sGong) ∧ (ctx sGong).st.slog = []) ∧
    (∀ p ∈ [(0, 0), (0, 1)], Quiet (ctx (sBar p.1 p.2)) ∧ (ctx (sBar p.1 p.2)).st.slog = [] ∧
      arrivedIn (ctx (sBar p.1 p.2)).st 1 0 = some p.1 ∧ barGen (sBar p.1 p.2) (ctx (sBar p.1 p.2)).g 1 0 = p.2 ∧
      readyNow (.bar (ga 0 0 0 1)) (sBar p.1 p.2) = true ∧ readyNow (.bara (ga 0 0 0 1)) (sBar p.1 p.2) = true ∧
      readyNow (.barw (ga 0 0 0 1)) (sBar p.1 p.2) = true) := by
  refine ⟨by decide, ⟨quiet_at rfl, rfl⟩, fun p hp => ?_⟩
  simp only [List.mem_cons, List.not_mem_nil, or_false] at hp
  rcases hp with rfl | rfl <;>
    exact ⟨quiet_at rfl, rfl, by decide, by decide, by decide, by decide, by decide⟩

/-! ## Hypotheses of the obligations about the matrix engine -/

/-- Records of one row of 32 elements: k4 A at 0x100, k8 B at 0x140; k12 the shape of an MCLR. -/
def matK : AMap Word := [(4, 0x100), (5, 64), (6, 0x200001), (8, 0x140), (9, 64), (10, 0x200001), (12, 0x200001)]

/-- Teams with 32 accumulator entries, on core 0 and, for MMAX, on each core of its cluster. -/
def sMat : State :=
  { withK matK with
    cores := [(0, { col := colA .ref })]
    teams := [(0, { codeTeam 0 with accSize := 32 })] }

def sMax : State :=
  withL { sMat with
    groups := (List.range 16).map fun i => (gkey i 0, { codeGroup i 0 with core := i, k := matK })
    teams := (List.range 16).map fun i => (i, { codeTeam i with accSize := 32 }) } [(24, 16)]

theorem foot_ok {s : State} {c : Ctx} {rs : List Range}
    (h : (rs.all fun r => (List.range r.2).all fun n => decide (r.1 + n < 0x1800000) &&
      ownedBy (getCore s c.core).col c.g.ctx (r.1 + n)) = true) : FootOk s c rs := by
  intro r hr x h1 h2
  have h3 := List.all_eq_true.1 h r hr
  have h4 := List.all_eq_true.1 h3 (x - r.1) (List.mem_range.2 (by omega))
  rw [show r.1 + (x - r.1) = x by omega] at h4
  simp only [Bool.and_eq_true, decide_eq_true_eq] at h4
  exact ⟨h4.1, h4.2⟩

theorem fresh_ok {s : State} {c : Ctx} {reads parts : List Range}
    (h : ((reads ++ parts).all fun r => (List.range r.2).all fun n =>
      !trapExpired (getCore s c.core).col ((r.1 + n) / 64) s.time.toNat) = true) : Fresh s c reads parts := by
  have key : ∀ r ∈ reads ++ parts, ∀ x, r.1 ≤ x → x < r.1 + r.2 → trapExpired (getCore s c.core).col (x / 64) s.time.toNat = false := by
    intro r hr x h1 h2
    have h4 := List.all_eq_true.1 (List.all_eq_true.1 h r hr) (x - r.1) (List.mem_range.2 (by omega))
    rw [show r.1 + (x - r.1) = x by omega] at h4
    simpa using h4
  intro sec hs
  rcases hs with ⟨r, hr, x, h1, h2, rfl⟩ | ⟨⟨r, hr, x, h1, h2, rfl⟩, _⟩
  · exact key r (List.mem_append_left _ hr) x h1 h2
  · exact key r (List.mem_append_right _ hr) x h1 h2

/-- Its operands pass. -/
theorem operands_ok {s : State} {c : Ctx} {isB : Bool} {f : Nat} {t sc : TileRec} (hb : blockFmt false f = false)
    (hz : t.zeros = true) (hs : 1 ≤ t.rows ∧ t.rows ≤ (if isB then 256 else 128) ∧ 32 ≤ t.cols ∧ t.cols ≤ 1024 ∧ t.cols % 32 = 0)
    (hp : t.base % 16 = 0 ∧ t.pitch % 16 = 0 ∧ (t.rows ≤ 1 ∨ (t.cols * elemBits false f + 7) / 8 ≤ t.pitch)) (_ : s = s) (_ : c = c) :
    OperandOk isB false f t sc :=
  ⟨⟨hz, fun h => absurd (h.symm.trans hb) (by decide)⟩, hs, fun h => absurd (h.symm.trans hb) (by decide), hp,
    fun h => absurd (h.symm.trans hb) (by decide)⟩

set_option exponentiation.threshold 4096 in
set_option maxRecDepth 20000 in
theorem witness_MatrixQueueResults :
    (∀ f ∈ [ga 0 4 8 0, ga 0 4 8 1, ga 0 4 8 5], Issues (.mma f) sMat (ctx sMat) ∧ ProductOk (.mma f) f sMat (ctx sMat)) ∧
    (Issues (.mmap (ga 0 4 8 0)) sMat (ctx sMat) ∧ ProductOk (.mmap (ga 0 4 8 0)) (ga 0 4 8 0) sMat (ctx sMat)) ∧
    (Issues (.mmax (ga 0 4 8 0)) sMax (ctx sMax) ∧ ProductOk (.mmax (ga 0 4 8 0)) (ga 0 4 8 0) sMax (ctx sMax)) ∧
    (Issues (.mclr (ga 0 12 0 0)) sMat (ctx sMat) ∧ (getCore sMat 0).mq.length < 16 ∧
      AccFits (accOn sMat (ctx sMat).g.team 0).2 (readK (ctx sMat).g 0) 1 ((readK (ctx sMat).g 12).extractLsb' 0 16).toNat
        ((readK (ctx sMat).g 12).extractLsb' 16 16).toNat) ∧
    (∀ i ∈ [Instr.msta (ga 0 4 0 0), .mlda (ga 0 4 0 16)], (matMove i).isSome = true ∧ Issues i sMat (ctx sMat)) ∧
    ((tileAt (ctx sMat) 4).zeros = true ∧ tileOk (tileAt (ctx sMat) 4) (codeBits 0) = true ∧
      AccFits (accOn sMat (ctx sMat).g.team 0).2 (readK (ctx sMat).g 0) 1 (tileAt (ctx sMat) 4).rows (tileAt (ctx sMat) 4).cols ∧
      FootOk sMat (ctx sMat) (moveFoot (ctx sMat) (ga 0 4 0 0)) ∧ Fresh sMat (ctx sMat) [] (moveParts (ctx sMat) (ga 0 4 0 0)) ∧
      Fresh sMat (ctx sMat) (moveParts (ctx sMat) (ga 0 4 0 16)) [] ∧ (getCore sMat 0).col.busy = none) ∧
    Issues (.mfence (ga 0 0 0 0)) sMat (ctx sMat) ∧ (Issues (.mgath (ga 0 4 0 63)) sMat (ctx sMat) ∧
      ∃ l ∈ lanesOf (ctx s0).st.mask, (readK (ctx s0).g 4).toNat + l < 128) := by
  have hA : ∀ op, OperandOk false false 0 (tileAt (ctx sMat) 4) op := fun _ =>
    operands_ok (s := sMat) (c := ctx sMat) (by decide) (by decide) (by decide) (by decide) rfl rfl
  have hB : ∀ op, OperandOk true false 0 (tileAt (ctx sMat) 8) op := fun _ =>
    operands_ok (s := sMat) (c := ctx sMat) (by decide) (by decide) (by decide) (by decide) rfl rfl
  have hA' : ∀ op, OperandOk false false 0 (tileAt (ctx sMax) 4) op := fun _ =>
    operands_ok (s := sMax) (c := ctx sMax) (by decide) (by decide) (by decide) (by decide) rfl rfl
  have hB' : ∀ op, OperandOk true false 0 (tileAt (ctx sMax) 8) op := fun _ =>
    operands_ok (s := sMax) (c := ctx sMax) (by decide) (by decide) (by decide) (by decide) rfl rfl
  refine ⟨fun f hf => ?_, ⟨issues_at (by decide), ?_⟩, ⟨issues_at (by decide), ?_⟩, ⟨issues_at (by decide), by decide, ?_⟩, fun i hi => ?_,
    ⟨by decide, by decide, ?_, foot_ok (by decide), fresh_ok (by decide), fresh_ok (by decide), rfl⟩, issues_at (by decide), issues_at (by decide), 0, by decide, by decide⟩
  · simp only [List.mem_cons, List.not_mem_nil, or_false] at hf
    rcases hf with rfl | rfl | rfl <;>
      exact ⟨issues_at (by decide), fun _ => hA _, fun _ => hB _, fun _ _ => ⟨by decide, .inr (.inr (by decide))⟩,
        fun h => absurd h (by decide), foot_ok (by decide), fresh_ok (by decide), rfl, by decide⟩
  · exact ⟨fun _ => hA _, fun _ => hB _, fun _ _ => ⟨by decide, .inr (.inr (by decide))⟩,
      fun h => absurd h (by decide), foot_ok (by decide), fresh_ok (by decide), rfl, by decide⟩
  · exact ⟨fun _ => hA' _, fun _ => hB' _, fun _ _ => ⟨by decide, .inr (.inr (by decide))⟩,
      fun _ => by decide, foot_ok (by decide), fresh_ok (by decide), rfl, by decide⟩
  · exact .inr (.inr (by decide))
  · simp only [List.mem_cons, List.not_mem_nil, or_false] at hi
    rcases hi with rfl | rfl <;> exact ⟨rfl, issues_at (by decide)⟩
  · exact .inr (.inr (by decide))

/-- An operation at the head of a queue. -/
def opAt (i : Instr) (started : Bool) : MOp := {
  instr := i, grp := 0, sid := 0, pc := 0x10000, mask := 0xFFFF, fmt := 0, word := firstWord i, acc := 0
  a := [0x100, 64, 0x200001, 0], as_ := [], b := [0x140, 64, 0x200001, 0], bs := [], gset := [], lapsed := [], started := started }

/-- `sMax` with such an operation at the head of every queue of the cluster, and every engine holding since cycle 0. -/
def sHead (i : Instr) (started : Bool) : State :=
  { sMax with
    clk := 700000
    cores := (List.range 16).map fun c => (c, { col := colA .ref, mq := [opAt i started], hold := some 0 }) }

/-- The same for core 0 alone. -/
def sAlone (i : Instr) : State := { sMax with clk := 700000, cores := [(0, { col := colA .ref, mq := [opAt i false], hold := some 0 })] }

/-- The heads of `sHead`. -/
def headsAt (i : Instr) (started : Bool) (cores : List Nat) : List Source := cores.map fun c => ⟨c, opAt i started⟩

/-- `AccFits`, as a test. -/
def fitsNow (size : Nat) (acc : Word) (e rows cols : Nat) : Bool :=
  decide (accBaseOf acc + accPitchOf acc * (rows - 1) + e * cols ≤ size) && decide (rows ≤ 1 ∨ e * cols ≤ accPitchOf acc)

theorem fits_at {s : State} {op : Nat} {l : List Source} (h : (l.all fun x => match getGroup s x.core x.op.grp with
    | some g => fitsNow (accOn s g.team x.core).2 x.op.acc (accUnit x.op.fmt) (tileOf (sourceA op l x).op.a).rows
        (tileOf (sourceB op l x).op.b).rows
    | none => true) = true) : ∀ x ∈ l, ∀ g, getGroup s x.core x.op.grp = some g →
    AccFits (accOn s g.team x.core).2 x.op.acc (accUnit x.op.fmt) (tileOf (sourceA op l x).op.a).rows (tileOf (sourceB op l x).op.b).rows := by
  intro x hx g hg
  have h1 := List.all_eq_true.1 h x hx
  rw [hg] at h1
  simp only [fitsNow, Bool.and_eq_true, decide_eq_true_eq] at h1
  exact .inr (.inr h1)

set_option exponentiation.threshold 4096 in
set_option maxRecDepth 20000 in
theorem witness_MatrixCompletionResults :
    (headOp (sHead (.mma (ga 0 4 8 0)) false) 0 = some (opAt (.mma (ga 0 4 8 0)) false) ∧
      headOp (sHead (.mmap (ga 0 4 8 0)) false) 0 = some (opAt (.mmap (ga 0 4 8 0)) false)) ∧
    (∀ f ∈ [ga 0 4 8 0, ga 0 4 8 1, ga 0 4 8 4], Started (sHead (.mma f) true) 0x20 0 (headsAt (.mma f) true [0])) ∧
    Started (sHead (.mmap (ga 0 4 8 0)) true) 0x21 0 (headsAt (.mmap (ga 0 4 8 0)) true [0, 1]) ∧
    (Started (sHead (.mmax (ga 0 4 8 0)) true) 0x22 0 (headsAt (.mmax (ga 0 4 8 0)) true (List.range 16)) ∧
      multicastWaits (sHead (.mmax (ga 0 4 8 0)) true) 0 = false) ∧
    (headOp (sHead (.mclr (ga 0 4 0 0)) true) 0 = some (opAt (.mclr (ga 0 4 0 0)) true) ∧ wOp (opAt (.mclr (ga 0 4 0 0)) true).word = 0x23) ∧
    ((∃ g, Moving (sHead (.msta (ga 0 4 0 0)) true) 0 (opAt (.msta (ga 0 4 0 0)) true) g) ∧
      wOp (opAt (.msta (ga 0 4 0 0)) true).word = 0x24) ∧
    ((∃ g, Moving (sHead (.mlda (ga 0 4 0 0)) true) 0 (opAt (.mlda (ga 0 4 0 0)) true) g) ∧
      wOp (opAt (.mlda (ga 0 4 0 0)) true).word = 0x25) ∧
    (AllHold (sHead (.mmap (ga 0 4 8 0)) false) 0x21 [0, 1] (headsAt (.mmap (ga 0 4 8 0)) false [0, 1]) ∧
      startSub (sHead (.mmap (ga 0 4 8 0)) false) 0x21 (headsAt (.mmap (ga 0 4 8 0)) false [0, 1]) = 0) ∧
    (AllHold (sHead (.mmax (ga 0 4 8 0)) false) 0x22 (List.range 16) (headsAt (.mmax (ga 0 4 8 0)) false (List.range 16)) ∧
      multicastRoom (sHead (.mmax (ga 0 4 8 0)) false) 0 = true ∧
      startSub (sHead (.mmax (ga 0 4 8 0)) false) 0x22 (headsAt (.mmax (ga 0 4 8 0)) false (List.range 16)) = 0) ∧
    (headOp (sAlone (.mmap (ga 0 4 8 0))) 0 = some (opAt (.mmap (ga 0 4 8 0)) false) ∧
      (getCore (sAlone (.mmap (ga 0 4 8 0))) 0).hold = some 0 ∧ 65536 ≤ nowCycle (sAlone (.mmap (ga 0 4 8 0))) 0 ∧
      ∃ d ∈ productCores (wOp (opAt (.mmap (ga 0 4 8 0)) false).word) 0,
        holdsBy (sAlone (.mmap (ga 0 4 8 0))) (wOp (opAt (.mmap (ga 0 4 8 0)) false).word) d 65536 = false) := by
  refine ⟨⟨rfl, rfl⟩, fun f hf => ?_,
    ⟨by decide, by decide, by unfold Unmetered; decide, rfl, by decide, fits_at (by decide)⟩,
    ⟨⟨by decide, by decide, by unfold Unmetered; decide, rfl, by decide, fits_at (by decide)⟩, by decide⟩,
    ⟨rfl, by decide⟩,
    ⟨⟨_, rfl, rfl, rfl, rfl, rfl, by decide, by unfold AccFits; decide⟩, by decide⟩,
    ⟨⟨_, rfl, rfl, rfl, rfl, rfl, by decide, by unfold AccFits; decide⟩, by decide⟩,
    ⟨⟨by decide, by decide⟩, by decide⟩, ⟨⟨by decide, by decide⟩, by decide, by decide⟩, rfl, rfl, by decide, 1, by decide, by decide⟩
  simp only [List.mem_cons, List.not_mem_nil, or_false] at hf
  rcases hf with rfl | rfl | rfl <;>
    exact ⟨by decide, by decide, by unfold Unmetered; decide, rfl, by decide, fits_at (by decide)⟩

/-! ## Hypotheses of the obligations about engines, launches, trees, bounds and logs -/

/-- Granules 0 to 7 of context 0, with these bytes. -/
def colB (l : AMap Byte) : Column := { tags := (List.range 8).map fun g => (g, .alloc 0 0 1), bytes := l }

/-- `s0` with that column, and k2 to k5. -/
def sRec (l : AMap Byte) (k : AMap Word) : State := { withK k with cores := [(0, { col := colB l })] }

theorem record_ok {s : State} {c : Ctx} {a n : Nat}
    (h : ((List.range n).all fun i => ownedBy (getCore s c.core).col c.g.ctx (a + i) &&
      !trapExpired (getCore s c.core).col ((a + i) / 64) s.time.toNat) = true) (hb : (getCore s c.core).col.busy = none) (he : s.errs = []) :
    RecordOk s c a n := by
  have key : ∀ x, a ≤ x → x < a + n → ownedBy (getCore s c.core).col c.g.ctx x = true ∧
      trapExpired (getCore s c.core).col (x / 64) s.time.toNat = false := by
    intro x h1 h2
    have h3 := List.all_eq_true.1 h (x - a) (List.mem_range.2 (by omega))
    rw [show a + (x - a) = x by omega] at h3
    simp only [Bool.and_eq_true, Bool.not_eq_true'] at h3
    exact h3
  exact ⟨fun x h1 h2 => (key x h1 h2).1, fun x h1 h2 => (key x h1 h2).2, hb, he⟩

/-- A block of a type at 0x100, and the state whose cluster changes its owner, so that no walker has room. -/
def sBlk (ty link : Byte) : State := sRec [(0x100, ty), (0x102, 1), (0x103, link)] [(2, 0x100)]
def sMoving (ty : Byte) : State := { sBlk ty 0 with dies := [(0, { cown := [(0, { moving := true })] })] }

set_option exponentiation.threshold 4096 in
set_option maxRecDepth 20000 in
theorem witness_EngineCommandResults :
    (∀ p ∈ [(Instr.copy (ga 4 2 0 3), (1 : Nat)), (.tile (ga 4 2 0 0), 2), (.puts (ga 4 2 0 0), 3)],
      (engineCmd p.1).map (·.2) = some p.2 ∧ Issues p.1 (sBlk (BitVec.ofNat 8 p.2) 0) (ctx (sBlk (BitVec.ofNat 8 p.2) 0)) ∧
      RecordOk (sBlk (BitVec.ofNat 8 p.2) 0) (ctx (sBlk (BitVec.ofNat 8 p.2) 0)) 0x100 128 ∧
      bType (blockAt (sBlk (BitVec.ofNat 8 p.2) 0) (ctx (sBlk (BitVec.ofNat 8 p.2) 0)) 0x100) = p.2 ∧
      bType (blockAt (sBlk 4 0) (ctx (sBlk 4 0)) 0x100) ≠ p.2 ∧
      bLinkc (blockAt (sBlk (BitVec.ofNat 8 p.2) 1) (ctx (sBlk (BitVec.ofNat 8 p.2) 1)) 0x100) ≠ 0 ∧
      bLinkc (blockAt (sBlk (BitVec.ofNat 8 p.2) 0) (ctx (sBlk (BitVec.ofNat 8 p.2) 0)) 0x100) = 0 ∧
      blockOk 0 (blockAt (sBlk (BitVec.ofNat 8 p.2) 0) (ctx (sBlk (BitVec.ofNat 8 p.2) 0)) 0x100) = true ∧
      Issues p.1 (sMoving (BitVec.ofNat 8 p.2)) (ctx (sMoving (BitVec.ofNat 8 p.2))) ∧
      walkerRoom (sMoving (BitVec.ofNat 8 p.2)) 0 0 = false ∧ walkerRoom (sBlk (BitVec.ofNat 8 p.2) 0) 0 3 = true ∧
      Issues p.1 (sRec [] [(2, 0x1800000)]) (ctx (sRec [] [(2, 0x1800000)])) ∧
      Issues p.1 (sRec [] [(2, 1)]) (ctx (sRec [] [(2, 1)]))) ∧
    (Issues (.chain (ga 4 2 0 0)) (sRec [] [(2, 1)]) (ctx (sRec [] [(2, 1)])) ∧ (readJ (ctx (sRec [] [(2, 1)])).g 2).toNat % 128 ≠ 0) ∧
    (Issues (.chain (ga 4 2 0 0)) (sBlk 1 0) (ctx (sBlk 1 0)) ∧ Quiet (ctx (sBlk 1 0)) ∧
      (readJ (ctx (sBlk 1 0)).g 2).toNat % 128 = 0 ∧ (readJ (ctx (sBlk 1 0)).g 2).toNat < 2 ^ 57) ∧
    Issues (.chain (ga 4 2 0 0)) (sMoving 1) (ctx (sMoving 1)) := by
  refine ⟨fun p hp => ?_, ⟨issues_at (by decide), by decide⟩, ⟨issues_at (by decide), quiet_at rfl, by decide, by decide⟩, issues_at (by decide)⟩
  simp only [List.mem_cons, List.not_mem_nil, or_false] at hp
  rcases hp with rfl | rfl | rfl <;>
    exact ⟨rfl, issues_at (by decide), record_ok (by decide) rfl rfl, by decide, by decide, by decide, by decide, by decide,
      issues_at (by decide), by decide, by decide, issues_at (by decide), issues_at (by decide)⟩

/-- A slot of walker 0 with a command whose ticket is 0, and `n` tokens. -/
def slotWith (chain : Bool) (ph : Phase) (n : Nat) : WSlot := {
  cmd := { ticket := 0, chain := chain, ctx := 0, core := 0, team := 0, part := 0, gen := 0, addr := 0, blk := 0, tokens := List.replicate n 0 }
  blk := 0, phase := ph }
def sTok (chain : Bool) (ph : Phase) (n : Nat) (k : AMap Word) : State :=
  { withK k with walkers := [(0, { slots := [(0, slotWith chain ph n)] })] }

/-- A core that keeps a ticket in a state. -/
def sTick (n : Nat) : State := { s0 with cores := [(0, { tickets := [(0, { ctx := 0, team := 0, state := n })] })] }

set_option exponentiation.threshold 4096 in
set_option maxRecDepth 20000 in
theorem witness_TokenAndStatusResults :
    (Issues (.token (ga 4 2 3 0)) (sTok true .fetch 0 [(3, 256)]) (ctx (sTok true .fetch 0 [(3, 256)])) ∧
      256 ≤ (readK (ctx (sTok true .fetch 0 [(3, 256)])).g 3).toNat) ∧
    (Issues (.token (ga 4 2 3 0)) (sTok true .fetch 0 [(2, 0x80000000)]) (ctx (sTok true .fetch 0 [(2, 0x80000000)])) ∧
      (readK (ctx (sTok true .fetch 0 [(2, 0x80000000)])).g 2).getLsbD 31 = true) ∧
    (findTicket (sTok true .fetch 0 [(2, 1)]) 0 (readK (ctx (sTok true .fetch 0 [(2, 1)])).g 2) = none) ∧
    (∀ p ∈ [(false, Phase.fetch, 0), (true, .ended, 0), (true, .token, 4), (true, .token, 3), (true, .fetch, 0)],
      Issues (.token (ga 4 2 3 0)) (sTok p.1 p.2.1 p.2.2 [(3, 255)]) (ctx (sTok p.1 p.2.1 p.2.2 [(3, 255)])) ∧
      chainSlot (sTok p.1 p.2.1 p.2.2 [(3, 255)]) (ctx (sTok p.1 p.2.1 p.2.2 [(3, 255)])) 0 0 0 (slotWith p.1 p.2.1 p.2.2) ∧
      (readK (ctx (sTok p.1 p.2.1 p.2.2 [(3, 255)])).g 3).toNat < 256) ∧ Quiet (ctx s0) ∧
    (Issues (.estat (ga 4 2 0 0)) s0 (ctx s0) ∧ mfind (getCore s0 0).tickets 0 = none) ∧
    (∀ n ∈ [0, 1, 2, 3], Issues (.estat (ga 4 2 0 0)) (sTick n) (ctx (sTick n)) ∧
      mfind (getCore (sTick n) 0).tickets 0 = some { ctx := 0, team := 0, state := n } ∧ (readK (ctx (sTick n)).g 2).toNat = 0) := by
  refine ⟨⟨issues_at (by decide), by decide⟩, ⟨issues_at (by decide), by decide⟩, by decide, fun p hp => ?_, quiet_at rfl,
    ⟨issues_at (by decide), rfl⟩, fun n hn => ?_⟩
  · simp only [List.mem_cons, List.not_mem_nil, or_false] at hp
    rcases hp with rfl | rfl | rfl | rfl | rfl <;>
      exact ⟨issues_at (by decide), ⟨by decide, by decide, rfl, rfl, rfl⟩, by decide⟩
  · simp only [List.mem_cons, List.not_mem_nil, or_false] at hn
    rcases hn with rfl | rfl | rfl | rfl <;> exact ⟨issues_at (by decide), rfl, by decide⟩

/-- Front end 0 holds cluster 0. -/
def sFe (k : AMap Word) (fe : FrontEnd) : State :=
  { sRec [] k with dies := [(0, { cown := [(0, { none_ := false })] })], fes := [(0, fe)] }

/-- A stream in slot 0 of front end 0: FLAGS bit 3, one end of stream still to come. -/
def stream : FrontEnd := { slots := [(0, launchWith [(11, 8), (42, 1)])] }

/-- `sFe` with these column bytes and one lane. -/
def sSpawn (l : AMap Byte) (k : AMap Word) (fe : FrontEnd) : State :=
  { sFe k fe with
    cores := [(0, { col := colB l })]
    groups := (sFe k fe).groups.map fun p => (p.1, { p.2 with strands := p.2.strands.map fun t => { t with mask := 1 } }) }

theorem all_taken (x : Launch) (n : Nat) : ∀ l : List Nat, n ∈ l → mfind (l.map fun i => (i, x)) n ≠ none
  | [], h => absurd h List.not_mem_nil
  | a :: l, h => by
    rw [List.map_cons, mfind]
    split
    · simp
    · next hn => exact all_taken x n l ((List.mem_cons.1 h).resolve_left hn)

theorem spawn_one {s : State} {c : Ctx} {x : Nat} (hm : (lanesOf c.st.mask).length = 1) (h : colWord s c.core 0 64 = x) :
    spawnRecords s c 0 = [BitVec.ofNat 512 x] := by
  unfold spawnRecords
  rw [if_neg (by decide), hm]
  simp [h]

set_option exponentiation.threshold 4096 in
theorem spawn_bad {s : State} {c : Ctx} (hm : (lanesOf c.st.mask).length = 1) (h : colWord s c.core 0 64 = 1) :
    ∃ r ∈ spawnRecords s c 0, ¬ mayspawn r := by
  rw [spawn_one hm h]
  exact ⟨_, List.mem_singleton.2 rfl, by unfold mayspawn tfield; decide⟩

set_option exponentiation.threshold 4096 in
theorem spawn_good {s : State} {c : Ctx} (hm : (lanesOf c.st.mask).length = 1) (h : colWord s c.core 0 64 = 0) :
    ∀ r ∈ spawnRecords s c 0, mayspawn r := by
  rw [spawn_one hm h]
  intro r hr
  rw [List.mem_singleton] at hr
  subst hr
  unfold mayspawn tfield; decide

set_option exponentiation.threshold 4096 in
set_option maxRecDepth 20000 in
theorem witness_LaunchResults :
    (Issues (.launch (ga 4 2 0 0)) (sFe [(2, 1)] {}) (ctx (sFe [(2, 1)] {})) ∧ Quiet (ctx (sFe [(2, 1)] {})) ∧
      (readJ (ctx (sFe [(2, 1)] {})).g 2).toNat % 256 ≠ 0) ∧
    (Issues (.launch (ga 4 2 0 0)) (sFe [] { queue := List.replicate 64 0 }) (ctx (sFe [] { queue := List.replicate 64 0 })) ∧
      64 ≤ (getFe (sFe [] { queue := List.replicate 64 0 }) 0).queue.length) ∧
    (Issues (.launch (ga 4 2 0 0)) (sFe [] {}) (ctx (sFe [] {})) ∧ homeFe (sFe [] {}) (ctx (sFe [] {})) = 0 ∧
      (readJ (ctx (sFe [] {})).g 2).toNat % 256 = 0 ∧ (readJ (ctx (sFe [] {})).g 2).toNat < 2 ^ 57 ∧
      (getFe (sFe [] {}) 0).queue.length < 64 ∧ feClusters (sFe [] {}) 0 ≠ [] ∧ LowestSlot (sFe [] {}) 0 0) ∧
    (∀ n, ¬ LowestSlot (sFe [] { slots := (List.range 2048).map fun i => (i, launchWith []) }) 0 n) ∧
    (∀ i ∈ [Instr.tspawn (ga 4 5 2 0)], Issues i (sSpawn [] [(2, 0xFFFFFFFF)] stream) (ctx (sSpawn [] [(2, 0xFFFFFFFF)] stream))) ∧
    (∀ i ∈ [Instr.tspawn (ga 4 5 2 0), .tspawnEos (ga 4 5 2 1)], (spawnWord i).isSome = true ∧
      (Issues i (sSpawn [] [] {}) (ctx (sSpawn [] [] {})) ∧ streamOf (sSpawn [] [] {}) 0 0 = none) ∧
      streamOf (sSpawn [] [] stream) 0 0 = some (launchWith [(11, 8), (42, 1)]) ∧
      (Issues i (sSpawn [] [(2, 1)] stream) (ctx (sSpawn [] [(2, 1)] stream)) ∧ ¬ spawnAddr (readK (ctx (sSpawn [] [(2, 1)] stream)).g 2).toNat) ∧
      (Issues i (sSpawn [(0, 1)] [] stream) (ctx (sSpawn [(0, 1)] [] stream)) ∧
        RecordOk (sSpawn [(0, 1)] [] stream) (ctx (sSpawn [(0, 1)] [] stream)) 0 64 ∧
        ∃ r ∈ spawnRecords (sSpawn [(0, 1)] [] stream) (ctx (sSpawn [(0, 1)] [] stream)) 0, ¬ mayspawn r) ∧
      (Issues i (sSpawn [] [] stream) (ctx (sSpawn [] [] stream)) ∧ spawnAddr 0 ∧ (ctx (sSpawn [] [] stream)).st.mask ≠ 0 ∧
        (lanesOf (ctx (sSpawn [] [] stream)).st.mask).length = 1 ∧
        ∀ r ∈ spawnRecords (sSpawn [] [] stream) (ctx (sSpawn [] [] stream)) 0, mayspawn r)) ∧
    (Issues (.tspawnEos (ga 4 5 2 1)) (sSpawn [] [(2, 0xFFFFFFFF)] stream) (ctx (sSpawn [] [(2, 0xFFFFFFFF)] stream)) ∧
      4096 < stagedCount { stream with staging := List.replicate 4096 0 } + 1) ∧
    (Issues (.yield (ga 0 0 0 0)) s0 (ctx s0) ∧ Quiet (ctx s0) ∧ ((getTeam s0 (ctx s0).g.team).map fun t => t.uid) = some (ctx s0).g.team ∧
      passUnits s0 0 0 = [] ∧ passUnits s0 0 1 = []) := by
  refine ⟨⟨issues_at (by decide), quiet_at rfl, by decide⟩, ⟨issues_at (by decide), by decide⟩,
    ⟨issues_at (by decide), by decide, by decide, by decide, by decide, by decide, by decide, rfl, fun m hm => absurd hm (Nat.not_lt_zero m)⟩,
    fun n h => absurd h.2.1 (all_taken _ _ _ (List.mem_range.2 h.1)), fun i hi => ?_, fun i hi => ?_, ⟨issues_at (by decide), ?_⟩,
    ⟨issues_at (by decide), quiet_at rfl, rfl, rfl, rfl⟩⟩
  · rw [List.mem_singleton] at hi
    subst hi
    exact issues_at (by decide)
  · simp only [List.mem_cons, List.not_mem_nil, or_false] at hi
    rcases hi with rfl | rfl <;>
      exact ⟨rfl, ⟨issues_at (by decide), by decide⟩, by decide, ⟨issues_at (by decide), by unfold spawnAddr; decide⟩,
        ⟨issues_at (by decide), record_ok (by decide) rfl rfl, spawn_bad (by decide) (by decide)⟩,
        ⟨issues_at (by decide), by unfold spawnAddr; decide, by decide, by decide, spawn_good (by decide) (by decide)⟩⟩
  · have : 4096 ≤ stagedCount { stream with staging := List.replicate 4096 0 } := by
      unfold stagedCount; simp
    omega

/-- Granules 0 to 7 owned, and the sync page at virtual address 0. -/
def sTree : State := tlbFill (sRec [] []) 0 0 0 0x80000000047 12

theorem tree_cols {s : State} {c : Ctx} {form : Nat} {f : GA}
    (h : ((lanesOf c.st.mask).all fun l => match treeCols form f c l with
      | none => true
      | some (a, n, w) => decide (a % w = 0) && (List.range n).all fun i => decide (a + i < 0x1800000) &&
          ownedBy (getCore s c.core).col c.g.ctx (a + i) && !trapExpired (getCore s c.core).col ((a + i) / 64) s.time.toNat) = true)
    (hb : (getCore s c.core).col.busy = none) (he : s.errs = []) : TreeCols s c form f := by
  refine ⟨fun l hl a n w ht => ?_, hb, he⟩
  have h1 := List.all_eq_true.1 h l hl
  rw [ht] at h1
  simp only [Bool.and_eq_true, decide_eq_true_eq] at h1
  refine ⟨h1.1, fun x hx1 hx2 => ?_⟩
  have h2 := List.all_eq_true.1 h1.2 (x - a) (List.mem_range.2 (by omega))
  rw [show a + (x - a) = x by omega] at h2
  simp only [Bool.and_eq_true, decide_eq_true_eq, Bool.not_eq_true'] at h2
  exact ⟨h2.1.1, h2.1.2, h2.2⟩

/-- The strand has one lane. -/
def sTree1 : State :=
  { sTree with groups := sTree.groups.map fun p => (p.1, { p.2 with strands := p.2.strands.map fun t => { t with mask := 1 } }) }

set_option exponentiation.threshold 4096 in
set_option maxRecDepth 20000 in
theorem witness_TreeIssueResults :
    ∀ p ∈ [(Instr.tdesc (ga 4 2 6 0), (0 : Nat)), (.texpand (ga 4 2 6 1), 1), (.tback (ga 4 2 6 2), 2), (.troot (ga 4 2 6 3), 3),
        (.tfree (ga 4 2 6 4), 4), (.tnew (ga 4 2 6 5), 5)], (treeForm p.1).map (·.2) = some p.2 ∧ Issues p.1 sTree1 (ctx sTree1) ∧
      Quiet (ctx sTree1) ∧ NoLog sTree1 (ctx sTree1) ∧ TreeCols sTree1 (ctx sTree1) p.2 (ga 4 2 6 (BitVec.ofNat 6 p.2)) ∧
      ∃ ls e, reached (ctx sTree1) .sync 64 true ((lanesOf (ctx sTree1).st.mask).map fun l => (l, poolVa (ctx sTree1) (ga 4 2 6 (BitVec.ofNat 6 p.2)) l))
        (chargeInstr sTree1 (ctx sTree1) (firstWord p.1)) = some (ls, e) := by
  intro p hp
  simp only [List.mem_cons, List.not_mem_nil, or_false] at hp
  rcases hp with rfl | rfl | rfl | rfl | rfl | rfl <;>
    exact ⟨rfl, issues_at (by decide), quiet_at rfl, rfl, tree_cols (by decide) rfl rfl, some_pair (by decide)⟩

/-- A bounds group whose lanes hold tiles in interval form, with these v registers. -/
def sBnd (v : AMap Word) : State :=
  { sI with groups := sI.groups.map fun p => (p.1, { p.2 with bounds := true, v := v }) }

/-- v0 is 1 in every lane. -/
def flagAll : AMap Word := (List.range 16).map fun l => (128 * l, 1)

set_option exponentiation.threshold 4096 in
set_option maxRecDepth 20000 in
theorem witness_BoundsResults :
    (∀ i ∈ [Instr.bsplit (ga 0 0 0 0), .bpoint (ga 0 0 0 1)], (bndWord i).isSome = true ∧
      (Issues i (sBnd []) (ctx (sBnd [])) ∧ Quiet (ctx (sBnd [])) ∧ flaggedIn (ctx (sBnd [])) 0 = [] ∧ (ctx (sBnd [])).st.mask ≠ 0) ∧
      (Issues i (sBnd [(0, 1)]) (ctx (sBnd [(0, 1)])) ∧ flaggedIn (ctx (sBnd [(0, 1)])) 0 = [0] ∧
        (ctx (sBnd [(0, 1)])).st.mask &&& ~~~(maskOf [0]) ≠ 0 ∧ (ctx (sBnd [(0, 1)])).g.join = []) ∧
      (Issues i (sBnd flagAll) (ctx (sBnd flagAll)) ∧ (flaggedIn (ctx (sBnd flagAll)) 0).length = 16 ∧
        (ctx (sBnd flagAll)).st.mask &&& ~~~(maskOf (flaggedIn (ctx (sBnd flagAll)) 0)) = 0)) ∧
    (getTeam (sBnd []) (ctx (sBnd [])).g.team).isSome = true ∧ Issues (.bopen (ga 4 0 0 2)) s0 (ctx s0) := by
  refine ⟨fun i hi => ?_, by decide, issues_at (by decide)⟩
  simp only [List.mem_cons, List.not_mem_nil, or_false] at hi
  rcases hi with rfl | rfl <;>
    exact ⟨rfl, ⟨issues_at (by decide), quiet_at rfl, by decide, by decide⟩, ⟨issues_at (by decide), by decide, by decide, rfl⟩,
      issues_at (by decide), by decide, by decide⟩

/-- A core with `n` unfinished hints. -/
def sHint (n : Nat) : State := { s0 with cores := [(0, { hints := List.replicate n ⟨0, 0, 0, 0, 4096, 0⟩ })] }

theorem witness_HintAndErrorLogResults :
    (Issues (.mhint (ga 3 2 4 6)) (sHint 16) (ctx (sHint 16)) ∧ 16 ≤ (getCore (sHint 16) 0).hints.length) ∧
    (Issues (.mhint (ga 0 2 4 6)) (sHint 15) (ctx (sHint 15)) ∧ (getCore (sHint 15) 0).hints.length < 16) ∧
    (Issues (.eread (ga 4 2 0 9)) s0 (ctx s0) ∧ ereadOk (readK (ctx s0).g 2) ∧ ereadMay s0 (ctx s0) (readK (ctx s0).g 2)) ∧
    (Issues (.eread (ga 4 2 0 9)) (priv (sK 0x206 0)) (ctx (priv (sK 0x206 0))) ∧ ereadOk (readK (ctx (priv (sK 0x206 0))).g 2) ∧
      ereadMay (priv (sK 0x206 0)) (ctx (priv (sK 0x206 0))) (readK (ctx (priv (sK 0x206 0))).g 2)) ∧
    (Issues (.eread (ga 4 2 0 9)) (sK 7 0) (ctx (sK 7 0)) ∧ ¬ ereadOk (readK (ctx (sK 7 0)).g 2)) ∧
    (Issues (.errinj (ga 0 2 3 8)) (priv (sK 0x10 0)) (ctx (priv (sK 0x10 0))) ∧
      (readK (ctx (priv (sK 0x10 0))).g 2).extractLsb' 5 27 = 0 ∧ injectWord 0 0 0 = some 0) ∧
    (Issues (.errinj (ga 0 2 3 8)) (priv (sK 6 0)) (ctx (priv (sK 6 0))) ∧
      ¬ injectOk (ctx (priv (sK 6 0))) (readK (ctx (priv (sK 6 0))).g 2) (readK (ctx (priv (sK 6 0))).g 3)) := by
  refine ⟨⟨issues_at (by decide), by decide⟩, ⟨issues_at (by decide), by decide⟩,
    ⟨issues_at (by decide), by unfold ereadOk; decide, .inr ⟨by decide, by decide⟩⟩,
    ⟨issues_at (by decide), by unfold ereadOk; decide, .inl (by decide)⟩,
    ⟨issues_at (by decide), by unfold ereadOk; decide⟩, ⟨issues_at (by decide), by decide, by decide⟩,
    ⟨issues_at (by decide), by unfold injectOk; decide⟩⟩

/-! ## Hypotheses of the obligations about events of the module and of its registers -/

/-- The state after reset with this management block. -/
def sMg (m : Mgmt) : State := { State.reset with mg := m }

/-- The state after reset with this block of die 0. -/
def sDie (d : Die) : State := { State.reset with dies := [(0, d)] }

theorem first_fault : ∀ l, ∃ r, FirstFault l r
  | [] => ⟨none, rfl⟩
  | (ok, x) :: l => by
    obtain ⟨r, hr⟩ := first_fault l
    by_cases h : ok
    · exact ⟨r, fun h' => absurd h h', fun _ => hr⟩
    · exact ⟨some x, fun _ => rfl, fun h' => absurd h' h⟩

/-- Step 5 at 50,000 ticks, cluster 0 not yet scrubbed. -/
def sLate : State := { sMg { bootStep := 5 } with time := 50000, reown := [(0, ⟨none, none, 6, 0⟩)] }

theorem witness_StartEvents :
    ({ State.reset with powered := false } : State).powered = false ∧
    (∀ n ∈ [0, 2, 3], (sMg { starts := n }).powered = true ∧ (sMg { starts := n }).mg.mode = 0 ∧ (sMg { starts := n }).mg.bootStep = 0) ∧
    3 ≤ (sMg { starts := 3 }).mg.starts ∧ (sMg { starts := 2 }).mg.starts < 3 ∧
    (∃ f, FirstFault (startTests true true) f) ∧ (∃ f, FirstFault (upTests true true) f) ∧
    FirstFault [(False, 1)] (some 1) ∧ FirstFault [(True, 1)] none ∧
    ((sMg { bootStep := 3 }).powered = true ∧ (sMg { bootStep := 3 }).mg.bootStep = 3) ∧
    ((sMg { bootStep := 6 }).mg.mode = 0 ∧ (sMg { bootStep := 6 }).mg.bootStep = 6 ∧ (sMg { bootStep := 6 }).powered = true) ∧
    ({ sMg { bootStep := 6 } with time := 60000000000 } : State).time.toNat ≤
      ({ sMg { bootStep := 6 } with time := 60000000000 } : State).mg.startTime + 60000000000 ∧
    ({ sMg { bootStep := 6 } with time := 60000000001 } : State).mg.startTime + 60000000000 <
      ({ sMg { bootStep := 6 } with time := 60000000001 } : State).time.toNat ∧
    (sLate.powered = true ∧ sLate.mg.bootStep = 5 ∧ ∃ e ∈ sLate.reown, e.2.since + 50000 ≤ sLate.time.toNat) :=
  ⟨rfl, by decide, by decide, by decide, first_fault _, first_fault _, ⟨fun _ => rfl, fun h => h.elim⟩,
    ⟨fun h => absurd trivial h, fun _ => rfl⟩, by decide, by decide, by decide, by decide, rfl, rfl, _, List.mem_singleton.2 rfl, by decide⟩

set_option maxRecDepth 20000 in
theorem witness_PowerAndHeatEvents :
    (State.reset.powered = true ∧ NoPass State.reset ∧ (State.reset.mg.htNext.map Prod.fst).Nodup) ∧ 115 ≤ (115#8).toNat ∧ (114#8).toNat < 115 ∧
    ((3#4).toNat ≤ 3 ∧ (sMg { state := 1 }).mg.busy = false ∧ (sMg { state := 1 }).mg.state ≠ 4 ∧
      (sMg { state := 1 }).mg.state ≠ 7 ∧ (sMg { state := 1 }).mg.state ≠ (3#4).toNat) ∧
    ((0#4).toNat ≤ 3 ∧ (∀ n ∈ [0, 2, 3], (sMg { state := 4, bootCount := n }).mg.busy = false ∧ (sMg { state := 4, bootCount := n }).mg.state = 4) ∧
      (sMg { state := 4, bootCount := 2 }).mg.bootCount < 3 ∧ 3 ≤ (sMg { state := 4, bootCount := 3 }).mg.bootCount) ∧
    ((sMg { state := 7, tmax := 95 }).mg.busy = false ∧ (sMg { state := 7, tmax := 95 }).mg.state = 7 ∧
      (sMg { state := 7, tmax := 95 }).mg.tmax.toNat ≤ (sMg { state := 7, tmax := 95 }).mg.twarn.toNat) ∧
    ((sMg { state := 7, tmax := 96 }).mg.busy = false ∧ (sMg { state := 7, tmax := 96 }).mg.twarn.toNat < (sMg { state := 7, tmax := 96 }).mg.tmax.toNat) ∧
    (s0.mg.busy = false ∧ s0.mg.state ≠ 4 ∧ s0.mg.state ≠ 7 ∧ workHeld s0 = true) ∧
    (State.reset.mg.busy = false ∧ State.reset.mg.state ≠ 4 ∧ State.reset.mg.state ≠ 7 ∧ workHeld State.reset = false) ∧
    5 ≤ (5#4).toNat ∧
    (quiesced { s0 with mg := { busy := true, target := 1 } } = false ∧ ({ s0 with mg := { busy := true, target := 1 } } : State).mg.busy = true) ∧
    (∀ n ∈ [1, 4], (sMg { busy := true, target := n }).mg.busy = true ∧ quiesced (sMg { busy := true, target := n }) = true ∧
      (sMg { busy := true, target := n }).mg.target = n) := by
  unfold NoPass; decide

/-- The translation of virtual page 0x10000 of context 0 in a unit's cache. -/
def sPort (unit : Nat) : State := { State.reset with tlbs := [(unit, [⟨0, 0x10000, 12, BitVec.ofNat 64 (codeLeaf State.reset)⟩])] }

set_option maxRecDepth 20000 in
theorem witness_HostEvents :
    State.reset.powered = true ∧ (8 ≤ 8 ∧ 4 ≤ 4 ∧ 4 ≤ 4) ∧ (1 ≤ 512 ∧ 512 ≤ 512) ∧
    (State.reset.errs = [] ∧ Machine.waiting (sPort 640) (.port 0) = false ∧ Machine.waiting (sPort 641) (.port 1) = false ∧
      Machine.waiting { State.reset with rep := { waitq := [(0, [⟨0, 7, .port 0⟩])] } } (.port 0) = true) ∧
    (∀ p ∈ [(false, 640), (true, 641)],
      (∃ pa lg cls e, translate (sPort p.2) (if p.1 = true then 641 else 640) 0 (0#8).toNat .store 8 (0x10000#64).toNat true = (.ok pa lg cls, e)) ∧
      ∃ pa lg cls e, translate (sPort p.2) (if p.1 = true then 641 else 640) 0 (0#8).toNat (.load 8) 8 (0x10000#64).toNat false = (.ok pa lg cls, e)) ∧
    0x100000000000 ≤ (0x100000000000#52).toNat ∧ (sMg { spdmVer := some 14 }).mg.spdmVer = some 14 ∧
    (sMg { spdmVer := some 13 }).mg.spdmVer = some 13 ∧ State.reset.mg.spdmVer = none ∧ State.reset.mg.spdmVer ≠ some 14 := by
  refine ⟨rfl, by decide, by decide, ⟨rfl, rfl, rfl, rfl⟩, fun p hp => ?_, by decide, rfl, rfl, rfl, by decide⟩
  simp only [List.mem_cons, List.not_mem_nil, or_false] at hp
  rcases hp with rfl | rfl <;> exact ⟨tr_ok (by decide), tr_ok (by decide)⟩

/-- Context 0's fault rings at 0x40000 and VF 0's at 0x44000, each with two places at 0x50000 and `t` of them used; and a record in queue `k`. -/
def sRing (k t : Nat) : State :=
  words (words { State.reset with
    dies := [(0, { ctxs := [(0, { rring := 0x40000, tring := 0x40000 })] })]
    rep := { q := [(k, [⟨0, 7, .device⟩])], vfrtab := 0x44000 } } 0x40000 [0x50000, 0, 2, 0, 0, 0, t, 0]) 0x44000 [0x50000, 0, 2, 0, 0, 0, t, 0]

/-- A record whose context has no ring. -/
def sNoRing (k : Nat) : State := { State.reset with rep := { q := [(k, [⟨0, 7, .device⟩])] } }

set_option maxRecDepth 20000 in
theorem witness_ReportingEvents :
    (∀ k < 3, (portChoice (sNoRing k)).map Prod.fst = some k ∧ portHead (sNoRing k) k = some ⟨0, 7, .device⟩ ∧ (sNoRing k).errs = [] ∧
      (∀ n < 2, (portHead (sNoRing k) n).all (fun y => ringRoom (sNoRing k) n y.key != .full) = true) ∧
      headerOf (sNoRing k) k 0 = 0 ∧ mget [] (sNoRing k).rep.waitq k = []) ∧
    (∀ k < 3, (portChoice (sRing k 1)).map Prod.fst = some k ∧ portHead (sRing k 1) k = some ⟨0, 7, .device⟩ ∧
      (∀ n < 2, (portHead (sRing k 1) n).all (fun y => ringRoom (sRing k 1) n y.key != .full) = true) ∧
      ringRoom (sRing k 1) k 0 = .free ∧ mget [] (sRing k 1).rep.waitq k = []) ∧
    (∀ y ∈ (mget [] (sRing 0 1).rep.waitq 0).head?, ∀ w i, y.who ≠ .slot w i) ∧
    ((portChoice (sRing 2 2)).map Prod.fst = some 2 ∧ portHead (sRing 2 2) 2 = some ⟨0, 7, .device⟩ ∧ ringRoom (sRing 2 2) 2 0 = .full) ∧
    (mget [] (sPort 0).tlbs 0).any (tlbCovers 0x10000) = true ∧ (getBank State.reset 0).tasks[0]? = none ∧
    ringRoom (sRing 0 2) 0 0 = .full ∧ ringRoom (sRing 0 1) 0 0 ≠ .full ∧ 6 ≤ 6 ∧
    (getErr { State.reset with errs := [(0, { corr := BitVec.allOnes 32 })] } 0 0).corr = BitVec.allOnes 32 := by
  refine ⟨by decide, by decide, fun y hy => ?_, by decide, by decide, by decide, by decide, by decide, by decide, by decide⟩
  have h : mget [] (sRing 0 1).rep.waitq 0 = [] := rfl
  rw [h] at hy
  simp at hy

/-- A store of the strand at work that has been translated in epoch 0 and not been released. -/
def oldOne : SStore := { id := 0, va := 0x10100, size := 4, pa := some 0x20100, val := 1, young := true, epoch := 0, lg := 12 }

/-- An invalidation of die 0 in progress, for context 0's page at 0x10000. -/
def invs (s : State) : State := { s with invs := [⟨0, 0, 0, 0x10000, 1⟩], dies := [(0, { txDone := false })] }

/-- The strand at work waits for the page of its next instruction; a counter addition of it is logged. -/
def sFetch : State :=
  { withS (fun x => { x with status := .parked (.fetch 0x10000) }) with
    cores := [(0, { olog := [{ idx := 3, grp := 0, sid := 0, code := 0x10, page := 0x12, op := .cadd 0x12000 1 0 }] })] }

set_option maxRecDepth 20000 in
theorem witness_TranslationEvents :
    (∀ v ∈ [0x10000, 0x10100, 0x10200], (BitVec.ofNat 32 v).getLsbD 16 = true ∧ (BitVec.ofNat 32 v).extractLsb' 8 2 ≠ 3) ∧ (getDie s0 0).txDone = true ∧
    ((0x0FFFF#32).getLsbD 16 = false ∧ (getDie (invs s0) 0).txDone = false ∧ (0x10300#32).extractLsb' 8 2 = 3) ∧
    ((invs s0).invs.find? (fun x => x.die == 0) = some ⟨0, 0, 0, 0x10000, 1⟩ ∧ invBusy (invs s0) ⟨0, 0, 0, 0x10000, 1⟩ = false) ∧
    ((getGroup (invs (withS fun x => { x with slog := [oldOne] })) 0 0).any
      (fun g => g.strands.any fun x => x.slog.any fun y => y.pa.isSome && decide (y.epoch ≤ 1) &&
        invNames 0 0 0x10000 g.ctx.toNat y.va y.lg) = true) ∧
    (∀ v ∈ [0x200000000010000, 0x200000000012000, 0x200000000000100], (BitVec.ofNat 64 v).getLsbD 57 = true) ∧
    ((getDie sFetch 0).frDone = true ∧ sFetch.mg.dma = [] ∧
      (getGroup sFetch 0 0).any (fun g => g.strands.any fun x => x.status == .parked (.fetch 0x10000)) = true) ∧
    (Names 0x200000000010000#64 0 0x10000#64 ∧ ¬ Names 0x200000000012000#64 0 0x10000#64 ∧ Names 0x200000000012000#64 0 0x12000#64 ∧ Names 0x200000000000100#64 0 0x10000#64) ∧
    ((getCore sFetch 0).olog[0]?.any (fun e => retryable e.code && decide (0x12 ∈ entryPages e)) = true ∧ (getGroup sFetch 0 0).isSome = true) := by
  refine ⟨by decide, rfl, by decide, ⟨by decide, by decide⟩, by decide, by decide, ⟨by decide, by decide, by decide⟩, ⟨?_, ?_, ?_, ?_⟩,
    by decide, by decide⟩ <;> unfold Names <;> decide

/-- The registers of die 0's Carillon with an operation in progress. -/
def sCmd (op addr : Nat) : State := sDie { ccDone := false, ccGo := BitVec.ofNat 2 op, ccaddr := BitVec.ofNat 64 addr }

set_option maxRecDepth 20000 in
theorem witness_CarillonRegisterEvents :
    (∀ op < 4, ∀ a ∈ [0x80000000000, 0x80000000008, 0x80000000001, 0x20000], Commanded (sCmd op a) 0 op ∧ (sCmd op a).errs = []) ∧
    (∀ op < 3, Homed (sCmd op 0x80000000000) 0 ∧ ¬ Homed (sCmd op 0x20000) 0 ∧ Homed (sCmd op 0x80000000001) 0 ∧
      (getDie (sCmd op 0x80000000000) 0).ccaddr.toNat % 4096 = 0 ∧ (getDie (sCmd op 0x80000000001) 0).ccaddr.toNat % 8 ≠ 0 ∧
      (getDie (sCmd op 0x80000000001) 0).ccaddr.toNat % 4096 ≠ 0 ∧ (getUnit (sCmd op 0x80000000000) 0x80000000000).kind = .free) ∧
    (getUnit { sCmd 0 0x80000000000 with units := [(0x10000000000, { kind := .counter })] } 0x80000000000).kind = .counter ∧
    (getUnit { sCmd 0 0x80000000000 with units := [(0x10000000000, { kind := .tree })] } 0x80000000000).kind = .tree ∧
    ((getDie (sDie { carUsed := true }) 0).carUsed = true ∧ (getDie State.reset 0).carUsed = false) := by
  unfold Commanded Homed; decide

set_option maxRecDepth 20000 in
theorem witness_CounterEvents :
    selectorAt State.reset (0x20000#52).toNat ≠ some (1#3).toNat ∧
    ((place (0x20000#52).toNat = .tierH 0 0x20000) ∧ selectorAt State.reset (0x20000#52).toNat = some (0#3).toNat) ∧
    ((∃ o, place (0x40000000000#52).toNat = .tierL 0 o) ∧ selectorAt State.reset (0x40000000000#52).toNat = some (0#3).toNat) ∧
    (Filtered {} none = false ∧ Filtered { filtEn := true, filtCtx := 3 } none = true ∧ Filtered { filtEn := true, filtCtx := 3 } (some 3) = false ∧
      Filtered { filtEn := true, filtInv := true, filtCtx := 255 } none = true) ∧
    (∀ c ∈ [({ clr := true, cnt := [(0, ⟨5, false⟩)] } : Chan), { wrote := [(0, 3)] }, { freeze := true, ev := [(0, 1)] }, { ev := [(0, 1)] }],
      (sDie { chans := [(2, c)] }).powered = true ∧ mfind (getDie (sDie { chans := [(2, c)] }) 0).chans 2 = some c ∧
        NoPass (sDie { chans := [(2, c)] })) ∧
    (place (0xE0000000000#52).toNat = .regs 0 0 ∧ diesUp State.reset = true ∧ diesUp (sMg { mode := 2 }) = false) ∧
    place (0xC0000000000#52).toNat = .ctr 0 0 ∧ place (0xF0000001000#52).toNat = .mgmt 0x1000 ∧
    ((∀ d o, place (0#52).toNat ≠ .regs d o ∧ place (0#52).toNat ≠ .ctr d o) ∧ ∀ o, place (0#52).toNat ≠ .mgmt o) := by
  have h0 : place (0#52).toNat = .tierH 0 0 := by decide
  refine ⟨by decide, by decide, ⟨⟨_, rfl⟩, by decide⟩, by decide, by unfold NoPass; decide, by decide, by decide, by decide, ?_, ?_⟩ <;>
    · rw [h0]; simp

/-! ## Hypotheses of the obligations about ownership, teams, waits and runs -/

/-- Front end 0 holds cluster 0. -/
def sOwn (fe : FrontEnd) : State := { sDie { cown := [(0, { none_ := false })] } with fes := [(0, fe)] }

/-- A change of cluster 0 to front end 0, at a step since time 0. -/
def sChange (s : State) (old : Option Nat) (step : Nat) : State := { s with reown := [(0, ⟨old, some 0, step, 0⟩)] }

/-- A walker with a command of partition 0. -/
def sMoves : State := { State.reset with walkers := [(0, { slots := [(0, slotWith false .move 0)] })] }

/-- All launch slots of front end 0 are taken. -/
def allSlots : FrontEnd := { slots := (List.range 2048).map fun i => (i, launchWith []) }

set_option maxRecDepth 20000 in
theorem taken (i : Nat) (h : i < 2048) : getLaunch (sOwn allSlots) 0 i ≠ none := by
  have : getLaunch (sOwn allSlots) 0 i = mfind ((List.range 2048).map fun i => (i, launchWith [])) i := rfl
  rw [this]
  exact all_taken _ _ _ (List.mem_range.2 h)

theorem covered (f : Nat) : Covers State.reset f 0 := by
  have : getFe State.reset f = {} := rfl
  unfold Covers; rw [this]; decide

theorem uncovered (f g : Nat) (h : 0 < g) : ¬ Covers State.reset f g := by
  have : getFe State.reset f = {} := rfl
  unfold Covers; rw [this]
  intro hc
  have := hc.2
  simp only [show ((({} : FrontEnd).fecfg.extractLsb' 5 5).toNat) = 0 by decide] at this
  omega

set_option maxRecDepth 20000 in
theorem witness_OwnershipEvents :
    (diesUp { State.reset with powered := false } = false ∧ diesUp State.reset = true ∧ diesUp (sOwn {}) = true) ∧
    64 ≤ (getFe (sOwn { queue := List.replicate 64 0 }) 0).queue.length ∧ feClusters State.reset 0 = [] ∧
    (∀ i < 2048, getLaunch (sOwn allSlots) 0 i ≠ none) ∧
    ((getFe (sOwn { slots := [(0, launchWith [])] }) 0).queue.length < 64 ∧ feClusters (sOwn { slots := [(0, launchWith [])] }) 0 ≠ [] ∧
      getLaunch (sOwn { slots := [(0, launchWith [])] }) 0 1 = none ∧ ∀ j < 1, getLaunch (sOwn { slots := [(0, launchWith [])] }) 0 j ≠ none) ∧
    (mfind State.reset.reown 0 = none ∧ cownOwner State.reset 0 ≠ some 0 ∧ cownOwner (sOwn {}) 0 = some 0 ∧ cownOwner State.reset 1 = none) ∧
    (mfind (sChange sMoves (some 0) 2).reown 0 = some ⟨some 0, some 0, 2, 0⟩ ∧ ownerBusy (sChange sMoves (some 0) 2) 0 0 = true ∧
      (sChange sMoves (some 0) 2).time.toNat < 0 + 100000) ∧
    (ownerBusy (sChange State.reset (some 0) 2) 0 0 = false ∧ clusterTeams (sChange State.reset (some 0) 2) 0 = [] ∧
      (getBank (sChange State.reset (some 0) 2) 0).tasks = [] ∧ (getBank (sChange State.reset (some 0) 2) 0).ringMeta = [] ∧
      (getBank (sChange State.reset (some 0) 2) 0).ringLen = 0) ∧
    (mfind (sChange s0 none 3).reown 0 = some ⟨none, some 0, 3, 0⟩ ∧ clusterTeams (sChange s0 none 3) 0 ≠ []) ∧
    (mfind (sChange State.reset none 3).reown 0 = some ⟨none, some 0, 3, 0⟩ ∧ clusterTeams (sChange State.reset none 3) 0 = []) ∧
    ((getFe (sChange State.reset none 3) 0).held = [] ∧ (getFe (sChange State.reset none 3) 0).staging = []) ∧
    (mfind (sChange State.reset none 6).reown 0 = some ⟨none, some 0, 6, 0⟩ ∧ (sChange State.reset none 6).time.toNat ≤ 0 + 50000) ∧
    Owner (sChange State.reset none 6) 0 (some 0) ∧ Owner State.reset 1 none := by
  refine ⟨by decide, by decide, by decide, taken, by decide, by decide, by decide, by decide, by decide, by decide, by decide, by decide,
    ⟨by decide, covered 0, fun e he => absurd he (Nat.not_lt_zero e)⟩, fun f _ => uncovered f 1 (by decide)⟩

/-- A launch of context 0, and a record of it in a bank. -/
def sOurs (n : Nat) : State :=
  { State.reset with
    fes := [(0, { slots := [(0, { launchWith [] with resident := n })] })], banks := [(0, { tasks := [{ id := 0, rcd := 0, q := 0, unit := 0 }] })] }

set_option exponentiation.threshold 4096 in
set_option maxRecDepth 20000 in
theorem witness_ContextEvents :
    ((ctxBlock (sDie { ctxs := [(0, { done := false })] }) 0 (0#8).toNat).done = false) ∧
    ((ctxBlock State.reset 0 (0#8).toNat).done = true ∧ ∀ e ∈ State.reset.teams, e.2.ctx ≠ 0) ∧
    ((getDie State.reset 0).tcDone = true ∧ (getDie (sDie { tcDone := false }) 0).tcDone = false) ∧
    getGroup State.reset (cmdCore 0 0 0) (0 % 1024) = none ∧
    (∀ n ∈ [0, 1], (ctxBlock (sOurs n) 0 0).done = true ∧ (sOurs n).teams = [] ∧ ((getFe (sOurs n) 0).slots.map Prod.fst).Nodup ∧
      (getLaunch (sOurs n) 0 0).any (fun l => (if l.rcd = 0 then l.asid.toNat else lctx l) == 0 && l.resident == n) = true) ∧
    ∃ x ∈ (getBank (sOurs 0) 0).tasks, OurTask (sOurs 0) 0 x :=
  ⟨by decide, by decide, by decide, by decide, by decide, _, List.mem_singleton.2 rfl, _, rfl, rfl⟩

/-- The team of `s0`, changed, and `s0` with it. -/
def team0 (u : Team → Team) : Team := u (codeTeam 0)
def withT (u : Team → Team) : State := { s0 with teams := [(0, team0 u)] }

/-- `s0` with a strand that is not at work. -/
def sIdle (st : Status) (u : Team → Team) : State :=
  { withT u with groups := s0.groups.map fun p => (p.1, { p.2 with strands := p.2.strands.map fun t => { t with status := st } }) }

/-- `s0`'s group has ended. -/
def sEnded : State := withG fun g => { g with ended := true, strands := [] }

set_option maxRecDepth 20000 in
theorem placed_idle (st : Status) (u : Team → Team) : Placed (sIdle st u) 0 := by
  have h : teamGroups (sIdle st u) 0 = [{ codeGroup 0 0 with strands := (codeGroup 0 0).strands.map fun t => { t with status := st } }] := rfl
  refine ⟨?_, ?_, ?_⟩ <;> rw [h]
  · intro g hg; rw [List.mem_singleton] at hg; subst hg; rfl
  · exact List.nodup_cons.2 ⟨List.not_mem_nil, List.nodup_nil⟩
  · intro g hg; rw [List.mem_singleton] at hg; subst hg
    exact List.nodup_cons.2 ⟨List.not_mem_nil, List.nodup_nil⟩

theorem commands_idle (st : Status) (u : Team → Team) (hu : (team0 u).uid = 0) : Commands (sIdle st u) 0 0 0 0 (team0 u) := by
  have h : getTeam (sIdle st u) 0 = some (team0 u) := rfl
  have p : Placed (sIdle st u) 0 := placed_idle st u
  refine ⟨by decide, rfl, ⟨_, rfl, hu.symm⟩, ?_, ?_⟩ <;> rw [hu]
  · exact h
  · exact p

theorem plain_idle (st : Status) (hs : ∀ cause log, st = .stopped cause log → log = none) :
    ∀ h ∈ teamGroups (sIdle st id) 0, ∀ x ∈ h.strands, Plain x := by
  have h : teamGroups (sIdle st id) 0 = [{ codeGroup 0 0 with strands := (codeGroup 0 0).strands.map fun t => { t with status := st } }] := rfl
  rw [h]
  intro g hg x hx
  rw [List.mem_singleton] at hg; subst hg
  have hx : x ∈ (codeGroup 0 0).strands.map fun t => { t with status := st } := hx
  obtain ⟨y, hy, rfl⟩ := List.mem_map.1 hx
  exact ⟨(List.mem_singleton.1 hy) ▸ rfl, hs⟩

/-- `s0` with its team moving, a save area of one slot at 1 MiB, and cluster 0 in its partition. -/
def tmSaves : Team := team0 fun t => { t with moving := true }
def sSaves : State :=
  { withT (fun t => { t with moving := true }) with
    dies := [(0, { cown := [(0, { none_ := false })], ctxs := [(0, { savebase := 0x100000, savecfg := 1 })] })] }

theorem placed_saves : Placed sSaves 0 := by
  have h : teamGroups sSaves 0 = [codeGroup 0 0] := rfl
  refine ⟨?_, ?_, ?_⟩ <;> rw [h]
  · intro g hg; rw [List.mem_singleton] at hg; subst hg; rfl
  · exact List.nodup_cons.2 ⟨List.not_mem_nil, List.nodup_nil⟩
  · intro g hg; rw [List.mem_singleton] at hg; subst hg
    exact List.nodup_cons.2 ⟨List.not_mem_nil, List.nodup_nil⟩

set_option exponentiation.threshold 4096 in
set_option maxRecDepth 20000 in
theorem saves : (tmSaves.moving = true ∧ getTeam sSaves 0 = some tmSaves ∧ tmSaves.uid = 0 ∧ getLaunch sSaves tmSaves.fe tmSaves.lslot = none) ∧
    Drained sSaves tmSaves ∧ saveSlot sSaves tmSaves = some 0 ∧ saveOk sSaves tmSaves 0 = true ∧ sSaves.errs = [] ∧
    (getFe sSaves tmSaves.fe).held = [] ∧ (getFe sSaves tmSaves.fe).staging = [] ∧ tmSaves.yieldTo = none ∧
    chooseCluster sSaves tmSaves.fe = some 0 ∧ (getBank sSaves 0).ringLen = 0 ∧ (getBank sSaves 0).tasks.length < 8192 := by
  refine ⟨⟨by decide, by decide, by decide, by decide⟩, ⟨by decide, by decide, by decide⟩, by decide, by decide, by decide, by decide, by decide, by decide,
    by decide, by decide, by decide⟩

set_option exponentiation.threshold 4096 in
set_option maxRecDepth 20000 in
theorem witness_TeamEvents :
    (∀ n ∈ [17, 18, 19], Commands (sIdle (.stopped n none) id) 0 0 0 0 (team0 id) ∧
      ∀ h ∈ teamGroups (sIdle (.stopped n none) id) 0, ∀ x ∈ h.strands, Plain x) ∧
    ((team0 id).moving = false ∧ (team0 id).ending = false ∧ getLaunch (sIdle .ready id) (team0 id).fe (team0 id).lslot = none ∧
      ∀ h ∈ teamGroups (sIdle .ready id) 0, h.ops = []) ∧
    (getTeam s0 0 = some (team0 id) ∧ (team0 id).uid = 0 ∧ Placed (sIdle .ready id) 0 ∧ (team0 id).budgetStop = false) ∧
    (∀ st ∈ [Status.ready, .stopped 18 none], ∀ u, u = (fun t => { t with budgetStop := true }) →
      getTeam (sIdle st u) 0 = some (team0 u) ∧ (team0 u).uid = 0 ∧ (team0 u).budgetStop = true ∧ Placed (sIdle st u) 0 ∧
      teamGroups (sIdle st u) 0 ≠ [] ∧ ∀ h ∈ teamGroups (sIdle st u) 0, ∀ x ∈ h.strands, x.status = st) ∧
    (∀ u, u = (fun t => { t with moving := true }) → getTeam (sIdle .ready u) 0 = some (team0 u) ∧ (team0 u).uid = 0 ∧
      (team0 u).moving = true ∧ getLaunch (sIdle .ready u) (team0 u).fe (team0 u).lslot = none ∧
      Drained (sIdle .ready u) (team0 u) ∧ saveSlot (sIdle .ready u) (team0 u) = none) ∧
    (∃ h ∈ teamGroups s0 0, h.ended = false) ∧
    (getTeam sEnded 0 = some (team0 id) ∧ (∀ h ∈ teamGroups sEnded 0, h.ended = true ∧ h.ops = [] ∧ h.left = [] ∧
        getGroup sEnded h.core h.slot = some h ∧ (h.strands.map fun x => x.sid).Nodup) ∧ (teamGroups sEnded 0).Nodup ∧
      Drained sEnded (team0 id) ∧ (team0 id).ending = false ∧ tilesPending sEnded (team0 id).fe (team0 id).lslot = false) := by
  refine ⟨fun n hn => ⟨commands_idle _ _ rfl, plain_idle _ fun cause log hs => by cases hs; rfl⟩, by decide,
    ⟨rfl, rfl, placed_idle _ _, rfl⟩, fun st hs u hu => ?_, fun u hu => ?_, by decide, by decide, by decide, by decide, ⟨by decide, by decide, by decide⟩, by decide, by decide⟩
  · subst hu
    refine ⟨rfl, rfl, rfl, placed_idle _ _, ?_, ?_⟩
    · simp only [List.mem_cons, List.not_mem_nil, or_false] at hs
      rcases hs with rfl | rfl <;> decide
    · simp only [List.mem_cons, List.not_mem_nil, or_false] at hs
      rcases hs with rfl | rfl <;> decide
  · subst hu
    exact ⟨rfl, rfl, rfl, by decide, ⟨by decide, by decide, by decide⟩, by decide⟩

/-- The strand of `s0` with a status. -/
def withSt (st : Status) : State := withS fun x => { x with status := st }

theorem at_of {s : State} {core slot sid : Nat} {p : Ctx → Bool} (h : (ctxAt s core slot sid).any p = true) :
    ∃ c, ctxAt s core slot sid = some c ∧ p c = true := by
  cases hc : ctxAt s core slot sid with
  | none => rw [hc] at h; exact absurd h Bool.false_ne_true
  | some c => rw [hc] at h; exact ⟨c, rfl, h⟩

theorem status_at (st : Status) : ∃ c, ctxAt (withSt st) 0 0 0 = some c ∧ c.st.status = st := ⟨_, rfl, rfl⟩
/-- A barrier arrival that is still lacking, and one that is there. -/
def sArr (here : Bool) (kind : Nat) : State :=
  withS fun x => { x with status := .parked (.bar kind 1 0 0), bars := if here then [⟨1, 0, 0⟩] else [] }

/-- The strand waits for its handler's page in a context with a trap table. -/
def sDeliver (go : Bool) : State :=
  { sTrap with groups := sTrap.groups.map fun p =>
      (p.1, { p.2 with strands := p.2.strands.map fun x => { x with status := .parked (.delivery 13 5 0 0x10000 0x10000 go) } }) }

theorem handler_in {s : State} {c : Ctx} {cause : Nat} (h : handlerNow s c cause = true) : ∃ e h, HandlerAt s c cause e h := handler_at h

/-- A wait of the strand of `s0` that has a record to post. -/
def sPosts : State := { s0 with rep := { waitq := [(0, [⟨0, 0, .strand 0 0 0⟩])] } }

/-- An operation that the strand of `s0` has sent. -/
def sentBy (op : MemOp) : Sent := { sid := 0, tag := (0, 0), sels := [], op }

/-- `s0` with its strand parked, and an operation sent. -/
def sSent (st : Status) (op : MemOp) : State :=
  withG fun g => { g with ops := [sentBy op], strands := g.strands.map fun x => { x with status := st } }

/-- The strand waits for what it has issued, in a context with a trap table. -/
def sSettle (l : List Sent) : State :=
  { sTrap with groups := sTrap.groups.map fun p =>
      (p.1, { p.2 with ops := l, strands := p.2.strands.map fun x => { x with status := .parked (.settle 12 5) } }) }

set_option maxRecDepth 20000 in
theorem witness_WaitEvents :
    waiting sPosts (.strand 0 0 0) = true ∧
    (∀ st, waiting (withSt st) (.strand 0 0 0) = false) ∧
    (∃ c, ctxAt (withSt (.parked (.sleep 5))) 0 0 0 = some c ∧ c.st.status = .parked (.sleep 5)) ∧
    (∀ met : Bool, ∃ c, ctxAt (withSt (.parked (.cwait 0 (some 0) 1 (some 0) 3 met))) 0 0 0 = some c ∧ c.g.uw = [] ∧
      c.st.status = .parked (.cwait 0 (some 0) 1 (some 0) 3 met)) ∧
    (∀ after : Bool, ∃ c, ctxAt (withSt (.parked (.acquire 3 after))) 0 0 0 = some c ∧ c.st.status = .parked (.acquire 3 after) ∧
      canAcquire (withSt (.parked (.acquire 3 after))) c.g c.st after = true) ∧
    (∃ s, s = sSent (.parked (.acquire 3 false)) (.release 3 0) ∧ waiting s (.strand 0 0 0) = false ∧ ∃ c, ctxAt s 0 0 0 = some c ∧
      c.st.status = .parked (.acquire 3 false) ∧ canAcquire s c.g c.st false = true) ∧
    (∃ s, s = sSent (.parked (.acquire 3 true)) (.release 3 0) ∧ waiting s (.strand 0 0 0) = false ∧ ∃ c, ctxAt s 0 0 0 = some c ∧
      c.st.status = .parked (.acquire 3 true) ∧ ∃ x ∈ c.g.ops, x.sid = 0) ∧
    (∃ s, s = sSent (.parked (.acquire 3 false)) (.cadd 0 0 1 0) ∧ waiting s (.strand 0 0 0) = false ∧ ∃ c, ctxAt s 0 0 0 = some c ∧
      c.st.status = .parked (.acquire 3 false) ∧ ∃ x ∈ c.g.ops, x.sid = 0 ∧ x.op.isRelease = false) ∧
    (∃ c, waiting (sDeliver false) (.strand 0 0 0) = false ∧ ctxAt (sDeliver false) 0 0 0 = some c ∧
      c.st.status = .parked (.delivery 13 5 0 0x10000 0x10000 false)) ∧
    (∃ c, waiting (sDeliver true) (.strand 0 0 0) = false ∧ ctxAt (sDeliver true) 0 0 0 = some c ∧
      c.st.status = .parked (.delivery 13 5 0 0x10000 0x10000 true) ∧ c.st.hnd = false ∧ ∃ e h, HandlerAt (sDeliver true) c 13 e h) ∧
    (∃ c, waiting (sSettle [sentBy (.cadd 0 0 1 0)]) (.strand 0 0 0) = false ∧ ctxAt (sSettle [sentBy (.cadd 0 0 1 0)]) 0 0 0 = some c ∧
      c.st.status = .parked (.settle 12 5) ∧ settled (sSettle [sentBy (.cadd 0 0 1 0)]) c.g c.st = false) ∧
    (∃ c, waiting (sSettle []) (.strand 0 0 0) = false ∧ ctxAt (sSettle []) 0 0 0 = some c ∧
      c.st.status = .parked (.settle 12 5) ∧ settled (sSettle []) c.g c.st = true ∧ c.st.hnd = false ∧ ∃ e h, HandlerAt (sSettle []) c 12 e h) ∧
    (∃ g, getGroup (sArr false 0) 0 0 = some g ∧ g.core = 0 ∧ g.slot = 0 ∧ g.ended = false ∧ awayTeam (sArr false 0) g 1 = false ∧
      ∃ h ∈ participants (sArr false 0) g 1, h.ended = false ∧ ∃ x ∈ h.strands, barPending x.bars 1 0 ≠ some (barGen (sArr false 0) g 1 0)) ∧
    (∀ k ∈ [0, 2], ∃ g, getGroup (sArr true k) 0 0 = some g ∧ g.core = 0 ∧ g.slot = 0 ∧ g.ended = false ∧
      awayTeam (sArr true k) g 1 = false ∧ (participants (sArr true k) g 1).length = 1 ∧
      ∀ h ∈ participants (sArr true k) g 1, getGroup (sArr true k) h.core h.slot = some h ∧ (h.strands.map fun x => x.sid).Nodup ∧
        groupArrived h 1 0 (barGen (sArr true k) g 1 0) = true ∧ ∀ x ∈ h.strands, x.status = .parked (.bar k 1 0 0)) ∧
    (∀ s, s = (withS fun x => { x with status := .parked (.bar 0 2 0 0), bars := [⟨2, 0, 0⟩] }) →
      ∃ g, getGroup s 0 0 = some g ∧ awayTeam s g 2 = false ∧ (participants s g 2).length = 1 ∧ ∀ h ∈ participants s g 2,
        getGroup s h.core h.slot = some h ∧ groupArrived h 2 0 (barGen s g 2 0) = true) := by
  refine ⟨by decide, fun st => rfl, ⟨_, rfl, rfl⟩, fun met => ⟨_, rfl, rfl, rfl⟩, fun after => ⟨_, rfl, rfl, by cases after <;> decide⟩,
    ⟨_, rfl, by decide, _, rfl, rfl, by decide⟩, ⟨_, rfl, by decide, _, rfl, rfl, by decide⟩, ⟨_, rfl, by decide, _, rfl, rfl, by decide⟩,
    ⟨_, by decide, rfl, rfl⟩, ⟨_, by decide, rfl, rfl, rfl, handler_at (by decide)⟩, ⟨_, by decide, rfl, rfl, by decide⟩,
    ⟨_, by decide, rfl, rfl, by decide, rfl, handler_at (by decide)⟩, ⟨_, rfl, rfl, rfl, rfl, by decide, by decide⟩, fun k hk => ?_, fun s hs => ?_⟩
  · simp only [List.mem_cons, List.not_mem_nil, or_false] at hk
    rcases hk with rfl | rfl <;> exact ⟨_, rfl, rfl, rfl, rfl, by decide, by decide, by decide⟩
  · subst hs; exact ⟨_, rfl, by decide, by decide, by decide⟩

/-- `s` with page tables that map the first 32 GiB of context 0 on themselves: its entry at 0, its root at 0x1000, a leaf at 0x30000, and the
sync pages at 0x800000000. -/
def mapped (s : State) : State := words (words (words s 0 [1, 0, 0x1000, 0]) 0x1000 [0x30001, 0]) 0x30000 [15, 0, 0x47, 0x800]

/-- `s0` with a result of its strand on its way. -/
def sPend (p : Pend) : State := withG fun g => { g with pend := [p] }

/-- A ready strand with a slot. -/
def sReady : State := withS fun x => { x with status := .ready }

/-- The fetch of the instruction at the PC of the strand at work in `s`. -/
def fetched (s : State) : Option Nat :=
  match fetchWord s (ctx s) (ctx s).st.pc with | (.inl _, _) => none | (.inr code, _) => some code

theorem fetched_code {s : State} {n : Nat} (h : fetched s = some n) : ∃ e, fetchWord s (ctx s) (ctx s).st.pc = (.inr n, e) := by
  unfold fetched at h
  split at h
  · exact absurd h (by simp)
  · next code e he => cases h; exact ⟨e, he⟩

theorem fetched_word {s : State} (h : fetched s = none) : ∃ w e, fetchWord s (ctx s) (ctx s).st.pc = (.inl w, e) := by
  unfold fetched at h
  split at h
  · next w e he => exact ⟨w, e, he⟩
  · exact absurd h (by simp)

/-- The group of `s0` stands alone on core 0. -/
theorem alone (st : Status) : (∀ h ∈ coreGroups (sIdle st id) 0, h.core = 0 ∧ AtHome (sIdle st id) h) ∧ (coreGroups (sIdle st id) 0).Nodup ∧
    (∀ x, weightOf (sIdle st id) 0 x ≠ 0) ∧
    ∀ x, -32768 ≤ mget 0 (mget {} (getCore (sIdle st id) 0).ports 0).dc x := by
  have h0 : (sIdle st id).groups = [(0, { codeGroup 0 0 with strands := (codeGroup 0 0).strands.map fun t => { t with status := st } })] := rfl
  have h : coreGroups (sIdle st id) 0 = [{ codeGroup 0 0 with strands := (codeGroup 0 0).strands.map fun t => { t with status := st } }] := by
    unfold coreGroups; rw [h0]; simp
  rw [h]
  refine ⟨fun g hg => ?_, List.nodup_cons.2 ⟨List.not_mem_nil, List.nodup_nil⟩, fun x => ?_, fun x => ?_⟩
  · rw [List.mem_singleton] at hg; subst hg
    exact ⟨rfl, rfl, List.nodup_cons.2 ⟨List.not_mem_nil, List.nodup_nil⟩⟩
  · have : weightOf (sIdle st id) 0 x = 1 := rfl
    rw [this]; decide
  · have : mget 0 (mget {} (getCore (sIdle st id) 0).ports 0).dc x = 0 := rfl
    rw [this]; decide

set_option maxRecDepth 20000 in
theorem witness_RunEvents :
    (∀ st ∈ [Status.running 0, .ready], issuing (sIdle st id) = true ∧ (∀ h ∈ coreGroups (sIdle st id) 0, h.core = 0 ∧ AtHome (sIdle st id) h) ∧
      (coreGroups (sIdle st id) 0).Nodup ∧ (∀ x, weightOf (sIdle st id) 0 x ≠ 0) ∧
      ∀ x, -32768 ≤ mget 0 (mget {} (getCore (sIdle st id) 0).ports 0).dc x) ∧
    (∃ h ∈ coreGroups (sIdle (.running 0) id) 0, ∃ x ∈ h.strands, x.status = .running 0) ∧
    ((∀ h ∈ coreGroups (sIdle .ready id) 0, ∀ x ∈ h.strands, x.status ≠ .running 0) ∧
      ∃ a, arbCycle (readyCore (sIdle .ready id) 0) 0 0 = some a ∧ arbTurn (readyCore (sIdle .ready id) 0) 0 0 a = true) ∧
    waiting { s0 with rep := { waitq := [(0, [⟨0, 0, .pend 0 0 3⟩])] } } (.pend 0 0 3) = true ∧
    (∀ p ∈ [({ id := 3, lanes := 1 } : Pend), { id := 3, lanes := 1, filled := true, vw := [(0, 5, 9), (1, 5, 8)], kw := [(2, 1)] }],
      ∃ g, waiting (sPend p) (.pend 0 0 3) = false ∧ getGroup (sPend p) 0 0 = some g ∧ g.uw = [] ∧ g.core = 0 ∧ g.slot = 0 ∧ g.pend.find? (fun x => x.id == 3) = some p ∧
        (p.vw.map fun x => (x.1, x.2.1)).Nodup ∧ (p.kw.map Prod.fst).Nodup ∧ ∀ x ∈ p.vw, x.1 < 64 ∧ x.2.1 < 96) ∧
    (∃ c, ctxAt s0 0 0 0 = some c ∧ c.g.core = 0 ∧ c.g.slot = 0 ∧ (c.g.strands.map fun x => x.sid).Nodup ∧ c.st.status = .running 0) ∧
    (∃ c, ctxAt (withSt (.parked .engine)) 0 0 0 = some c ∧ c.st.status = .parked .engine) ∧
    (∃ w e, ctxAt sReady 0 0 0 = some (ctx sReady) ∧ (ctx sReady).st.status = .ready ∧
      fetchWord sReady (ctx sReady) (ctx sReady).st.pc = (.inl w, e)) ∧
    (∀ s, s = mapped (withS fun x => { x with status := .ready, pc := 0x1000000000 }) → ∃ e, ctxAt s 0 0 0 = some (ctx s) ∧
      (ctx s).st.status = .ready ∧ fetchWord s (ctx s) (ctx s).st.pc = (.inr 0x10, e) ∧ retryable 0x10 = true) ∧
    (641 < 642 ∧ (2 : Nat) ^ 57 ≤ (0x200000000000000#64).toNat) ∧
    (641 ≤ 641 ∧ (0x12000#64).toNat < 2 ^ 57 ∧ tlbFind (mget [] (mapped State.reset).tlbs 641) (0#8).toNat (0x12000#64).toNat = none ∧
      (ctxEntry (mapped State.reset) (unitDie 641) (0#8).toNat).map (fun x => x.root) = some 0x1000 ∧
      (walk (mapped State.reset) (unitCore 641) (0#8).toNat 0x1000 (0x12000#64).toNat).1 = .leaf 15 35 0x30000 ∧ 0 < unitCap 641) := by
  refine ⟨fun st hst => ⟨?_, alone st⟩, by decide, ⟨by decide, _, rfl, by decide⟩, by decide, fun p hp => ?_, ⟨_, rfl, rfl, rfl, by decide, rfl⟩, ⟨_, rfl, rfl⟩, ?_, fun s hs => ?_,
    by decide, by decide⟩
  · simp only [List.mem_cons, List.not_mem_nil, or_false] at hst
    rcases hst with rfl | rfl <;> decide
  · simp only [List.mem_cons, List.not_mem_nil, or_false] at hp
    rcases hp with rfl | rfl <;> exact ⟨_, by decide, rfl, rfl, rfl, rfl, rfl, by decide, by decide, by decide⟩
  · obtain ⟨w, e, h⟩ := fetched_word (s := sReady) (by decide)
    exact ⟨w, e, rfl, rfl, h⟩
  · subst hs
    obtain ⟨e, h⟩ := fetched_code (n := 0x10) (s := mapped (withS fun x => { x with status := .ready, pc := 0x1000000000 })) (by decide)
    exact ⟨e, rfl, rfl, h, rfl⟩

/-! ## Hypotheses of the obligations about operations, replay, trees and walkers -/

/-- `s0` with this first operation of its strand, and this store log. -/
def sOp (o : MemOp) (l : List SStore) : State := withG fun g => { g with
  ops := [sentBy o], pend := [{ id := 7, lanes := 1 }], strands := g.strands.map fun x => { x with slog := l, status := .ready } }

/-- The strand of `sOp`. -/
def opStrand (l : List SStore) : Strand := { (ctx s0).st with status := .ready, slog := l }

theorem sent (o : MemOp) (l : List SStore) : ∃ g, SentFirst (sOp o l) 0 0 0 g (opStrand l) (0, 0) o [] ∧ g.team = 0 ∧ ∃ p ∈ g.pend, p.id = 7 :=
  ⟨_, ⟨rfl, ⟨rfl, rfl⟩, rfl, ⟨[], rfl, fun _ h => absurd h List.not_mem_nil⟩, fun _ h => absurd h List.not_mem_nil, rfl, rfl⟩, rfl, _,
    List.mem_singleton.2 rfl, rfl⟩

/-- `sOp` with the unit at 0x80000000000 of a kind. -/
def sUnit (o : MemOp) (k : Kind) : State := { sOp o [] with units := [(0x10000000000, { kind := k })] }

theorem sent_unit (o : MemOp) (k : Kind) : ∃ g, SentFirst (sUnit o k) 0 0 0 g (opStrand []) (0, 0) o [] ∧ ∃ p ∈ g.pend, p.id = 7 :=
  ⟨_, ⟨rfl, ⟨rfl, rfl⟩, rfl, ⟨[], rfl, fun _ h => absurd h List.not_mem_nil⟩, fun _ h => absurd h List.not_mem_nil, rfl, rfl⟩, _,
    List.mem_singleton.2 rfl, rfl⟩

/-- An exchange of one lane. -/
def oneSwap : Access := { instr := .axchg lmK, pc := 0, ea := [(0, 0x10100)], data := [(0, 5)], pend := some 7, pas := [(0, 0x20100)] }

/-- A store routed as its address is. -/
def routed : SStore := { oldOne with sel := selectorAt State.reset 0x20100 }

/-- A counter addition at 0x80000000000, and a read of it into k4. -/
def oneAdd : MemOp := .cadd 0x12000 0x80000000000 1 0
def oneRead : MemOp := .cread 0x12000 0x80000000000 0 4 7 0

theorem witness_OperationEvents :
    (∃ g, SentFirst (sOp (.release 3 0) [routed]) 0 0 0 g (opStrand [routed]) (0, 0) (.release 3 0) [] ∧ g.team = 0) ∧
    badStores (sOp (.release 3 0) [routed]) 0 (opStrand [routed]).slog = false ∧
    (∀ y ∈ (opStrand [routed]).slog, ∀ pa, y.pa = some pa →
      ownerOk (sOp (.release 3 0) [routed]) (homeDie pa) (clusterOf 0) (teamTag (sOp (.release 3 0) [routed]) 0).1
        (teamTag (sOp (.release 3 0) [routed]) 0).2 = true ∧ selectorAt (sOp (.release 3 0) [routed]) pa = y.sel) ∧
    (∀ k, ∃ g, SentFirst (sUnit oneAdd k) 0 0 0 g (opStrand []) (0, 0) oneAdd []) ∧
    (∀ k ∈ [Kind.free, .counter, .tree], (getUnit (sUnit oneAdd k) 0x80000000000).kind = k ∧ (getUnit (sUnit oneAdd k) 0x80000000000).bad = false) ∧
    (∀ cause log, (opStrand []).status ≠ .stopped cause log) ∧
    ownerOk (sUnit oneAdd .free) (homeDie 0x80000000000) (clusterOf 0) 0 0 = true ∧
    ownerOk { sUnit oneAdd .free with dies := [(0, { cown := [(0, { gen := 1 })] })] } (homeDie 0x80000000000) (clusterOf 0) 0 0 = false ∧
    (∀ k, ∃ g, SentFirst (sUnit oneRead k) 0 0 0 g (opStrand []) (0, 0) oneRead [] ∧ ∃ p ∈ g.pend, p.id = 7) ∧
    (∃ g, SentFirst (sOp (.atomic oneSwap) []) 0 0 0 g (opStrand []) (0, 0) (.atomic oneSwap) [] ∧ ∃ p ∈ g.pend, p.id = 7) ∧
    (oneSwap.syncL = [] ∧ 0x78 ≤ wOp (firstWord oneSwap.instr) ∧ wOp (firstWord oneSwap.instr) ≤ 0x7F ∧ wLd (firstWord oneSwap.instr) < 96 ∧
      ownerOk (sOp (.atomic oneSwap) []) (homeDie 0x20100) (clusterOf 0) 0 0 = true) := by
  refine ⟨let ⟨g, h⟩ := sent _ _; ⟨g, h.1, h.2.1⟩, by decide, fun y hy pa hpa => ?_, fun k => let ⟨g, h⟩ := sent_unit _ _; ⟨g, h.1⟩, by decide,
    fun _ _ h => Status.noConfusion h, by decide, by decide, fun k => sent_unit _ _, let ⟨g, h⟩ := sent _ _; ⟨g, h.1, h.2.2⟩, by decide⟩
  rw [show (opStrand [routed]).slog = [routed] from rfl, List.mem_singleton] at hy
  subst hy
  cases hpa
  exact ⟨by decide, by decide⟩

/-- A logged counter addition of the strand at work, whose page is mapped or is not. -/
def sLog (go : Bool) (va : Dword) : State :=
  { mapped sSync with cores := [(0, { olog := [{ idx := 3, grp := 0, sid := 0, code := 0x10, page := va.toNat / 4096, op := .cadd va 1 0, go := go }] })] }

/-- A lane of TBACK about to make the root of a pool at 0x80000000000. -/
def backLane : TreeLane := { lane := 0, va := 0x12000, pool := 0x80000000000, node := 0, arg := 0, path := [0], left := 1 }

/-- A pool of one node at 0x80000000000. -/
def pool (s : State) : State :=
  words { s with units := (List.range 12).map fun i => (0x10000000000 + i, { kind := .tree }) } 0x80000000000 [1]

theorem tree_units {s : State} {a n : Nat} (h : ((List.range n).all fun i => (getUnit s (a + i)).kind == .tree) = true) : TreeUnits s a n := by
  intro b h1 h2
  have := List.all_eq_true.1 h (b - a) (List.mem_range.2 (by omega))
  rw [show a + (b - a) = b by omega] at this
  exact eq_of_beq this

/-- A run of one node that the background work of die 0 frees. -/
def freeing (held : Option (Nat × Nat)) : TreeJob := ⟨0x80000000000, 0x12000, 0, 0, (0, 0), [(0, 1, 0)], held⟩
def sFreeing (held : Option (Nat × Nat)) : State := pool (sDie { treeFree := [freeing held] })

/-- A TBACK that the strand has sent. -/
def backOp (held : Option (Nat × Nat)) : MemOp := .tree 2 0 0 none [backLane] held none

set_option maxRecDepth 20000 in
theorem witness_ReplayAndTreeEvents :
    (∀ go : Bool, waiting (sLog go 0x12000) (.strand 0 0 0) = false ∧ ∃ c, ctxAt (sLog go 0x12000) 0 0 0 = some c ∧ c.g.core = 0 ∧ c.g.slot = 0) ∧
    (∃ e, (getCore (sLog true 0x12000) 0).olog.find? (fun x => x.idx == 3) = some e ∧ e.go = true ∧ e.op = .cadd 0x12000 1 0 ∧
      (logOf (getCore (sLog true 0x12000) 0) e.grp e.sid).head?.map (fun x => x.idx) = some 3) ∧
    (∃ pa lg cls e, translate (sLog true 0x12000) 0 (dieOf 0) 0 .sync 8 (0x12000#64).toNat true = (.ok pa lg cls, e)) ∧
    (∃ e, (getCore (sLog true 0x1000000000) 0).olog.find? (fun x => x.idx == 3) = some e ∧ e.op = .cadd 0x1000000000 1 0) ∧
    (translate (sLog true 0x1000000000) 0 (dieOf 0) 0 .sync 8 (0x1000000000#64).toNat true).1 = .code 0x10 ∧
    (∃ g, getGroup s0 0 0 = some g ∧ ∀ x ∈ g.ops, x.sid = 0 → x.op.isTree = false) ∧
    (∃ g, getGroup (sOp (backOp (some (5, 0x10))) []) 0 0 = some g ∧ g.ops = [sentBy (backOp (some (5, 0x10)))]) ∧
    (∀ s, s = pool (sOp (backOp none) []) → (∃ g, getGroup s 0 0 = some g ∧ g.core = 0 ∧ g.slot = 0 ∧
        g.ops = [sentBy (backOp none)]) ∧ s.errs = [] ∧ backLane.done = false ∧ backLane.pool % 64 = 0 ∧
      ownerOk s (homeDie backLane.pool) (clusterOf 0) 0 0 = true ∧
      TreeUnits s backLane.pool 64 ∧ TreeUnits s (backLane.pool + nodeOff 0) 32 ∧ 0 < hCap s backLane.pool ∧ nFreed s backLane.pool 0 = false) ∧
    (getDie State.reset 0).treeFree = [] ∧ (getDie (sFreeing (some (5, 0x10))) 0).treeFree = [freeing (some (5, 0x10))] ∧
    ((getDie (sFreeing none) 0).treeFree = [freeing none] ∧ (sFreeing none).errs = [] ∧
      ownerOk (sFreeing none) (homeDie 0x80000000000) (clusterOf 0) 0 0 = true ∧
      TreeUnits (sFreeing none) 0x80000000000 64 ∧ TreeUnits (sFreeing none) (0x80000000000 + nodeOff 0) (32 * 1) ∧
      hdr (sFreeing none) 0x80000000000 48 8 = 0) := by
  refine ⟨fun go => ⟨by cases go <;> decide, _, rfl, rfl, rfl⟩, ⟨_, rfl, rfl, rfl, by decide⟩, tr_ok (by decide), ⟨_, rfl, rfl⟩, by decide,
    ⟨_, rfl, by decide⟩, ⟨_, rfl, rfl⟩,
    fun s hs => ?_, rfl, rfl, rfl, rfl, by decide, tree_units (by decide), tree_units (by decide), by decide⟩
  subst hs
  exact ⟨⟨_, rfl, rfl, rfl, rfl⟩, rfl, rfl, by decide, by decide, tree_units (by decide), tree_units (by decide), by decide, by decide⟩

/-- A block from its fields. -/
def blk (l : List (Nat × Nat)) : BitVec 1024 := BitVec.ofNat 1024 (fields l)

/-- Slot `i` of walker 0 with a block; memory mapped for context 0, and these words at 0x10000. -/
def sSlot (i : Nat) (ph : Phase) (l : List (Nat × Nat)) (beats : List Beat) (toks : List Byte) (w : List Nat) : State :=
  { words (mapped State.reset) 0x10000 w with walkers := [(0, { slots := [(i, {
      cmd := { ticket := 0, chain := true, ctx := 0, core := 0, team := 0, part := 0, gen := 0, addr := 0x10000, blk := 0, tokens := toks }
      blk := blk l, phase := ph, beats := beats, credit := 1 })] })] }

theorem in_slot (i : Nat) (ph : Phase) (l : List (Nat × Nat)) (beats : List Beat) (toks : List Byte) (w : List Nat) :
    ∃ x, InSlot (sSlot i ph l beats toks w) 0 i x ∧ x.phase = ph ∧ x.blk = blk l ∧ x.beats = beats ∧ x.cmd.tokens = toks ∧ x.cmd.mm = false ∧
      x.cmd.ctx = 0 ∧ x.cmd.addr = 0x10000 ∧ 0 < x.credit ∧ x.next = 0 ∧ x.cmd.core = 0 := by
  refine ⟨⟨⟨0, true, 0, 0, 0, 0, 0, 0x10000, 0, toks, false⟩, blk l, ph, 0, beats, 1, none, none, false, false, []⟩, ⟨rfl, ?_, rfl, rfl⟩,
    rfl, rfl, rfl, rfl, rfl, rfl, rfl, Nat.one_pos, rfl, rfl⟩
  simp [sSlot, getWalker, mget, mfind]

/-- A block that copies 64 bytes from 0x10000 to 0x20000; one that waits until the counter at 0x800000000 is 1; the first with that permit;
and a PUTS that releases below .dev, whose destination's word is `d`, of `n` bytes. -/
def copy64 : List (Nat × Nat) := [(0, 1), (2, 1), (4, 64), (8, 0x10000), (16, 0x20000)]
def waitOne : List (Nat × Nat) := [(0, 4), (32, 0x800000000), (40, 1)]
def copyPermit : List (Nat × Nat) := copy64 ++ [(32, 0x800000000), (40, 1)]
def putsRel (d n : Nat) : List (Nat × Nat) := [(0, 3), (1, 2 + 4 * 4), (2, 1), (4, n), (8, 0x10000), (16, d)]

/-- A translation for walker 0. -/
def walkOk (s : State) (a : Acc) (n va : Nat) (wr : Bool) : Bool := isOk (translate s 512 0 0 a n va wr)

/-- No slot but `i` of walker 0 of `sSlot i` holds a command. -/
theorem only_slot (i : Nat) (ph : Phase) (l : List (Nat × Nat)) (n : Nat) (f : WSlot → Prop) (h : n ≠ i) : ¬ Holds (sSlot i ph l [] [] []) 0 n f := by
  rintro ⟨_, x, hx, _⟩
  simp [sSlot, getWalker, mget, mfind, h] at hx

/-- `sSlot` with the counter at 0x80000000000 at 1. -/
def counted (s : State) : State := words { s with units := [(0x10000000000, { kind := .counter })] } 0x80000000000 [1]

set_option exponentiation.threshold 4096 in
set_option maxRecDepth 20000 in
theorem walker_permits :
    waiting { State.reset with rep := { waitq := [(0, [⟨0, 0, .slot 0 3⟩])] } } (.slot 0 3) = true ∧
    (∀ i ph l beats toks w, (sSlot i ph l beats toks w).errs = []) ∧
    (∀ w ∈ [[0x10001], []], (∃ x, InSlot (sSlot 0 .fetch [] [] [] w) 0 0 x ∧ x.phase = .fetch ∧ x.cmd.addr = 0x10000 ∧ x.cmd.ctx = 0 ∧ x.cmd.core = 0) ∧
      walkOk (sSlot 0 .fetch [] [] [] w) (.load 128) 128 0x10000 false = true) ∧
    blockOk 0 (BitVec.ofNat 1024 (memRead (sSlot 0 .fetch [] [] [] [0x10001]).mem 0x10000 128)) = true ∧
    blockOk 0 (BitVec.ofNat 1024 (memRead (sSlot 0 .fetch [] [] [] []).mem 0x10000 128)) = false ∧
    (∃ x, InSlot (sSlot 0 .permit copy64 [] [] []) 0 0 x ∧ x.phase = .permit ∧ x.blk = blk copy64) ∧
    (¬ (bType (blk copy64) = 3 ∧ bRel (blk copy64) = true ∧ bScope (blk copy64) < 5) ∧ bf (blk copy64) 32 8 = 0) ∧
    (∀ s ∈ [sSlot 0 .permit waitOne [] [] [], counted (sSlot 0 .permit waitOne [] [] [])], (∃ x, InSlot s 0 0 x ∧ x.phase = .permit) ∧
      walkOk s .sync 8 0x800000000 false = true ∧ (getUnit s 0x80000000000).bad = false ∧
      ((getUnit s 0x80000000000).kind = .free ∨ (getUnit s 0x80000000000).kind = .counter)) ∧
    (bf (blk waitOne) 32 8 % 8 = 0 ∧ bf (blk waitOne) 32 8 ≠ 0 ∧ unitRead (sSlot 0 .permit waitOne [] [] []) 0x80000000000 8 < bf (blk waitOne) 40 8 ∧
      bf (blk waitOne) 40 8 ≤ unitRead (counted (sSlot 0 .permit waitOne [] [] [])) 0x80000000000 8) ∧
    (∀ d n, ∃ x, InSlot (sSlot 0 .permit (putsRel d n) [] [] []) 0 0 x ∧ x.phase = .permit ∧ x.blk = blk (putsRel d n) ∧ x.cmd.core = 0) ∧
    (∀ d ∈ [(2 ^ 63, 64), (2 ^ 62, 64), (2 ^ 62 + 2 ^ 32, 64), (0, 0)], bType (blk (putsRel d.1 d.2)) = 3 ∧ bRel (blk (putsRel d.1 d.2)) = true ∧
      bScope (blk (putsRel d.1 d.2)) < 5 ∧ bf (blk (putsRel d.1 d.2)) 32 8 = 0 ∧ bf (blk (putsRel d.1 d.2)) 48 8 = 0) ∧
    (bBeats (blk (putsRel 0 0)) = 0 ∧ bits (bf (blk (putsRel (2 ^ 63) 64)) 16 8) 63 62 = 2 ∧
      (bits (bf (blk (putsRel (2 ^ 62) 64)) 16 8) 63 62 = 1 ∧ bits (bf (blk (putsRel (2 ^ 62) 64)) 16 8) 33 32 = dieOf 0) ∧
      bBeats (blk (putsRel (2 ^ 62 + 2 ^ 32) 64)) ≠ 0 ∧ bits (bf (blk (putsRel (2 ^ 62 + 2 ^ 32) 64)) 16 8) 63 62 = 1 ∧
      bits (bf (blk (putsRel (2 ^ 62 + 2 ^ 32) 64)) 16 8) 33 32 ≠ dieOf 0) := by
  refine ⟨by decide, fun _ _ _ _ _ _ => rfl,
    fun w hw => ⟨let ⟨x, h⟩ := in_slot 0 .fetch [] [] [] w; ⟨x, h.1, h.2.1, h.2.2.2.2.2.2.2.1, h.2.2.2.2.2.2.1, h.2.2.2.2.2.2.2.2.2.2⟩, ?_⟩, by decide, by decide,
    let ⟨x, h⟩ := in_slot 0 .permit copy64 [] [] []; ⟨x, h.1, h.2.1, h.2.2.1⟩, by decide, fun s hs => ?_, by decide,
    fun d n => let ⟨x, h⟩ := in_slot 0 .permit (putsRel d n) [] [] []; ⟨x, h.1, h.2.1, h.2.2.1, h.2.2.2.2.2.2.2.2.2.2⟩, by decide, by decide⟩
  · simp only [List.mem_cons, List.not_mem_nil, or_false] at hw
    rcases hw with rfl | rfl <;> decide
  · simp only [List.mem_cons, List.not_mem_nil, or_false] at hs
    rcases hs with rfl | rfl <;> exact ⟨⟨_, ⟨rfl, rfl, rfl, rfl⟩, rfl⟩, by decide, by decide, by decide⟩

set_option exponentiation.threshold 4096 in
set_option maxRecDepth 20000 in
theorem walker_reads :
    (∃ x, InSlot (sSlot 3 .move copy64 [] [] []) 0 3 x ∧ x.phase = .move ∧ x.blk = blk copy64 ∧ 0 < x.credit ∧ slotReady x = true ∧ x.cmd.mm = false) ∧
    (InTurn (sSlot 3 .move copy64 [] [] []) 0 3 3 ∧ ∀ m < 3, ¬ Hungry (sSlot 3 .move copy64 [] [] []) 0 (((getWalker (sSlot 3 .move copy64 [] [] []) 0).last + 1 + m) % 8)) ∧
    (bits (bf (blk copy64) 8 8) 63 62 = 0 ∧
      walkOk (sSlot 3 .move copy64 [] [] []) (.load 64) 64 (bits (bf (blk copy64) 8 8) 56 0 + beatOff (blk copy64) (bf (blk copy64) 24 4) 0) false = true) ∧
    (∃ x, InSlot (sSlot 3 .permit copyPermit [] [] []) 0 3 x ∧ x.blk = blk copyPermit ∧ Ahead x) ∧
    ((∀ j < 8, ¬ Holds (sSlot 3 .permit copyPermit [] [] []) 0 j fun y => slotReady y = true) ∧
      InTurn (sSlot 3 .permit copyPermit [] [] []) 0 3 3 ∧
      ∀ m < 3, ¬ Holds (sSlot 3 .permit copyPermit [] [] []) 0 (((getWalker (sSlot 3 .permit copyPermit [] [] []) 0).last + 1 + m) % 8) Ahead) ∧
    (bits (bf (blk copyPermit) 8 8) 63 62 = 0 ∧ walkOk (sSlot 3 .permit copyPermit [] [] []) (.load 64) 64
      (bits (bf (blk copyPermit) 8 8) 56 0 + beatOff (blk copyPermit) (bf (blk copyPermit) 24 4) 0) false = true) := by
  refine ⟨⟨_, ⟨rfl, rfl, rfl, rfl⟩, rfl, rfl, by decide, by decide, rfl⟩, ⟨⟨by decide, by decide⟩, fun m hm => only_slot _ _ _ _ _ ?_⟩, by decide,
    ⟨_, ⟨rfl, rfl, rfl, rfl⟩, rfl, rfl, rfl, by decide, by decide⟩, ⟨fun j hj => ?_, ⟨by decide, by decide⟩, fun m hm => only_slot _ _ _ _ _ ?_⟩, by decide⟩
  · show (7 + 1 + m) % 8 ≠ 3
    omega
  · by_cases h : j = 3
    · subst h
      rintro ⟨_, x, hx, hr⟩
      cases hx
      exact absurd hr (by decide)
    · exact only_slot _ _ _ _ _ h
  · show (7 + 1 + m) % 8 ≠ 3
    omega

set_option exponentiation.threshold 4096 in
set_option maxRecDepth 20000 in
theorem walker_writes :
    (∀ ph ∈ [Phase.move, .ended], (∃ x, InSlot (sSlot 0 ph copy64 [⟨0, 5⟩] [] []) 0 0 x ∧ x.phase = ph ∧ x.beats = [⟨0, 5⟩]) ∧
      bits (bf (blk copy64) 16 8) 63 62 = 0 ∧
      walkOk (sSlot 0 ph copy64 [⟨0, 5⟩] [] []) .store 64 (bits (bf (blk copy64) 16 8) 56 0 + beatOff (blk copy64) (bf (blk copy64) 28 4) 0) true = true ∧
      ownerOk (sSlot 0 ph copy64 [⟨0, 5⟩] [] []) (homeDie 0x20000) (clusterOf 0) 0 0 = true ∧
      ownerOk { sSlot 0 ph copy64 [⟨0, 5⟩] [] [] with dies := [(0, { cown := [(0, { gen := 1 })] })] } (homeDie 0x20000) (clusterOf 0) 0 0 = false) ∧
    (∀ t ∈ [([] : List Byte), [2], [3]], ∃ x, InSlot (sSlot 0 .token [(0, 4)] [] t []) 0 0 x ∧ x.phase = .token ∧ x.cmd.tokens = t) ∧
    (∀ k ∈ [copy64, (3, 1) :: (64, 0x10080) :: copy64], (∃ x, InSlot (sSlot 0 .drain k [] [] []) 0 0 x ∧ x.phase = .drain ∧ x.blk = blk k) ∧
      bf (blk k) 48 8 = 0 ∧ bType (blk k) ≠ 4) ∧
    (bLinkc (blk copy64) = 0 ∧ bLinkc (blk ((3, 1) :: (64, 0x10080) :: copy64)) = 1 ∧ bf (blk ((3, 1) :: (64, 0x10080) :: copy64)) 64 8 = 0x10080) := by
  refine ⟨fun ph hp => ⟨let ⟨x, h⟩ := in_slot 0 ph copy64 [⟨0, 5⟩] [] []; ⟨x, h.1, h.2.1, h.2.2.2.1⟩, ?_⟩,
    fun t _ => let ⟨x, h⟩ := in_slot 0 .token [(0, 4)] [] t []; ⟨x, h.1, h.2.1, h.2.2.2.2.1⟩,
    fun k hk => ⟨let ⟨x, h⟩ := in_slot 0 .drain k [] [] []; ⟨x, h.1, h.2.1, h.2.2.1⟩, ?_⟩, by decide⟩
  · simp only [List.mem_cons, List.not_mem_nil, or_false] at hp
    rcases hp with rfl | rfl <;> decide
  · simp only [List.mem_cons, List.not_mem_nil, or_false] at hk
    rcases hk with rfl | rfl <;> decide

/-- The hypotheses of WalkerEvents, clause by clause. -/
theorem witness_WalkerEvents : type_of% walker_permits ∧ type_of% walker_reads ∧ type_of% walker_writes :=
  ⟨walker_permits, walker_reads, walker_writes⟩

/-! ## Hypotheses of the obligations about launches, pages, tiles and steps -/

/-- Front end 0 holds cluster 0, and context 0's memory is mapped; these words stand at 0x10000. -/
def sFront (fe : FrontEnd) (w : List Nat) : State := words (mapped (sOwn fe)) 0x10000 w

/-- A launch queued in slot 0, with its record at an address. -/
def queued (va : Dword) : FrontEnd := { queue := [0], slots := [(0, { asid := 0, va := va })] }

theorem at_head (va : Dword) (w : List Nat) : AtHead (sFront (queued va) w) 0 0 { asid := 0, va := va } := ⟨⟨_, rfl⟩, rfl, rfl, rfl, rfl⟩

/-- The words of a record that breaks no rule. -/
def goodRec : List Nat := [0, 0, 0x00010100]

/-- A launch read and at work in slot 0 of front end 0, one of its tasks in the bank with SEQ 1. -/
def oneTask (l : List (Nat × Nat)) : Launch := { asid := 0, va := 0x10000, rcd := BitVec.ofNat 2048 (fields l), phase := .active, ntasks := 1 }
def sBank (l : List (Nat × Nat)) (held : BitVec 4) : State :=
  { sFront { slots := [(0, oneTask l)] } [] with banks := [(0, { pass := true, tasks := [{ id := 0, rcd := 0, seq := some 1, q := 0, unit := 0, held := held }] })] }

/-- A record of one small team that waits until the counter at 0x800000000 is 1; and the same with no condition. -/
def condRec : List (Nat × Nat) := [(9, 1), (10, 1), (144, 0x800000000), (154, 1)]
def plainRec : List (Nat × Nat) := [(9, 1), (10, 1)]

/-- Translations and code of a front end. -/
def feOk (s : State) (a : Acc) (n va : Nat) (wr : Bool) : Bool := match feTr s 0 a n va wr with | .ok _ _ _ => true | .code _ => false
theorem fe_ok {s : State} {a : Acc} {n va : Nat} {wr : Bool} (h : feOk s a n va wr = true) : ∃ pa lg cls, feTr s 0 a n va wr = .ok pa lg cls := by
  unfold feOk at h
  split at h
  · next pa lg cls hh => exact ⟨pa, lg, cls, hh⟩
  · exact absurd h Bool.false_ne_true

/-- The same, with what the address is. -/
theorem fe_at {s : State} {a : Acc} {n va : Nat} {wr : Bool} {p : Nat → Bool}
    (h : (match feTr s 0 a n va wr with | .ok pa _ _ => p pa | .code _ => false) = true) :
    ∃ pa lg cls, feTr s 0 a n va wr = .ok pa lg cls ∧ p pa = true := by
  split at h
  · next pa lg cls hh => exact ⟨pa, lg, cls, hh, h⟩
  · exact absurd h Bool.false_ne_true

/-- A launch with nothing left, whose completion adds 1 at 0x800000000, and one without. -/
def doneLaunch (done : Bool) : Launch :=
  { asid := 0, va := 0x10000, rcd := BitVec.ofNat 2048 (fields (if done then [(45, 2), (48, 0x800000000), (56, 1)] else [])), phase := .active }

set_option exponentiation.threshold 4096 in
set_option maxRecDepth 20000 in
theorem witness_LaunchEvents :
    (∀ w ∈ [goodRec, []], AtHead (sFront (queued 0x10000) w) 0 0 { asid := 0, va := 0x10000 }) ∧
    (∃ pa lg cls, feTr (sFront (queued 0x10000) goodRec) 0 (.load 256) 256 0x10000 false = .ok pa lg cls) ∧
    (∃ pa lg cls, feTr (sFront (queued 0x10000) []) 0 (.load 256) 256 0x10000 false = .ok pa lg cls) ∧
    recordOk (sFront (queued 0x10000) [])
      { asid := 0, va := 0x10000, rcd := BitVec.ofNat 2048 (memRead (sFront (queued 0x10000) []).mem 0x10000 256) } = false ∧
    (∀ m, m = ({ asid := 0, va := 0x10000, rcd := BitVec.ofNat 2048 (memRead (sFront (queued 0x10000) goodRec).mem 0x10000 256) } : Launch) →
      recordOk (sFront (queued 0x10000) goodRec) m = true ∧ lrec m 48 8 = 0 ∧ staticsOk m = true ∧ lrec m 46 2 = 0) ∧
    (feTr (sFront (queued 0x1000000000) []) 0 (.load 256) 256 0x1000000000 false = .code 0x10 ∧ retryable 0x10 = true) ∧
    (∃ code, feTr (sOwn (queued 0x10000)) 0 (.load 256) 256 0x10000 false = .code code ∧ retryable code = false) ∧
    (∃ x l, (getBank (sBank condRec 0) 0).tasks.filter (fun t => t.seq == some 1) = [x] ∧ waiting (sBank condRec 0) (.task x.id) = false ∧ taskLaunch (sBank condRec 0) x = some l ∧
      x.faulted = false ∧ x.held.getLsbD 0 = false ∧ x.wait.contains ((taskCond (sBank condRec 0) x 0).1 / 4096) = false ∧
      taskCond (sBank condRec 0) x 0 = (0x800000000, 1) ∧ lctx l = 0) ∧
    ((getUnit (sBank condRec 0) 0x80000000000).kind = .free ∧ (getUnit (counted (sBank condRec 0)) 0x80000000000).kind = .counter) ∧
    (∃ pa lg cls, feTr (sBank condRec 0) 0 .sync 8 0x800000000 false = .ok pa lg cls) ∧
    (unitRead (sBank condRec 0) 0x80000000000 8 < 1 ∧
      1 ≤ unitRead (counted (sBank condRec 0)) 0x80000000000 8) ∧
    ((getBank State.reset 0).pass = false ∧ (getBank State.reset 0).ringLen = 0) ∧
    (∃ b x l, (sBank plainRec 0).banks = [(0, b)] ∧ b.pass = true ∧ b.tasks = [x] ∧ x.q = 0 ∧ x.img = none ∧ x.err = none ∧
      taskLaunch (sBank plainRec 0) x = some l ∧ lflag l 0 = false ∧ lflag l 1 = false ∧ unitReady (sBank plainRec 0) 0 [x] = true ∧
      (placeTeam (setBank (sBank plainRec 0) 0 { b with pass := false }) 0 x).isSome = true) ∧
    (∀ b, b = ({ ringLen := 1, ringMeta := [{ id := 0, rcd := 0, q := 0, unit := 0 }] } : Bank) → (getBank { State.reset with banks := [(0, b)] } 0) = b ∧
      b.ringLen = 1 ∧ b.tasks.length ≤ 4096 ∧ physOk { State.reset with banks := [(0, b)] } (ringAddr b 0) 128 = true) ∧
    (4096 < (getBank { State.reset with banks := [(0, { tasks := List.replicate 4097 { id := 0, rcd := 0, q := 0, unit := 0 } })] } 0).tasks.length) ∧
    (getLaunch (sBank plainRec 0) 0 0 = some (oneTask plainRec) ∧ launchOver (sBank plainRec 0) 0 0 (oneTask plainRec) = false) ∧
    (∀ d : Bool, getLaunch (sFront { slots := [(0, doneLaunch d)] } []) 0 0 = some (doneLaunch d) ∧ (doneLaunch d).phase = .active ∧
      (doneLaunch d).addWait = none ∧ launchOver (sFront { slots := [(0, doneLaunch d)] } []) 0 0 (doneLaunch d) = true ∧ (doneLaunch d).noAdd = false ∧
      waiting (sFront { slots := [(0, doneLaunch d)] } []) (.fe 0) = false) ∧
    (getUnit (sFront { slots := [(0, doneLaunch true)] } []) 0x80000000000).bad = false ∧
    (getUnit (sFront { slots := [(0, doneLaunch true)] } []) 0x80000000000).kind = .free ∧ (sFront { slots := [(0, doneLaunch true)] } []).errs = [] ∧
    (lrec (doneLaunch false) 48 8 = 0 ∧ lrec (doneLaunch true) 48 8 = 0x800000000 ∧ lrec (doneLaunch true) 56 4 = 1 ∧ lctx (doneLaunch true) = 0) ∧
    (∃ pa lg cls, feTr (sFront { slots := [(0, doneLaunch true)] } []) 0 .sync 8 0x800000000 true = .ok pa lg cls ∧ (pa == 0x80000000000) = true) := by
  refine ⟨fun w _ => at_head _ _, fe_ok (by decide), fe_ok (by decide), by decide, fun m hm => ?_, by decide, ⟨_, rfl, rfl⟩,
    ⟨_, _, rfl, rfl, rfl, rfl, rfl, by decide, by decide, by decide⟩, by decide, fe_ok (by decide), by decide, by decide,
    ⟨_, _, _, rfl, rfl, rfl, rfl, rfl, rfl, rfl, by decide, by decide, by decide, by decide⟩, fun b hb => ?_, ?_, by decide, fun d => ?_, by decide,
    by decide, rfl, by decide, fe_at (by decide)⟩
  · subst hm; decide
  · subst hb; decide
  · show 4096 < (List.replicate 4097 _).length
    rw [List.length_replicate]; decide
  · cases d <;> decide

/-- Front end 0 moves a page from 0x50000 to 0x60000; its rings' headers are at 0x70000, the release ring with `n` places at 0x80000. -/
def job (step disp : Nat) (full : Bool) : Job :=
  { asid := 0, va := 0x10000, lg := 12, disp := disp, step := step, ent := 0x50000 + 15, entPa := 0x31000, frame := 0x60000, full := full }
def sJob (step disp : Nat) (full : Bool) (n : Nat) : State :=
  words { State.reset with fes := [(0, { fertab := 0x70000, job := some (job step disp full) })] } 0x70900 [0x80000, 0, n]

/-- A core with hints in hand. -/
def sHints (l : List Hint) : State := { mapped State.reset with cores := [(0, { hints := l })] }

/-- A bounds launch whose open-tile list is at 0x10000 with 2 places and `n` of them filled; a tile on its way; and a list to issue from. -/
def tileLaunch : Launch := { asid := 0, va := 0x11000, rcd := BitVec.ofNat 2048 (fields [(234, 1), (240, 0x10000)]), phase := .active, list := [0] }
def sTile (n : Nat) : State := sFront { slots := [(0, tileLaunch)], tiles := [⟨0, 0, 0, 0, false⟩] } [n]
def sIssue : State := { State.reset with fes := [(0, { slots := [(0, tileLaunch)] })] }

set_option exponentiation.threshold 4096 in
set_option maxRecDepth 20000 in
theorem witness_PageAndTileEvents :
    waiting { State.reset with rep := { waitq := [(0, [⟨0, 0, .fe 0⟩])] } } (.fe 0) = true ∧
    (∀ k ∈ [1, 2, 3, 4, 5], (getFe (sJob k 1 false 2) 0).job = some (job k 1 false) ∧ (job k 1 false).inv = false ∧ (job k 1 false).full = false) ∧
    (peFrame (job 2 1 false).ent + 2 ^ 12 ≤ 0x60000 ∧ Memory.wf (sJob 2 1 false 2).mem = true) ∧
    ((releaseFrame (sJob 5 1 false 2) 0 (peFrame (job 5 1 false).ent) (if peRepl (job 5 1 false).ent then 2 else if 12 = 12 then 0 else 1)).isSome = true ∧
      releaseFrame (sJob 5 1 false 0) 0 (peFrame (job 5 1 false).ent) (if peRepl (job 5 1 false).ent then 2 else if 12 = 12 then 0 else 1) = none) ∧
    ((getFe (sJob 2 2 false 2) 0).job = some (job 2 2 false) ∧ Memory.wf (sJob 2 2 false 2).mem = true ∧ (job 2 2 false).frame + 2 ^ 12 ≤ 0x2000000000 ∧
      ∀ d < 4, peFrame (job 2 2 false).ent + 2 ^ 12 ≤ (job 2 2 false).frame + d * 0x2000000000) ∧
    ((getFe (sJob 6 1 true 2) 0).job = some (job 6 1 true) ∧ (job 6 1 true).full = true ∧ (job 6 1 true).inv = false ∧
      (releaseFrame (sJob 6 1 true 2) 0 (peFrame (job 6 1 true).ent) (if peRepl (job 6 1 true).ent then 2 else if 12 = 12 then 0 else 1)).isSome = true) ∧
    (getCore State.reset 0).hints = [] ∧
    ((getCore (sHints [⟨0, 3, 0, 0x10000, 4096, 0⟩]) 0).hints = [⟨0, 3, 0, 0x10000, 4096, 0⟩] ∧
      (getFe (sHints [⟨0, 3, 0, 0x10000, 4096, 0⟩]) (ctxPart (sHints [⟨0, 3, 0, 0x10000, 4096, 0⟩]) (dieOf 0) 0)).job = none ∧
      waiting (sHints [⟨0, 3, 0, 0x10000, 4096, 0⟩]) (.fe 0) = false ∧
      (pageEntry (sHints [⟨0, 3, 0, 0x10000, 4096, 0⟩]) 0 (0x10000 + 0)).1.isSome = true) ∧
    (∀ n ∈ [1, 2], (getFe (sTile n) 0).tiles = [⟨0, 0, 0, 0, false⟩] ∧ getLaunch (sTile n) 0 0 = some tileLaunch ∧ (getFe (sTile n) 0).tileWait = none ∧
      (sTile n).errs = [] ∧ (∃ pa lg cls, feTr (sTile n) 0 .store 8 (lrec tileLaunch 240 8) true = .ok pa lg cls ∧ (pa == 0x10000) = true) ∧
      (sTile n).banks = [] ∧ tileLaunch.phase ≠ .faulted ∧ waiting (sTile n) (.fe 0) = false) ∧
    lctx tileLaunch = 0 ∧ memRead (sTile 1).mem 0x10000 8 < 2 ^ lrec tileLaunch 234 1 ∧ 2 ^ lrec tileLaunch 234 1 ≤ memRead (sTile 2).mem 0x10000 8 ∧
    (∃ pe lg cls, feTr (sTile 1) 0 .store 8 (lrec tileLaunch 240 8 + 64 + 8 * 1) true = .ok pe lg cls ∧ decide (0x10000 + 8 ≤ pe) = true) ∧
    (∀ l, l = { tileLaunch with phase := .faulted } → getLaunch (sFront { slots := [(0, l)], tiles := [⟨0, 0, 0, 0, false⟩] } []) 0 0 = some l) ∧
    ({ tileLaunch with child := 1 } : Launch).list.drop ({ tileLaunch with child := 1 } : Launch).child = [] ∧
    (getLaunch sIssue 0 0 = some tileLaunch ∧ tileLaunch.list.drop tileLaunch.child = [0] ∧ entPt 0 = false ∧ tileLaunch.childIx = 0 ∧
      tileLaunch.phase = .active ∧ tileLaunch.ntasks = 0 ∧ Unplaced sIssue 0 ∧ waiting sIssue (.fe 0) = false ∧ (getFe sIssue 0).staging = [] ∧ tilesPending sIssue 0 0 = false) ∧
    (∀ s, s = { State.reset with fes := [(0, { slots := [(0, tileLaunch)], tiles := [⟨0, 0, 0, 0, false⟩] })] } →
      getLaunch s 0 0 = some tileLaunch ∧ Unplaced s 0 ∧ waiting s (.fe 0) = false ∧ (getFe s 0).staging = [] ∧ tilesPending s 0 0 = true) := by
  refine ⟨by decide, by decide, by decide, by decide, by decide, by decide, by decide, by decide, fun n hn => ?_, by decide, by decide, by decide,
    fe_at (by decide), fun l hl => ?_, by decide, by unfold Unplaced; decide, fun s hs => ?_⟩
  · simp only [List.mem_cons, List.not_mem_nil, or_false] at hn
    rcases hn with rfl | rfl <;> exact ⟨rfl, rfl, rfl, rfl, fe_at (by decide), rfl, by decide, by decide⟩
  · subst hl; rfl
  · subst hs; unfold Unplaced; decide

/-- The strand of `s0` at these words, and a trap table at 0x10100. -/
def sCode (w : Nat) : State :=
  words { placeWord State.reset 64 w with dies := [(0, { ctxs := [(0, { ttbase := 0x10101 })] })] } 0x20100 ((List.range 16).flatMap fun _ => [0x10080, 0])

/-- The word at `va` is `w` and can be fetched, and `p` holds of the state after. -/
def fetchIs (s : State) (c : Ctx) (va : Dword) (w : Word) (p : State → Bool) : Bool :=
  match translate s c.core (dieOf c.core) c.g.ctx.toNat .fetch 4 va.toNat false with
  | (.ok pa _ _, e) => w == BitVec.ofNat 32 (memRead e.mem pa 4) && p e
  | _ => false

theorem fetches {s : State} {c : Ctx} {va : Dword} {w : Word} {p : State → Bool} (h : fetchIs s c va w p = true) :
    ∃ e, Fetches s c va w e ∧ p e = true := by
  unfold fetchIs at h
  split at h
  · next pa dev go e ht =>
    simp only [Bool.and_eq_true] at h
    exact ⟨e, ⟨pa, dev, go, ht, eq_of_beq h.1⟩, h.2⟩
  · exact absurd h Bool.false_ne_true

theorem fetches_both {s : State} {c : Ctx} {va : Dword} {w l : Word} {p : State → Bool}
    (h : fetchIs s c va w (fun e => fetchIs e c (va + 4) l p) = true) :
    ∃ e e', Fetches s c va w e ∧ Fetches e c (va + 4) l e' ∧ p e' = true := by
  obtain ⟨e, h1, h2⟩ := fetches h
  obtain ⟨e', h3, h4⟩ := fetches h2
  exact ⟨e, e', h1, h3, h4⟩

/-- The strand at work in `s` can enter its handler for a rejected word. -/
def rejectsNow (s : State) (e : State) : Bool := settled e (ctx s).g (ctx s).st && handlerNow e (ctx s) 1

theorem rejects_now {s e : State} (h : rejectsNow s e = true) : settled e (ctx s).g (ctx s).st = true ∧ ∃ e2 hd, HandlerAt e (ctx s) 1 e2 hd :=
  let h := (Bool.and_eq_true _ _).mp h
  ⟨h.1, handler_at h.2⟩

/-- `sCode`, whose strand has an operation on its way, or a register that is not ready. -/
def sUnsettled (w : Nat) : State :=
  { sCode w with groups := (sCode w).groups.map fun p => (p.1, { p.2 with ops := [sentBy (.cadd 0 0 1 0)] }) }
def sNotYet (w : Nat) : State :=
  { sCode w with groups := (sCode w).groups.map fun p => (p.1, { p.2 with strands := p.2.strands.map fun x => { x with sb := [(2, 1000)] } }) }

theorem begins {s t u : State} (rest : List Turn) (h : s.agenda = .issue 0 0 0 :: rest ∨ (s.agenda = [] ∧ rest = [] ∧ nextOf s = .issue 0 0 0))
    (hu : u = { s with agenda := rest, cur := some (0, 0, 0) }) (ht : curCtx u = some (ctx u)) (hw : curWaits u = false)
    (hg : (getGroup s 0 0).any (fun g => (findStrand g 0).any fun x => x.status == .running 0) = true) (hs : u = t) : Begins s t (ctx t) := by
  subst hs
  cases h1 : getGroup s 0 0 with
  | none => rw [h1] at hg; exact Bool.noConfusion hg
  | some g =>
    rw [h1] at hg
    replace hg : (findStrand g 0).any (fun x => x.status == .running 0) = true := hg
    cases h2 : findStrand g 0 with
    | none => rw [h2] at hg; exact Bool.noConfusion hg
    | some x =>
      rw [h2] at hg
      exact ⟨ht, hw, 0, 0, 0, rest, g, x, 0, h, h1, h2, eq_of_beq hg, hu⟩

theorem same {s : State} (h1 : s.agenda = []) (h2 : s.cur = some (0, 0, 0)) :
    { { s with agenda := [.issue 0 0 0], cur := none } with agenda := [], cur := some (0, 0, 0) } = s := by
  cases s; cases h1; cases h2; rfl

set_option maxRecDepth 20000 in
theorem begins_late (w : Nat) : Begins { sNotYet w with agenda := [.issue 0 0 0], cur := none } (sNotYet w) (ctx (sNotYet w)) :=
  begins [] (.inl rfl) (same rfl rfl).symm rfl rfl rfl rfl

set_option maxRecDepth 20000 in
theorem begins_turn (w : Nat) : ∀ s ∈ [sCode w, sUnsettled w], Begins { s with agenda := [.issue 0 0 0], cur := none } s (ctx s) := by
  intro s hs
  simp only [List.mem_cons, List.not_mem_nil, or_false] at hs
  rcases hs with rfl | rfl <;> exact begins [] (.inl rfl) (same rfl rfl).symm rfl rfl rfl rfl

theorem still {s : State} (h1 : s.agenda = []) (h2 : s.cur = some (0, 0, 0)) : s = { s with agenda := [], cur := some (0, 0, 0) } := by
  cases s; cases h1; cases h2; rfl

/-- The words of the tests below. -/
def codes : List Nat := [0x01014173, 0x9D5A00006, 0x1F800000, 0x96800005]

set_option maxRecDepth 20000 in
theorem next_code : ∀ w ∈ codes, nextOf (sCode w) = .issue 0 0 0 ∧ nextOf (sUnsettled w) = .issue 0 0 0 := by decide

set_option maxRecDepth 20000 in
/-- A strand's next instruction comes by itself, or when its turn has been put first. -/
theorem begins_code : ∀ w ∈ codes, ∀ s ∈ [sCode w, sUnsettled w], Begins s s (ctx s) ∧ Begins { s with agenda := [.issue 0 0 0], cur := none } s (ctx s) := by
  intro w hw s hs
  refine ⟨?_, begins_turn w s hs⟩
  simp only [List.mem_cons, List.not_mem_nil, or_false] at hs
  rcases hs with rfl | rfl
  · exact begins [] (.inr ⟨rfl, rfl, (next_code w hw).1⟩) (still rfl rfl) rfl rfl rfl rfl
  · exact begins [] (.inr ⟨rfl, rfl, (next_code w hw).2⟩) (still rfl rfl) rfl rfl rfl rfl

set_option maxRecDepth 20000 in
theorem witness_StepRunsInstruction :
    (∀ w ∈ codes, ∀ s ∈ [sCode w, sUnsettled w], Begins s s (ctx s) ∧ Begins { s with agenda := [.issue 0 0 0], cur := none } s (ctx s)) ∧
    (∀ w, Begins { sNotYet w with agenda := [.issue 0 0 0], cur := none } (sNotYet w) (ctx (sNotYet w))) ∧
    (∀ late : Bool, ∀ s, s = (if late then sNotYet 0x01014173 else sCode 0x01014173) → ∃ e, Fetches s (ctx s) (ctx s).pc0 0x01014173 e ∧
      (issuesNow e (ctx s) (.iadd ⟨false, 0, 5, 2, 115, 0⟩) != late) = true) ∧
    (twoWord 0x01014173 = false ∧ decodeWords 0x01014173 0 = .instr (.iadd ⟨false, 0, 5, 2, 115, 0⟩) 4) ∧
    (∃ e e', Fetches (sCode 0x9D5A00006) (ctx (sCode 0x9D5A00006)) (ctx (sCode 0x9D5A00006)).pc0 0xD5A00006 e ∧
      Fetches e (ctx (sCode 0x9D5A00006)) ((ctx (sCode 0x9D5A00006)).pc0 + 4) 9 e' ∧ issuesNow e' (ctx (sCode 0x9D5A00006)) (.brd ⟨true, 10, 6, 9⟩) = true) ∧
    (twoWord 0xD5A00006 = true ∧ decodeWords 0xD5A00006 9 = .instr (.brd ⟨true, 10, 6, 9⟩) 8) ∧
    ((∃ e, Fetches (sCode 0x1F800000) (ctx (sCode 0x1F800000)) (ctx (sCode 0x1F800000)).pc0 0x1F800000 e ∧ rejectsNow (sCode 0x1F800000) e = true) ∧
      (∃ e, Fetches (sUnsettled 0x1F800000) (ctx (sUnsettled 0x1F800000)) (ctx (sUnsettled 0x1F800000)).pc0 0x1F800000 e ∧
        !settled e (ctx (sUnsettled 0x1F800000)).g (ctx (sUnsettled 0x1F800000)).st) ∧
      twoWord 0x1F800000 = false ∧ ∃ r, decodeWords 0x1F800000 0 = .reject r) ∧
    ((∃ e e', Fetches (sCode 0x96800005) (ctx (sCode 0x96800005)) (ctx (sCode 0x96800005)).pc0 0x96800005 e ∧
        Fetches e (ctx (sCode 0x96800005)) ((ctx (sCode 0x96800005)).pc0 + 4) 0 e' ∧ rejectsNow (sCode 0x96800005) e' = true) ∧
      (∃ e e', Fetches (sUnsettled 0x96800005) (ctx (sUnsettled 0x96800005)) (ctx (sUnsettled 0x96800005)).pc0 0x96800005 e ∧
        Fetches e (ctx (sUnsettled 0x96800005)) ((ctx (sUnsettled 0x96800005)).pc0 + 4) 0 e' ∧
        !settled e' (ctx (sUnsettled 0x96800005)).g (ctx (sUnsettled 0x96800005)).st) ∧
      twoWord 0x96800005 = true ∧ ∃ r, decodeWords 0x96800005 0 = .reject r) ∧
    (∀ s ∈ [sCode 0x1F800000, sCode 0x96800005], ∀ e, rejectsNow s e = true →
      settled e (ctx s).g (ctx s).st = true ∧ ∃ e2 hd, HandlerAt e (ctx s) 1 e2 hd) ∧
    (happens State.reset .bootstatClr = true ∧ happens { State.reset with powered := false } (.sleepWake 0 0 0) = false) ∧
    (State.reset.powered = true ∧ State.reset.agenda = [] ∧ nextOf State.reset = .tick ∧ sReady.agenda = [] ∧ nextOf sReady = .arbitrate 0 0) := by
  refine ⟨begins_code, begins_late, fun late s hs => ?_, by decide, fetches_both (by decide), by decide,
    ⟨fetches (by decide), fetches (by decide), by decide, _, rfl⟩, ⟨fetches_both (by decide), fetches_both (by decide), by decide, _, rfl⟩,
    fun s _ e h => rejects_now h, by decide, by decide⟩
  subst hs
  cases late <;> exact fetches (by decide)

/-- Memory that is in canonical form, and a step from it. -/
theorem witness_InvKept : Sys2Proof.Inv State.reset ∧ ∃ t, Steps State.reset t := ⟨by unfold Sys2Proof.Inv; decide, _, rfl⟩

/-- A well-formed encoded instruction, and a word that decodes. -/
theorem witness_DecodeEncode :
    isEncoded (.iadd ⟨false, 0, 5, 2, 115, 0⟩) = true ∧ wellFormed (.iadd ⟨false, 0, 5, 2, 115, 0⟩) = true ∧
    decodeWords 0x01014173 0 = .instr (.iadd ⟨false, 0, 5, 2, 115, 0⟩) 4 := by decide

/-! ## Decoding: one word of every encoded instruction, its fields filled from the table's encoding

The free fields of each word hold E = 1, G = 2, and other bits that differ from field to field. -/

theorem test_decode_01 :
    decodeWords 0x40000000 0 = .instr (.nop ⟨true⟩) 4 ∧
    decodeWords 0xC0000000 0 = .instr (.gnop ⟨true⟩) 4 ∧
    decodeWords 0x40D55500 0 = .instr (.mov ⟨true, 2, 85, 42, 0, 0⟩) 4 ∧
    decodeWords 0x4FB55533 0 = .instr (.sel ⟨true, 1, 85, 42, 51, 0⟩) 4 ∧
    decodeWords 0x70D55500 0 = .instr (.ptov ⟨true, 2, 85, 42, 0, 0⟩) 4 ∧
    decodeWords 0x41555533 0 = .instr (.iadd ⟨true, 2, 85, 42, 51, 0⟩) 4 ∧
    decodeWords 0x41D55533 0 = .instr (.isub ⟨true, 2, 85, 42, 51, 0⟩) 4 ∧
    decodeWords 0x42555533 0 = .instr (.imul ⟨true, 2, 85, 42, 51, 0⟩) 4 ∧
    decodeWords 0x42D55533 0 = .instr (.imulhs ⟨true, 2, 85, 42, 51, 0⟩) 4 ∧
    decodeWords 0x43555533 0 = .instr (.imulhu ⟨true, 2, 85, 42, 51, 0⟩) 4 ∧
    decodeWords 0x43D55533 0 = .instr (.imad ⟨true, 2, 85, 42, 51, 0⟩) 4 := by decide

theorem test_decode_02 :
    decodeWords 0x44555533 0 = .instr (.imins ⟨true, 2, 85, 42, 51, 0⟩) 4 ∧
    decodeWords 0x44D55533 0 = .instr (.iminu ⟨true, 2, 85, 42, 51, 0⟩) 4 ∧
    decodeWords 0x45555533 0 = .instr (.imaxs ⟨true, 2, 85, 42, 51, 0⟩) 4 ∧
    decodeWords 0x45D55533 0 = .instr (.imaxu ⟨true, 2, 85, 42, 51, 0⟩) 4 ∧
    decodeWords 0x46555533 0 = .instr (.and ⟨true, 2, 85, 42, 51, 0⟩) 4 ∧
    decodeWords 0x46D55533 0 = .instr (.or ⟨true, 2, 85, 42, 51, 0⟩) 4 ∧
    decodeWords 0x47555533 0 = .instr (.xor ⟨true, 2, 85, 42, 51, 0⟩) 4 ∧
    decodeWords 0x47D55533 0 = .instr (.andn ⟨true, 2, 85, 42, 51, 0⟩) 4 ∧
    decodeWords 0x48555533 0 = .instr (.shl ⟨true, 2, 85, 42, 51, 0⟩) 4 ∧
    decodeWords 0x48D55533 0 = .instr (.shrl ⟨true, 2, 85, 42, 51, 0⟩) 4 ∧
    decodeWords 0x49555533 0 = .instr (.shra ⟨true, 2, 85, 42, 51, 0⟩) 4 := by decide

theorem test_decode_03 :
    decodeWords 0x49D55533 0 = .instr (.rotl ⟨true, 2, 85, 42, 51, 0⟩) 4 ∧
    decodeWords 0x4A555525 0 = .instr (.shli ⟨true, 2, 85, 42, 37, 0⟩) 4 ∧
    decodeWords 0x4AD55525 0 = .instr (.shrli ⟨true, 2, 85, 42, 37, 0⟩) 4 ∧
    decodeWords 0x4B555525 0 = .instr (.shrai ⟨true, 2, 85, 42, 37, 0⟩) 4 ∧
    decodeWords 0x4BD55500 0 = .instr (.popc ⟨true, 2, 85, 42, 0, 0⟩) 4 ∧
    decodeWords 0x4C555500 0 = .instr (.clz ⟨true, 2, 85, 42, 0, 0⟩) 4 ∧
    decodeWords 0x4CD55500 0 = .instr (.brev ⟨true, 2, 85, 42, 0, 0⟩) 4 ∧
    decodeWords 0x4D555533 0 = .instr (.bfx ⟨true, 2, 85, 42, 51, 0⟩) 4 ∧
    decodeWords 0x4DD55533 0 = .instr (.bfi ⟨true, 2, 85, 42, 51, 0⟩) 4 ∧
    decodeWords 0x4E555533 0 = .instr (.iaddx ⟨true, 2, 85, 42, 51, 0⟩) 4 ∧
    decodeWords 0x4ED55533 0 = .instr (.isubx ⟨true, 2, 85, 42, 51, 0⟩) 4 := by decide

theorem test_decode_04 :
    decodeWords 0x4F565533 0 = .instr (.icmp ⟨true, 2, 5, 9, 42, 51, 0⟩) 4 ∧
    decodeWords 0x53D65533 0 = .instr (.wcmp ⟨true, 2, 5, 9, 42, 51, 0⟩) 4 ∧
    decodeWords 0x50555533 0 = .instr (.wadd ⟨true, 2, 85, 42, 51, 0⟩) 4 ∧
    decodeWords 0x50D55533 0 = .instr (.wsub ⟨true, 2, 85, 42, 51, 0⟩) 4 ∧
    decodeWords 0x51555533 0 = .instr (.wmulu ⟨true, 2, 85, 42, 51, 0⟩) 4 ∧
    decodeWords 0x51D55533 0 = .instr (.wmuls ⟨true, 2, 85, 42, 51, 0⟩) 4 ∧
    decodeWords 0x52555533 0 = .instr (.wshl ⟨true, 2, 85, 42, 51, 0⟩) 4 ∧
    decodeWords 0x52D55533 0 = .instr (.wshrl ⟨true, 2, 85, 42, 51, 0⟩) 4 ∧
    decodeWords 0x53555533 0 = .instr (.wadds ⟨true, 2, 85, 42, 51, 0⟩) 4 ∧
    decodeWords 0x54555533 0 = .instr (.fadd ⟨true, 2, 85, 42, 51, 0⟩) 4 ∧
    decodeWords 0x54D55533 0 = .instr (.fsub ⟨true, 2, 85, 42, 51, 0⟩) 4 := by decide

theorem test_decode_05 :
    decodeWords 0x55555533 0 = .instr (.fmul ⟨true, 2, 85, 42, 51, 0⟩) 4 ∧
    decodeWords 0x55D55533 0 = .instr (.ffma ⟨true, 2, 85, 42, 51, 0⟩) 4 ∧
    decodeWords 0x5D555533 0 = .instr (.fdiv ⟨true, 2, 85, 42, 51, 0⟩) 4 ∧
    decodeWords 0x5E555533 0 = .instr (.fscale ⟨true, 2, 85, 42, 51, 0⟩) 4 ∧
    decodeWords 0x5ED55533 0 = .instr (.fcpsgn ⟨true, 2, 85, 42, 51, 0⟩) 4 ∧
    decodeWords 0x56555533 0 = .instr (.fmin ⟨true, 2, 85, 42, 51, 0⟩) 4 ∧
    decodeWords 0x56D55533 0 = .instr (.fmax ⟨true, 2, 85, 42, 51, 0⟩) 4 ∧
    decodeWords 0x62555533 0 = .instr (.dmin ⟨true, 2, 85, 42, 51, 0⟩) 4 ∧
    decodeWords 0x62D55533 0 = .instr (.dmax ⟨true, 2, 85, 42, 51, 0⟩) 4 ∧
    decodeWords 0x57555500 0 = .instr (.fabs ⟨true, 2, 85, 42, 0, 0⟩) 4 ∧
    decodeWords 0x57D55500 0 = .instr (.fneg ⟨true, 2, 85, 42, 0, 0⟩) 4 := by decide

theorem test_decode_06 :
    decodeWords 0x5C555500 0 = .instr (.frint ⟨true, 2, 85, 42, 0, 0⟩) 4 ∧
    decodeWords 0x5CD55500 0 = .instr (.ffloor ⟨true, 2, 85, 42, 0, 0⟩) 4 ∧
    decodeWords 0x5F555500 0 = .instr (.fsat ⟨true, 2, 85, 42, 0, 0⟩) 4 ∧
    decodeWords 0x58565533 0 = .instr (.fcmp ⟨true, 2, 5, 9, 42, 51, 0⟩) 4 ∧
    decodeWords 0x64565533 0 = .instr (.dcmp ⟨true, 2, 5, 9, 42, 51, 0⟩) 4 ∧
    decodeWords 0x58D55500 0 = .instr (.frcp ⟨true, 2, 85, 42, 0, 0⟩) 4 ∧
    decodeWords 0x59555500 0 = .instr (.fsqrt ⟨true, 2, 85, 42, 0, 0⟩) 4 ∧
    decodeWords 0x63555533 0 = .instr (.ddiv ⟨true, 2, 85, 42, 51, 0⟩) 4 ∧
    decodeWords 0x63D55500 0 = .instr (.dsqrt ⟨true, 2, 85, 42, 0, 0⟩) 4 ∧
    decodeWords 0x59D55500 0 = .instr (.frsq ⟨true, 2, 85, 42, 0, 0⟩) 4 ∧
    decodeWords 0x5A555500 0 = .instr (.fexp2 ⟨true, 2, 85, 42, 0, 0⟩) 4 := by decide

theorem test_decode_07 :
    decodeWords 0x5AD55500 0 = .instr (.flog2 ⟨true, 2, 85, 42, 0, 0⟩) 4 ∧
    decodeWords 0x5B555500 0 = .instr (.fsinr ⟨true, 2, 85, 42, 0, 0⟩) 4 ∧
    decodeWords 0x5BD55500 0 = .instr (.fcosr ⟨true, 2, 85, 42, 0, 0⟩) 4 ∧
    decodeWords 0x5DD55500 0 = .instr (.fclass ⟨true, 2, 85, 42, 0, 0⟩) 4 ∧
    decodeWords 0x60555533 0 = .instr (.dadd ⟨true, 2, 85, 42, 51, 0⟩) 4 ∧
    decodeWords 0x60D55533 0 = .instr (.dsub ⟨true, 2, 85, 42, 51, 0⟩) 4 ∧
    decodeWords 0x61555533 0 = .instr (.dmul ⟨true, 2, 85, 42, 51, 0⟩) 4 ∧
    decodeWords 0x61D55533 0 = .instr (.dfma ⟨true, 2, 85, 42, 51, 0⟩) 4 ∧
    decodeWords 0x64D55500 0 = .instr (.drint ⟨true, 2, 85, 42, 0, 0⟩) 4 ∧
    decodeWords 0x65555500 0 = .instr (.dabs ⟨true, 2, 85, 42, 0, 0⟩) 4 ∧
    decodeWords 0x65D55500 0 = .instr (.dneg ⟨true, 2, 85, 42, 0, 0⟩) 4 := by decide

theorem test_decode_08 :
    decodeWords 0x66555533 0 = .instr (.hadd2 ⟨true, 2, 85, 42, 51, 0⟩) 4 ∧
    decodeWords 0x66D55533 0 = .instr (.hmul2 ⟨true, 2, 85, 42, 51, 0⟩) 4 ∧
    decodeWords 0x67555533 0 = .instr (.hfma2 ⟨true, 2, 85, 42, 51, 0⟩) 4 ∧
    decodeWords 0x67D55533 0 = .instr (.hmin2 ⟨true, 2, 85, 42, 51, 0⟩) 4 ∧
    decodeWords 0x68555533 0 = .instr (.hmax2 ⟨true, 2, 85, 42, 51, 0⟩) 4 ∧
    decodeWords 0x68D55533 0 = .instr (.dot4s ⟨true, 2, 85, 42, 51, 0⟩) 4 ∧
    decodeWords 0x69555533 0 = .instr (.dot4u ⟨true, 2, 85, 42, 51, 0⟩) 4 ∧
    decodeWords 0x69D55533 0 = .instr (.hdot2 ⟨true, 2, 85, 42, 51, 0⟩) 4 ∧
    decodeWords 0x6A555509 0 = .instr (.cvt ⟨true, 2, 85, 42, 9, 0⟩) 4 ∧
    decodeWords 0x6AD55500 0 = .instr (.qdx4 ⟨true, 2, 85, 42, 0, 0⟩) 4 ∧
    decodeWords 0x6B555500 0 = .instr (.qdx8 ⟨true, 2, 85, 42, 0, 0⟩) 4 := by decide

theorem test_decode_09 :
    decodeWords 0x6BD55533 0 = .instr (.qaq8 ⟨true, 2, 85, 42, 51, 0⟩) 4 ∧
    decodeWords 0x6C555533 0 = .instr (.shfli ⟨true, 2, 85, 42, 51, 0⟩) 4 ∧
    decodeWords 0x6CD55509 0 = .instr (.shflx ⟨true, 2, 85, 42, 9, 0⟩) 4 ∧
    decodeWords 0x6D555509 0 = .instr (.shflu ⟨true, 2, 85, 42, 9, 0⟩) 4 ∧
    decodeWords 0x6DD55509 0 = .instr (.shfld ⟨true, 2, 85, 42, 9, 0⟩) 4 ∧
    decodeWords 0x6E555500 0 = .instr (.radd ⟨true, 2, 85, 42, 0, 0⟩) 4 ∧
    decodeWords 0x6ED55500 0 = .instr (.rfadd ⟨true, 2, 85, 42, 0, 0⟩) 4 ∧
    decodeWords 0x6F555500 0 = .instr (.rmins ⟨true, 2, 85, 42, 0, 0⟩) 4 ∧
    decodeWords 0x6FD55500 0 = .instr (.rmaxs ⟨true, 2, 85, 42, 0, 0⟩) 4 ∧
    decodeWords 0x70559533 0 = .instr (.plog ⟨true, 2, 5, 6, 42, 51, 0⟩) 4 ∧
    decodeWords 0x71541500 0 = .instr (.vtop ⟨true, 2, 5, 0, 42, 0, 0⟩) 4 := by decide

theorem test_decode_10 :
    decodeWords 0x74555525 0 = .instr (.ldo ⟨true, 2, 85, 42, 37, 0⟩) 4 ∧
    decodeWords 0x74D55525 0 = .instr (.ldoD ⟨true, 2, 85, 42, 37, 0⟩) 4 ∧
    decodeWords 0x75555525 0 = .instr (.ldoQ ⟨true, 2, 85, 42, 37, 0⟩) 4 ∧
    decodeWords 0x75D55525 0 = .instr (.sto ⟨true, 2, 85, 42, 37, 0⟩) 4 ∧
    decodeWords 0x76555525 0 = .instr (.stoD ⟨true, 2, 85, 42, 37, 0⟩) 4 ∧
    decodeWords 0x76D55525 0 = .instr (.stoQ ⟨true, 2, 85, 42, 37, 0⟩) 4 ∧
    decodeWords 0x77555525 0 = .instr (.oadd ⟨true, 2, 85, 42, 37, 0⟩) 4 ∧
    decodeWords 0x77D55525 0 = .instr (.omaxu ⟨true, 2, 85, 42, 37, 0⟩) 4 ∧
    decodeWords 0x78555525 0 = .instr (.ldg ⟨true, 2, 85, 42, 37, 0⟩) 4 ∧
    decodeWords 0x78D55525 0 = .instr (.ldgD ⟨true, 2, 85, 42, 37, 0⟩) 4 ∧
    decodeWords 0x79555525 0 = .instr (.ldgQ ⟨true, 2, 85, 42, 37, 0⟩) 4 := by decide

theorem test_decode_11 :
    decodeWords 0x79D55525 0 = .instr (.stg ⟨true, 2, 85, 42, 37, 0⟩) 4 ∧
    decodeWords 0x7A555525 0 = .instr (.stgD ⟨true, 2, 85, 42, 37, 0⟩) 4 ∧
    decodeWords 0x7AD55525 0 = .instr (.stgQ ⟨true, 2, 85, 42, 37, 0⟩) 4 ∧
    decodeWords 0x7C555525 0 = .instr (.aadd ⟨true, 2, 85, 42, 37, 0⟩) 4 ∧
    decodeWords 0x7CD55525 0 = .instr (.amins ⟨true, 2, 85, 42, 37, 0⟩) 4 ∧
    decodeWords 0x7D555525 0 = .instr (.amaxs ⟨true, 2, 85, 42, 37, 0⟩) 4 ∧
    decodeWords 0x7DD55525 0 = .instr (.aand ⟨true, 2, 85, 42, 37, 0⟩) 4 ∧
    decodeWords 0x7E555525 0 = .instr (.aor ⟨true, 2, 85, 42, 37, 0⟩) 4 ∧
    decodeWords 0x7ED55525 0 = .instr (.axor ⟨true, 2, 85, 42, 37, 0⟩) 4 ∧
    decodeWords 0x7F555525 0 = .instr (.axchg ⟨true, 2, 85, 42, 37, 0⟩) 4 ∧
    decodeWords 0x7FD55525 0 = .instr (.acas ⟨true, 2, 85, 42, 37, 0⟩) 4 := by decide

theorem test_decode_12 :
    decodeWords 0x7B555525 0 = .instr (.credf ⟨true, 2, 85, 42, 37, 0⟩) 4 ∧
    decodeWords 0x7BD55525 0 = .instr (.credd ⟨true, 2, 85, 42, 37, 0⟩) 4 ∧
    decodeWords 0xC156A000 0 = .instr (.kmov ⟨true, 21, 42, 0, 0⟩) 4 ∧
    decodeWords 0xC156A020 0 = .instr (.jmov ⟨true, 21, 42, 0, 32⟩) 4 ∧
    decodeWords 0xC456ACC0 0 = .instr (.kadd ⟨true, 21, 42, 51, 0⟩) 4 ∧
    decodeWords 0xC456ACE0 0 = .instr (.jadd ⟨true, 21, 42, 51, 32⟩) 4 ∧
    decodeWords 0xC556ACC0 0 = .instr (.ksub ⟨true, 21, 42, 51, 0⟩) 4 ∧
    decodeWords 0xC556ACE0 0 = .instr (.jsub ⟨true, 21, 42, 51, 32⟩) 4 ∧
    decodeWords 0xC656ACC0 0 = .instr (.kmul ⟨true, 21, 42, 51, 0⟩) 4 ∧
    decodeWords 0xC756ACC0 0 = .instr (.kand ⟨true, 21, 42, 51, 0⟩) 4 ∧
    decodeWords 0xC856ACC0 0 = .instr (.kor ⟨true, 21, 42, 51, 0⟩) 4 := by decide

theorem test_decode_13 :
    decodeWords 0xC956ACC0 0 = .instr (.kxor ⟨true, 21, 42, 51, 0⟩) 4 ∧
    decodeWords 0xCA56ACC0 0 = .instr (.kshl ⟨true, 21, 42, 51, 0⟩) 4 ∧
    decodeWords 0xCA56ACE0 0 = .instr (.jshl ⟨true, 21, 42, 51, 32⟩) 4 ∧
    decodeWords 0xCB56ACC0 0 = .instr (.kshrl ⟨true, 21, 42, 51, 0⟩) 4 ∧
    decodeWords 0xCB56ACE0 0 = .instr (.jshrl ⟨true, 21, 42, 51, 32⟩) 4 ∧
    decodeWords 0xCC56ACC0 0 = .instr (.kshra ⟨true, 21, 42, 51, 0⟩) 4 ∧
    decodeWords 0xCD56ACC9 0 = .instr (.kcmp ⟨true, 21, 42, 51, 9⟩) 4 ∧
    decodeWords 0xCD56ACE9 0 = .instr (.jcmp ⟨true, 21, 42, 51, 41⟩) 4 ∧
    decodeWords 0xCE56ACC5 0 = .instr (.ksel ⟨true, 21, 42, 51, 5⟩) 4 ∧
    decodeWords 0xCF56A5C3 0 = .instr (.kaddi ⟨true, 21, 42, 23, 3⟩) 4 ∧
    decodeWords 0xC254A5C3 0 = .instr (.klit ⟨true, 21, 0, 42435⟩) 4 := by decide

theorem test_decode_14 :
    decodeWords 0xC354A5C3 0 = .instr (.klith ⟨true, 21, 0, 42435⟩) 4 ∧
    decodeWords 0xD056A000 0 = .instr (.voteAny ⟨true, 21, 42, 0, 0⟩) 4 ∧
    decodeWords 0xD056A001 0 = .instr (.voteAll ⟨true, 21, 42, 0, 1⟩) 4 ∧
    decodeWords 0xD056A002 0 = .instr (.voteNone ⟨true, 21, 42, 0, 2⟩) 4 ∧
    decodeWords 0xD156A000 0 = .instr (.ballot ⟨true, 21, 42, 0, 0⟩) 4 ∧
    decodeWords 0xD256A015 0 = .instr (.kread ⟨true, 21, 42, 0, 21⟩) 4 ∧
    decodeWords 0xD3540015 0 = .instr (.rdsv ⟨true, 21, 0, 0, 21⟩) 4 ∧
    decodeWords 0xD455A3C5 0 = .instr (.bra ⟨true, 5, 369605⟩) 4 ∧
    decodeWords 0xD555A3C5 0x00010805 = .instr (.brd ⟨true, 5, 369605, 0x00010805⟩) 8 ∧
    decodeWords 0xD602A000 0x00010805 = .instr (.brx ⟨true, 0, 42, 0, 0, 0x00010805⟩) 8 ∧
    decodeWords 0xD755A3C5 0 = .instr (.call ⟨true, 5, 369605⟩) 4 := by decide

theorem test_decode_15 :
    decodeWords 0xD9000000 0 = .instr (.ret ⟨true, 0, 0, 0, 0⟩) 4 ∧
    decodeWords 0xD802A000 0x00010805 = .instr (.callx ⟨true, 0, 42, 0, 0, 0x00010805⟩) 8 ∧
    decodeWords 0xDA000000 0 = .instr (.regang ⟨true, 0, 0, 0, 0⟩) 4 ∧
    decodeWords 0xDB05A3C5 0 = .instr (.part ⟨true, 0, 369605⟩) 4 ∧
    decodeWords 0xDC000000 0 = .instr (.exit ⟨true, 0, 0, 0, 0⟩) 4 ∧
    decodeWords 0xDD000000 0 = .instr (.yield ⟨true, 0, 0, 0, 0⟩) 4 ∧
    decodeWords 0xDE02A000 0 = .instr (.setfmt ⟨true, 0, 42, 0, 0⟩) 4 ∧
    decodeWords 0xDE02A001 0 = .instr (.setfmtLk ⟨true, 0, 42, 0, 1⟩) 4 ∧
    decodeWords 0xDF540000 0 = .instr (.getfmt ⟨true, 21, 0, 0, 0⟩) 4 ∧
    decodeWords 0xDF540001 0 = .instr (.getfmtLk ⟨true, 21, 0, 0, 1⟩) 4 ∧
    decodeWords 0xE056ACC5 0 = .instr (.mma ⟨true, 21, 42, 51, 5⟩) 4 := by decide

theorem test_decode_16 :
    decodeWords 0xE156ACC5 0 = .instr (.mmap ⟨true, 21, 42, 51, 5⟩) 4 ∧
    decodeWords 0xE256ACC5 0 = .instr (.mmax ⟨true, 21, 42, 51, 5⟩) 4 ∧
    decodeWords 0xE356A004 0 = .instr (.mclr ⟨true, 21, 42, 0, 4⟩) 4 ∧
    decodeWords 0xE456A019 0 = .instr (.msta ⟨true, 21, 42, 0, 25⟩) 4 ∧
    decodeWords 0xE556A019 0 = .instr (.mlda ⟨true, 21, 42, 0, 25⟩) 4 ∧
    decodeWords 0xE6000000 0 = .instr (.mfence ⟨true, 0, 0, 0, 0⟩) 4 ∧
    decodeWords 0xE702A015 0 = .instr (.mgath ⟨true, 0, 42, 0, 21⟩) 4 ∧
    decodeWords 0xE856A002 0 = .instr (.copy ⟨true, 21, 42, 0, 2⟩) 4 ∧
    decodeWords 0xE956A002 0 = .instr (.tile ⟨true, 21, 42, 0, 2⟩) 4 ∧
    decodeWords 0xEA56A002 0 = .instr (.puts ⟨true, 21, 42, 0, 2⟩) 4 ∧
    decodeWords 0xEB56A002 0 = .instr (.chain ⟨true, 21, 42, 0, 2⟩) 4 := by decide

theorem test_decode_17 :
    decodeWords 0xEC56ACC0 0 = .instr (.token ⟨true, 21, 42, 51, 0⟩) 4 ∧
    decodeWords 0xED56A000 0 = .instr (.estat ⟨true, 21, 42, 0, 0⟩) 4 ∧
    decodeWords 0xEE02ACCD 0 = .instr (.cadd ⟨true, 0, 42, 51, 13⟩) 4 ∧
    decodeWords 0xEF56ACC5 0 = .instr (.cwait ⟨true, 21, 42, 51, 5⟩) 4 ∧
    decodeWords 0xF056A002 0 = .instr (.cread ⟨true, 21, 42, 0, 2⟩) 4 ∧
    decodeWords 0xF1A80005 0 = .instr (.bar ⟨true, 42, 0, 0, 5⟩) 4 ∧
    decodeWords 0xF2A80005 0 = .instr (.bara ⟨true, 42, 0, 0, 5⟩) 4 ∧
    decodeWords 0xF3A80005 0 = .instr (.barw ⟨true, 42, 0, 0, 5⟩) 4 ∧
    decodeWords 0xF4000005 0 = .instr (.phase ⟨true, 0, 0, 0, 5⟩) 4 ∧
    decodeWords 0xF5000005 0 = .instr (.rel ⟨true, 0, 0, 0, 5⟩) 4 ∧
    decodeWords 0xF6000005 0 = .instr (.acq ⟨true, 0, 0, 0, 5⟩) 4 := by decide

theorem test_decode_18 :
    decodeWords 0xF756ACC1 0 = .instr (.oalloc ⟨true, 21, 42, 51, 1⟩) 4 ∧
    decodeWords 0xF802A000 0 = .instr (.ofree ⟨true, 0, 42, 0, 0⟩) 4 ∧
    decodeWords 0xF902ACC0 0 = .instr (.orenew ⟨true, 0, 42, 51, 0⟩) 4 ∧
    decodeWords 0xFA56A000 0 = .instr (.launch ⟨true, 21, 42, 0, 0⟩) 4 ∧
    decodeWords 0xFB56ACC0 0 = .instr (.tspawn ⟨true, 21, 42, 51, 0⟩) 4 ∧
    decodeWords 0xFB56ACC1 0 = .instr (.tspawnEos ⟨true, 21, 42, 51, 1⟩) 4 ∧
    decodeWords 0xFC56ACC0 0 = .instr (.tdesc ⟨true, 21, 42, 51, 0⟩) 4 ∧
    decodeWords 0xFC56ACC1 0 = .instr (.texpand ⟨true, 21, 42, 51, 1⟩) 4 ∧
    decodeWords 0xFC56ACC2 0 = .instr (.tback ⟨true, 21, 42, 51, 2⟩) 4 ∧
    decodeWords 0xFC56ACC3 0 = .instr (.troot ⟨true, 21, 42, 51, 3⟩) 4 ∧
    decodeWords 0xFC56ACC4 0 = .instr (.tfree ⟨true, 21, 42, 51, 4⟩) 4 := by decide

theorem test_decode_19 :
    decodeWords 0xFC56ACC5 0 = .instr (.tnew ⟨true, 21, 42, 51, 5⟩) 4 ∧
    decodeWords 0xFD02A000 0 = .instr (.bsplit ⟨true, 0, 42, 0, 0⟩) 4 ∧
    decodeWords 0xFD02A001 0 = .instr (.bpoint ⟨true, 0, 42, 0, 1⟩) 4 ∧
    decodeWords 0xFD540002 0 = .instr (.bopen ⟨true, 21, 0, 0, 2⟩) 4 ∧
    decodeWords 0xFFA80000 0 = .instr (.trap ⟨true, 42, 0, 0, 0⟩) 4 ∧
    decodeWords 0xFFA80002 0 = .instr (.bkpt ⟨true, 42, 0, 0, 2⟩) 4 ∧
    decodeWords 0xFF000001 0 = .instr (.rte ⟨true, 0, 0, 0, 1⟩) 4 ∧
    decodeWords 0xFF06A001 0 = .instr (.rteTo ⟨true, 1, 42, 0, 1⟩) 4 ∧
    decodeWords 0xFF549003 0 = .instr (.rdctl ⟨true, 21, 9, 0, 3⟩) 4 ∧
    decodeWords 0xFF009CC4 0 = .instr (.wrctl ⟨true, 0, 9, 51, 4⟩) 4 ∧
    decodeWords 0xFF02A005 0 = .instr (.sleep ⟨true, 0, 42, 0, 5⟩) 4 := by decide

theorem test_decode_20 :
    decodeWords 0xFF00000A 0 = .instr (.halt ⟨true, 0, 0, 0, 10⟩) 4 ∧
    decodeWords 0xFF26ACC6 0 = .instr (.mhint ⟨true, 9, 42, 51, 6⟩) 4 ∧
    decodeWords 0xFF02ACC7 0 = .instr (.oswap ⟨true, 0, 42, 51, 7⟩) 4 ∧
    decodeWords 0xFF02ACC8 0 = .instr (.errinj ⟨true, 0, 42, 51, 8⟩) 4 ∧
    decodeWords 0xFF56A009 0 = .instr (.eread ⟨true, 21, 42, 0, 9⟩) 4 := by decide

/-! The words that the manual writes out in its examples. -/

theorem test_manual_words_1 :
    decodeWords 0x01014173 0 = .instr (.iadd ⟨false, 0, 5, 2, 115, 0⟩) 4 ∧
    decodeWords 0x55C204F2 0x3FC00000 = .instr (.ffma ⟨true, 2, 8, 9, 114, 0x3FC00000⟩) 8 ∧
    decodeWords 0x8F1C3FFB 0 = .instr (.kaddi ⟨false, 7, 3, 63, 59⟩) 4 ∧
    decodeWords 0xD5A00006 0x00000009 = .instr (.brd ⟨true, 10, 6, 0x00000009⟩) 8 ∧
    decodeWords 0xB4000005 0 = .instr (.phase ⟨false, 0, 0, 0, 5⟩) 4 ∧
    decodeWords 0xB5000004 0 = .instr (.rel ⟨false, 0, 0, 0, 4⟩) 4 ∧
    decodeWords 0xB6000002 0 = .instr (.acq ⟨false, 0, 0, 0, 2⟩) 4 ∧
    decodeWords 0xEF004205 0 = .instr (.cwait ⟨true, 0, 4, 8, 5⟩) 4 ∧
    decodeWords 0xB0184000 0 = .instr (.cread ⟨false, 6, 4, 0, 0⟩) 4 ∧
    decodeWords 0xBA14A000 0 = .instr (.launch ⟨false, 5, 10, 0, 0⟩) 4 ∧
    decodeWords 0xD9000000 0 = .instr (.ret ⟨true, 0, 0, 0, 0⟩) 4 ∧
    decodeWords 0xDA000000 0 = .instr (.regang ⟨true, 0, 0, 0, 0⟩) 4 := by decide

theorem test_manual_words_2 :
    decodeWords 0xDC000000 0 = .instr (.exit ⟨true, 0, 0, 0, 0⟩) 4 ∧
    decodeWords 0xDD000000 0 = .instr (.yield ⟨true, 0, 0, 0, 0⟩) 4 ∧
    decodeWords 0xFF140000 0 = .instr (.trap ⟨true, 5, 0, 0, 0⟩) 4 ∧
    decodeWords 0xFF000001 0 = .instr (.rte ⟨true, 0, 0, 0, 1⟩) 4 ∧
    decodeWords 0xFF004005 0 = .instr (.sleep ⟨true, 0, 4, 0, 5⟩) 4 ∧
    decodeWords 0xFF00000A 0 = .instr (.halt ⟨true, 0, 0, 0, 10⟩) 4 ∧
    decodeWords 0xBF142009 0 = .instr (.eread ⟨false, 5, 2, 0, 9⟩) 4 ∧
    decodeWords 0xBF0020C7 0 = .instr (.oswap ⟨false, 0, 2, 3, 7⟩) 4 ∧
    decodeWords 0xBC202100 0 = .instr (.tdesc ⟨false, 8, 2, 4, 0⟩) 4 ∧
    decodeWords 0x0080B880 0 = .instr (.mov ⟨false, 0, 2, 113, 0, 0⟩) 4 ∧
    decodeWords 0x038181E2 0 = .instr (.imad ⟨false, 0, 6, 3, 98, 0⟩) 4 ∧
    decodeWords 0x0400C082 0 = .instr (.imins ⟨false, 0, 3, 1, 2, 0⟩) 4 := by decide

theorem test_manual_words_3 :
    decodeWords 0x0A01C084 0 = .instr (.shli ⟨false, 0, 7, 1, 4, 0⟩) 4 ∧
    decodeWords 0x0D020272 0x00010805 = .instr (.bfx ⟨false, 0, 8, 4, 114, 0x00010805⟩) 8 ∧
    decodeWords 0x0F098184 0 = .instr (.icmp ⟨false, 0, 2, 6, 3, 4, 0⟩) 4 ∧
    decodeWords 0x13924106 0 = .instr (.wcmp ⟨false, 0, 4, 9, 2, 6, 0⟩) 4 ∧
    decodeWords 0x13010209 0 = .instr (.wadds ⟨false, 0, 4, 4, 9, 0⟩) 4 ∧
    decodeWords 0x810C9000 0 = .instr (.kmov ⟨false, 3, 9, 0, 0⟩) 4 ∧
    decodeWords 0x84186220 0 = .instr (.jadd ⟨false, 6, 6, 8, 32⟩) 4 ∧
    decodeWords 0x8D0C5185 0 = .instr (.kcmp ⟨false, 3, 5, 6, 5⟩) 4 ∧
    decodeWords 0x8E241082 0 = .instr (.ksel ⟨false, 9, 1, 2, 2⟩) 4 ∧
    decodeWords 0x82101234 0 = .instr (.klit ⟨false, 4, 0, 4660⟩) 4 ∧
    decodeWords 0x90081000 0 = .instr (.voteAny ⟨false, 2, 1, 0, 0⟩) 4 ∧
    decodeWords 0x91183000 0 = .instr (.ballot ⟨false, 6, 3, 0, 0⟩) 4 := by decide

theorem test_manual_words_4 :
    decodeWords 0x9308000D 0 = .instr (.rdsv ⟨false, 2, 0, 0, 13⟩) 4 ∧
    decodeWords 0x93240000 0 = .instr (.rdsv ⟨false, 9, 0, 0, 0⟩) 4 ∧
    decodeWords 0x9E005000 0 = .instr (.setfmt ⟨false, 0, 5, 0, 0⟩) 4 ∧
    decodeWords 0x9E006001 0 = .instr (.setfmtLk ⟨false, 0, 6, 0, 1⟩) 4 ∧
    decodeWords 0x9F1C0000 0 = .instr (.getfmt ⟨false, 7, 0, 0, 0⟩) 4 ∧
    decodeWords 0x9F200001 0 = .instr (.getfmtLk ⟨false, 8, 0, 0, 1⟩) 4 ∧
    decodeWords 0x0FC0C082 0 = .instr (.sel ⟨false, 2, 3, 1, 2, 0⟩) 4 ∧
    decodeWords 0x30824180 0 = .instr (.ptov ⟨false, 0, 9, 3, 0, 0⟩) 4 ∧
    decodeWords 0x30120082 0 = .instr (.plog ⟨false, 0, 4, 8, 1, 2, 0⟩) 4 ∧
    decodeWords 0x31140380 0 = .instr (.vtop ⟨false, 0, 5, 0, 7, 0, 0⟩) 4 ∧
    decodeWords 0x2880C205 0 = .instr (.dot4s ⟨false, 0, 3, 4, 5, 0⟩) 4 ∧
    decodeWords 0x2A814100 0 = .instr (.qdx4 ⟨false, 0, 5, 2, 0, 0⟩) 4 := by decide

theorem test_manual_words_5 :
    decodeWords 0x2B81C163 0 = .instr (.qaq8 ⟨false, 0, 7, 2, 99, 0⟩) 4 ∧
    decodeWords 0x34010104 0 = .instr (.ldo ⟨false, 0, 4, 2, 4, 0⟩) 4 ∧
    decodeWords 0x35020182 0 = .instr (.ldoQ ⟨false, 0, 8, 3, 2, 0⟩) 4 ∧
    decodeWords 0x359CC301 0 = .instr (.sto ⟨false, 0, 115, 6, 1, 0⟩) 4 ∧
    decodeWords 0x37188280 0 = .instr (.oadd ⟨false, 0, 98, 5, 0, 0⟩) 4 ∧
    decodeWords 0xB72020C2 0 = .instr (.oalloc ⟨false, 8, 2, 3, 2⟩) 4 ∧
    decodeWords 0xB8008000 0 = .instr (.ofree ⟨false, 0, 8, 0, 0⟩) 4 ∧
    decodeWords 0xB9004140 0 = .instr (.orenew ⟨false, 0, 4, 5, 0⟩) 4 ∧
    decodeWords 0xAE004180 0 = .instr (.cadd ⟨false, 0, 4, 6, 0⟩) 4 ∧
    decodeWords 0xAE00418D 0 = .instr (.cadd ⟨false, 0, 4, 6, 13⟩) 4 ∧
    decodeWords 0x3B014101 0 = .instr (.credf ⟨false, 0, 5, 2, 1, 0⟩) 4 ∧
    decodeWords 0x3B818100 0 = .instr (.credd ⟨false, 0, 6, 2, 0, 0⟩) 4 := by decide

theorem test_manual_words_6 :
    decodeWords 0xF1000002 0 = .instr (.bar ⟨true, 0, 0, 0, 2⟩) 4 ∧
    decodeWords 0xB2040003 0 = .instr (.bara ⟨false, 1, 0, 0, 3⟩) 4 ∧
    decodeWords 0xAC2461C0 0 = .instr (.token ⟨false, 9, 6, 7, 0⟩) 4 ∧
    decodeWords 0xAD285000 0 = .instr (.estat ⟨false, 10, 5, 0, 0⟩) 4 ∧
    decodeWords 0xBB184201 0 = .instr (.tspawnEos ⟨false, 6, 4, 8, 1⟩) 4 ∧
    decodeWords 0xBD015000 0 = .instr (.bsplit ⟨false, 0, 21, 0, 0⟩) 4 ∧
    decodeWords 0xBD500002 0 = .instr (.bopen ⟨false, 20, 0, 0, 2⟩) 4 ∧
    decodeWords 0xBC282101 0 = .instr (.texpand ⟨false, 10, 2, 4, 1⟩) 4 := by decide


/-! ## Ill-formed instructions, which the checks refuse -/

/-- R14, R33: a source that MOV does not use. -/
theorem test_illformed_unused_slot : wellFormed (.mov ⟨false, 0, 1, 2, 1, 0⟩) = false := by decide

/-- R26: a minor field of OALLOC that must be zero. -/
theorem test_illformed_unused_minor : wellFormed (.oalloc ⟨false, 8, 2, 3, 36⟩) = false := by decide

/-- R141: a shift by 32. -/
theorem test_illformed_shift : wellFormed (.shli ⟨false, 0, 1, 2, 32, 0⟩) = false := by decide

/-- R132: SEL without a guard predicate. -/
theorem test_illformed_guard : wellFormed (.sel ⟨false, 0, 1, 2, 3, 0⟩) = false := by decide

/-- R138: a system value that has no code. -/
theorem test_illformed_sysval : wellFormed (.rdsv ⟨false, 2, 0, 0, 26⟩) = false := by decide

/-- R19: a second word that no source reads. -/
theorem test_illformed_literal : wellFormed (.iadd ⟨false, 0, 1, 2, 3, 7⟩) = false ∧ wellFormed (.iadd ⟨false, 0, 1, 2, 114, 7⟩) = true := by decide

/-! ## Single steps, against values that the manual works out -/

/-- What a step by `i` leaves, seen through `f`. -/
def leaves {α : Type} (i : Instr) (s : State) (f : Group → α) : Option α :=
  match exec i s with
  | .next t => (getGroup t 0 0).map f
  | _ => none

/-- `s0` with 32 lanes, the lanes of `m` at work, and these values in v2 from lane 0 on. -/
def lanes (m : Dword) (l : List Word) : State := withG fun g =>
  l.zipIdx.foldl (fun g x => writeV g x.2 2 x.1) { g with width := 32, strands := g.strands.map fun x => { x with mask := m } }

/-- Register `r` in these lanes. -/
def inLanes (r : Nat) (l : List Nat) (g : Group) : List Word := l.map fun n => readV g n r

/-- R140: 32-bit addition wraps. -/
theorem test_iadd_wraps : leaves (.iadd ⟨false, 0, 5, 2, 2, 0⟩) (lanes 3 [0xFFFFFFFF, 0x80000001]) (inLanes 5 [0, 1, 2]) =
    some [0xFFFFFFFE, 2, 0] := by decide

/-- R141: a lane count of 32 shifts everything out. -/
theorem test_shl_by_32 : leaves (.shl ⟨false, 0, 5, 2, 3, 0⟩)
    (withG fun g => writeV (writeV { g with strands := g.strands.map fun x => { x with mask := 1 } } 0 2 1) 0 3 32) (inLanes 5 [0]) = some [0] := by decide

/-- R150: KLITH keeps the low half: 0x1234 and then 0x7F00 leave 0x7F001234, once the write has taken effect (R126). -/
theorem test_klith : leaves (.klith ⟨false, 4, 0, 0x7F00⟩) (withK [(4, 0x1234)]) (fun g => (readK g 4, readK (uSettle g 100) 4)) = some (0x1234, 0x7F001234) := by decide

set_option maxRecDepth 20000 in
/-- R135: the worked reduction of 2^24, 1.0, 1.0 and −2^24 gives 1.0 in every lane, and NX. -/
theorem test_rfadd_tree : leaves (.rfadd ⟨false, 0, 5, 2, 0, 0⟩) (lanes 15 [0x4B800000, 0x3F800000, 0x3F800000, 0xCB800000])
    (fun g => (inLanes 5 [0, 3] g, g.strands.map (·.fx))) = some ([0x3F800000, 0x3F800000], [0x10]) := by decide

set_option maxRecDepth 20000 in
/-- R163: the worked block of 6.0, −1.25, 0.5, 0.1, 3.0 and zeros under QDX4. -/
theorem test_qdx4_block : leaves (.qdx4 ⟨false, 0, 5, 2, 0, 0⟩) (lanes 0xFFFFFFFF [0x40C00000, 0xBFA00000, 0x3F000000, 0x3DCCCCCD, 0x40400000])
    (inLanes 5 [0, 1, 2, 3, 4, 31]) = some [0x817F000B, 0x817F0006, 0x817F0001, 0x817F0008, 0x817F000A, 0x817F0008] := by decide

set_option maxRecDepth 20000 in
/-- R163: the same block under QDX8. -/
theorem test_qdx8_block : leaves (.qdx8 ⟨false, 0, 5, 2, 0, 0⟩) (lanes 0xFFFFFFFF [0x40C00000, 0xBFA00000, 0x3F000000, 0x3DCCCCCD, 0x40400000])
    (inLanes 5 [0, 1, 2, 3, 4, 31]) = some [0x817D00B0, 0x817D00CA, 0x817D0084, 0x817D000D, 0x817D0098, 0x817D0080] := by decide

set_option maxRecDepth 20000 in
/-- R247, R274: BRX whose index is 9 with 8 targets traps with CONTROL subcode 1 and VALUE 9. -/
theorem test_brx_past_table : leaves (.brx ⟨true, 0, 2, 0, 0, 16⟩)
    (words { lanes 1 [9] with dies := [(0, { ctxs := [(0, { ttbase := 0x10101 })] })] } 0x20040 (8 :: List.replicate 47 0 ++
      ((List.range 16).flatMap fun _ => [0x10080, 0])))
    (fun g => g.strands.map fun x => (x.cause, x.value, x.pc)) = some [(0x108, 9, 0x10080)] := by decide

end Sys2Proof.Tests
end

section
/-! SUPPORT. The sources and guards of an instruction in its own execution, and the shuffles (R134). -/

namespace Sys2Proof.Machine

/-! ## What an instruction's own execution reads -/

/-- An instruction's own execution reads its sources as the issue cycle finds them: counting the strand on moves no latch position. -/
theorem readSlot_begun {i : Instr} {s : State} {c : Ctx} (h : Issues i s c) (k : SK) (code : Nat) (lit : Word) (l : Nat) :
    readSlot (begun c i) k code lit l = readSlot c k code lit l := by
  rw [begun_of_issues h]
  rfl

theorem guardLanes_begun {i : Instr} {s : State} {c : Ctx} (h : Issues i s c) (g : BitVec 2) :
    guardLanes (begun c i) g = guardLanes c g := by
  rw [begun_of_issues h]
  rfl

/-- A lane of a mask reads a narrow source without loss, its own number included. -/
theorem srcN_toNat (c : Ctx) (code : BitVec 7) (lit : Word) {l : Nat} (hl : l < 64) :
    (srcN c code lit l).toNat = readSlot c .n code.toNat lit l := by
  rw [srcN, BitVec.toNat_ofNat, Nat.mod_eq_of_lt (readSlot_narrow_lt c code.toNat lit hl)]

/-! ## Shuffles (R134) -/

/-- The value that R134 gives lane `l` from the source lane `j`: its own where `j` is no lane of the mask. -/
def shuffled (c : Ctx) (a : BitVec 7) (lit : Word) (l : Nat) (j : Option Nat) : Word :=
  match j with
  | some j => if j ∈ lanesOf c.st.mask then srcN c a lit j else srcN c a lit l
  | none => srcN c a lit l

theorem shflFrom_begun {i : Instr} {s : State} {c : Ctx} (h : Issues i s c) (a : Nat) (lit : Word) (l : Nat) (j : Option Nat) :
    shflFrom (begun c i) a lit l j = shflFrom c a lit l j := by
  rw [begun_of_issues h]
  rfl

theorem shflFrom_eq_shuffled (c : Ctx) (a : BitVec 7) (lit : Word) {l : Nat} (hl : l < 64) (j : Option Nat) :
    shflFrom c a.toNat lit l j = (shuffled c a lit l j).toNat := by
  cases j with
  | none => exact (srcN_toNat c a lit hl).symm
  | some j =>
    by_cases hj : j < 64 ∧ c.st.mask.getLsbD j = true
    · rw [shflFrom, if_pos hj, shuffled, if_pos (mem_lanesOf.mpr hj), srcN_toNat c a lit hj.1]
    · rw [shflFrom, if_neg hj, shuffled, if_neg (mt mem_lanesOf.mp hj), srcN_toNat c a lit hl]

/-- The shared effect of the four shuffles: a body that hands each guard-true lane the value of its source lane lands as R134
says. -/
theorem shuffle_completes {i : Instr} {s : State} {c : Ctx} (h : Issues i s c) {g : BitVec 2} {d a : BitVec 7} {lit : Word}
    {src src' : Nat → Option Nat} {body : State → Ctx → Done}
    (hb : ∀ s', body s' (begun c i) = .ok s' (writeLanes (begun c i) .n d.toNat
      ((guardLanes (begun c i) g).map fun l => (l, shflFrom (begun c i) a.toNat lit l (src' l)))))
    (hsrc : ∀ l < 64, src' l = src l) :
    ∃ t c', runInstr i body s = .next t ∧
      LaneDone i c s t c' .n d.toNat (guardLanes c g) (fun l => (shuffled c a lit l (src l)).toNat) 0 := by
  rw [guardLanes_begun h] at hb
  refine lane_completes_as h _ hb fun l hl => ?_
  have hl64 : l < 64 := (mem_guardLanes.mp hl).1
  rw [shflFrom_begun h, hsrc l hl64, shflFrom_eq_shuffled c a lit hl64]

/-- The shuffles with an immediate, for any rule `src` that gives the source lane of a lane and the immediate. -/
theorem laneShfl_completes {i : Instr} {s : State} {c : Ctx} (h : Issues i s c) (f : LS) (src : Nat → Nat → Option Nat) :
    ∃ t c', runInstr i (laneShfl f src) s = .next t ∧
      LaneDone i c s t c' .n f.d.toNat (guardLanes c f.g) (fun l => (shuffled c f.a f.lit l (src l f.imm.toNat)).toNat) 0 :=
  shuffle_completes h (src' := fun l => src l f.imm.toNat) (fun _ => rfl) fun _ _ => rfl

/-- SHFLI takes its source lane from b, whose narrow value in a lane of the mask is the unsigned index. -/
theorem execShfli_completes {f : LA} {s : State} {c : Ctx} (h : Issues (.shfli f) s c) :
    ∃ t c', execShfli f s = .next t ∧
      LaneDone (.shfli f) c s t c' .n f.d.toNat (guardLanes c f.g)
        (fun l => (shuffled c f.a f.lit l (some (srcN c f.b f.lit l).toNat)).toNat) 0 :=
  shuffle_completes h (src' := fun l => some (readSlot (begun c (.shfli f)) .n f.b.toNat f.lit l)) (fun _ => rfl) fun l hl => by
    rw [readSlot_begun h, srcN_toNat c f.b f.lit hl]

/-- Settles O6: the four shuffles share one effect and differ in the source lane alone. -/
theorem shuffleResults : Obligations.ShuffleResults := by
  unfold Obligations.ShuffleResults
  intro i g d a lit src s c hi h
  unfold shuffleLane at hi
  split at hi <;> cases hi
  case h_1 f => exact execShfli_completes h
  case h_2 f => exact laneShfl_completes h f fun l k => some (l ^^^ k)
  case h_3 f => exact laneShfl_completes h f fun l k => if k ≤ l then some (l - k) else none
  case h_4 f => exact laneShfl_completes h f fun l k => some (l + k)

end Sys2Proof.Machine
end

section
/-! SUPPORT. The lane integer words: each shape of operation once, the operations in the words of the rules, and the narrow and
the wide results (R132, R140–R143, R147, R181). -/

namespace Sys2Proof.Machine

/-! ## Narrow shapes -/

/-- An instruction that issues has passed the check of its field values, order 2 of R39 (R34). -/
theorem rangeOk_of_issues {i : Instr} {s : State} {c : Ctx} (h : Issues i s c) : rangeOk i = true := by
  obtain ⟨k, hk, _⟩ := h
  exact (ready_checks hk).1

/-- A narrow operation lands what any operation equal to it on words gives of a, b and the old d. -/
theorem laneN_completes {i : Instr} {s : State} {c : Ctx} (h : Issues i s c) (f : LA) {op op' : Word → Word → Word → Word}
    (hop : ∀ a b d, op a b d = op' a b d) :
    ∃ t c', runInstr i (laneN f op) s = .next t ∧
      LaneDone i c s t c' .n f.d.toNat (guardLanes c f.g)
        (fun l => (op' (srcN c f.a f.lit l) (srcN c f.b f.lit l) (srcN c f.d f.lit l)).toNat) 0 := by
  refine lane_completes_as h _ (fun _ => by rw [laneN, resN, guardLanes_begun h]) fun l _ => ?_
  rw [readSlot_begun h, readSlot_begun h, readSlot_begun h, hop, srcN, srcN, srcN]

/-- A narrow operation on a source and an immediate lands, for a count below 32, what any operation equal to it at such counts
gives. -/
theorem laneI_completes {i : Instr} {s : State} {c : Ctx} (h : Issues i s c) (f : LS) {op op' : Word → Nat → Word}
    (hn : f.imm.toNat < 32) (hop : ∀ a, ∀ n < 32, op a n = op' a n) :
    ∃ t c', runInstr i (laneI f op) s = .next t ∧
      LaneDone i c s t c' .n f.d.toNat (guardLanes c f.g) (fun l => (op' (srcN c f.a f.lit l) f.imm.toNat).toNat) 0 := by
  refine lane_completes_as h _ (fun _ => by rw [laneI, resI, guardLanes_begun h]) fun l _ => ?_
  rw [readSlot_begun h, hop _ _ hn, srcN]

/-! ## Differences, products, minima and maxima as in R140 -/

theorem mul_eq_ofNat (a b : Word) : a * b = BitVec.ofNat 32 (a.toNat * b.toNat) :=
  BitVec.eq_of_toNat_eq (by rw [BitVec.toNat_mul, BitVec.toNat_ofNat])

theorem sub_eq_ofInt (a b : Word) : a - b = BitVec.ofInt 32 ((a.toNat : Int) - b.toNat) := by
  apply BitVec.eq_of_toNat_eq
  rw [BitVec.toNat_sub, BitVec.toNat_ofInt]
  have := a.isLt
  have := b.isLt
  omega

theorem mul_add_eq_ofNat (a b d : Word) : a * b + d = BitVec.ofNat 32 (a.toNat * b.toNat + d.toNat) := by
  rw [BitVec.ofNat_add, ← mul_eq_ofNat, BitVec.ofNat_toNat, BitVec.setWidth_eq]

/-- The signed minimum and maximum choose by the integers; S(x) ≥ S(y) is S(y) ≤ S(x). -/
theorem ite_sle {α : Type} (x y : Word) (a b : α) : (if x.sle y then a else b) = if x.toInt ≤ y.toInt then a else b := by
  simp only [BitVec.sle_iff_toInt_le]

theorem ite_ule {α : Type} (x y : Word) (a b : α) : (if x.ule y then a else b) = if x.toNat ≤ y.toNat then a else b := by
  simp only [BitVec.ule_iff_toNat_le]

/-! ## Shifts by less than the width as in R141 -/

theorem shlN_of_lt {w : Nat} (a : BitVec w) {n : Nat} (hn : n < w) : shlN a n = BitVec.ofNat w (a.toNat * 2 ^ n) := by
  rw [shlN_eq, if_neg (Nat.not_le.mpr hn)]

theorem shrN_of_lt {w : Nat} (a : BitVec w) {n : Nat} (hn : n < w) : shrN a n = BitVec.ofNat w (a.toNat / 2 ^ n) := by
  rw [shrN_eq, if_neg (Nat.not_le.mpr hn)]

theorem sarN_of_lt (a : Word) {n : Nat} (hn : n < 32) : sarN a n = BitVec.ofInt 32 (a.toInt / 2 ^ n) := by
  rw [sarN_eq, if_neg (Nat.not_le.mpr hn)]

/-! ## Bit fields as in R143 -/

theorem bfLen_eq_fieldLen (b : Word) : bfLen b = fieldLen b := bfLen_eq b

theorem bfx_eq_fieldOf (a b : Word) :
    bfx a b =
      if b.getLsbD 16 ∧ fieldLen b > 0 ∧ (fieldOf a b).testBit (fieldLen b - 1) then
        BitVec.ofInt 32 ((fieldOf a b : Int) - 2 ^ fieldLen b)
      else BitVec.ofNat 32 (fieldOf a b) :=
  bfx_eq a b (fieldLen b) (fieldOf a b) (bfLen_eq_fieldLen b).symm rfl

theorem bfi_eq_fieldMask (d a b : Word) :
    bfi d a b = (d &&& ~~~fieldMask b) ||| ((a <<< (b.toNat % 2 ^ 5)) &&& fieldMask b) := by
  rw [fieldMask, ← bfLen_eq_fieldLen, ← bits_low b.toNat 4, bfi]

/-! ## Narrow results -/

/-- Each LA word of the table, by the law that says its operation in the words of its rule. -/
theorem intLane_completes {i : Instr} {f : LA} {op : Word → Word → Word → Word} {s : State} {c : Ctx}
    (hi : intLane i = some (f, op)) (h : Issues i s c) :
    ∃ t c', exec i s = .next t ∧
      LaneDone i c s t c' .n f.d.toNat (guardLanes c f.g)
        (fun l => (op (srcN c f.a f.lit l) (srcN c f.b f.lit l) (srcN c f.d f.lit l)).toNat) 0 := by
  -- Only the words that the table holds are left.
  cases i <;> cases hi
  case mov => exact laneN_completes h f fun _ _ _ => rfl
  case iadd => exact laneN_completes h f fun a b _ => BitVec.add_def a b
  case isub => exact laneN_completes h f fun a b _ => sub_eq_ofInt a b
  case imul => exact laneN_completes h f fun a b _ => mul_eq_ofNat a b
  case imulhs => exact laneN_completes h f fun _ _ _ => rfl
  case imulhu => exact laneN_completes h f fun _ _ _ => rfl
  case imad => exact laneN_completes h f mul_add_eq_ofNat
  case imins => exact laneN_completes h f fun a b _ => ite_sle a b a b
  case iminu => exact laneN_completes h f fun a b _ => ite_ule a b a b
  case imaxs => exact laneN_completes h f fun a b _ => ite_sle b a a b
  case imaxu => exact laneN_completes h f fun a b _ => ite_ule b a a b
  case and => exact laneN_completes h f fun _ _ _ => rfl
  case or => exact laneN_completes h f fun _ _ _ => rfl
  case xor => exact laneN_completes h f fun _ _ _ => rfl
  case andn => exact laneN_completes h f fun _ _ _ => rfl
  case shl => exact laneN_completes h f fun a b _ => shlN_eq a b.toNat
  case shrl => exact laneN_completes h f fun a b _ => shrN_eq a b.toNat
  case shra => exact laneN_completes h f fun a b _ => sarN_eq a b.toNat
  case rotl => exact laneN_completes h f fun a b _ => rotlN_eq a b.toNat
  case popc => exact laneN_completes h f fun _ _ _ => rfl
  case clz => exact laneN_completes h f fun _ _ _ => rfl
  case brev => exact laneN_completes h f fun a _ _ => brev32_eq a
  case bfx => exact laneN_completes h f fun a b _ => bfx_eq_fieldOf a b
  case bfi => exact laneN_completes h f fun a b d => bfi_eq_fieldMask d a b
  case dot4s => exact laneN_completes h f fun a b _ => dot4_signed a b
  case dot4u => exact laneN_completes h f fun a b _ => dot4_unsigned a b

/-- The shifts by an immediate: one that issues has a count of at most 31, so no shift is past the width. -/
theorem immLane_completes {i : Instr} {f : LS} {op : Word → Nat → Word} {s : State} {c : Ctx}
    (hi : immLane i = some (f, op)) (h : Issues i s c) :
    ∃ t c', exec i s = .next t ∧
      LaneDone i c s t c' .n f.d.toNat (guardLanes c f.g) (fun l => (op (srcN c f.a f.lit l) f.imm.toNat).toNat) 0 := by
  have hr := rangeOk_of_issues h
  have below {n : Nat} (hn : decide (n ≤ 31) = true) : n < 32 := Nat.lt_succ_of_le (of_decide_eq_true hn)
  cases i <;> cases hi
  case shli => exact laneI_completes h f (below hr) fun a _ hn => shlN_of_lt a hn
  case shrli => exact laneI_completes h f (below hr) fun a _ hn => shrN_of_lt a hn
  case shrai => exact laneI_completes h f (below hr) fun a _ hn => sarN_of_lt a hn

/-- Settles O1, shape by shape: the LA words of the table and the shifts by an immediate. -/
theorem narrowIntegerResults : Obligations.NarrowIntegerResults :=
  ⟨fun _ _ _ _ _ hi h => intLane_completes hi h, fun _ _ _ _ _ hi h => immLane_completes hi h⟩

/-! ## Wide results -/

theorem srcW_toNat (c : Ctx) (code : BitVec 7) (lit : Word) (l : Nat) :
    (srcW c code lit l).toNat = readSlot c .w code.toNat lit l := by
  rw [srcW, BitVec.toNat_ofNat, Nat.mod_eq_of_lt (readSlot_wide_lt c .w (.inl rfl) code.toNat lit l)]

/-- An operation with a wide result lands its 64 bits, for slots of any kind whose values in the lanes are those of the words
`a` and `b`. -/
theorem laneW_completes {i : Instr} {s : State} {c : Ctx} (h : Issues i s c) (f : LA) {ka kb : SK} {op : Nat → Nat → Nat}
    {v w : Nat} {a : Nat → BitVec v} {b : Nat → BitVec w} {op' : BitVec v → BitVec w → Dword}
    (ha : ∀ l < 64, (a l).toNat = readSlot c ka f.a.toNat f.lit l)
    (hb : ∀ l < 64, (b l).toNat = readSlot c kb f.b.toNat f.lit l)
    (hop : ∀ x y, BitVec.ofNat 64 (op x.toNat y.toNat) = op' x y) :
    ∃ t c', runInstr i (laneW f ka kb op) s = .next t ∧
      LaneDone i c s t c' .w f.d.toNat (guardLanes c f.g) (fun l => (op' (a l) (b l)).toNat) 0 := by
  refine lane_completes_as h _ (fun _ => by rw [laneW, resW, guardLanes_begun h]) fun l hl => ?_
  have hl64 : l < 64 := (mem_guardLanes.mp hl).1
  rw [readSlot_begun h, readSlot_begun h, ← ha l hl64, ← hb l hl64, ← hop, BitVec.toNat_ofNat]

section Sources

variable {i : Instr} {s : State} {c : Ctx} (h : Issues i s c) (f : LA) {op : Nat → Nat → Nat}

include h

/-- Both sources wide. -/
theorem laneW_wide_wide (op' : Dword → Dword → Dword) (hop : ∀ x y : Dword, BitVec.ofNat 64 (op x.toNat y.toNat) = op' x y) :
    ∃ t c', runInstr i (laneW f .w .w op) s = .next t ∧
      LaneDone i c s t c' .w f.d.toNat (guardLanes c f.g) (fun l => (op' (srcW c f.a f.lit l) (srcW c f.b f.lit l)).toNat) 0 :=
  laneW_completes h f (fun l _ => srcW_toNat c f.a f.lit l) (fun l _ => srcW_toNat c f.b f.lit l) hop

/-- Both sources narrow. -/
theorem laneW_narrow_narrow (op' : Word → Word → Dword) (hop : ∀ x y : Word, BitVec.ofNat 64 (op x.toNat y.toNat) = op' x y) :
    ∃ t c', runInstr i (laneW f .n .n op) s = .next t ∧
      LaneDone i c s t c' .w f.d.toNat (guardLanes c f.g) (fun l => (op' (srcN c f.a f.lit l) (srcN c f.b f.lit l)).toNat) 0 :=
  laneW_completes h f (fun _ => srcN_toNat c f.a f.lit) (fun _ => srcN_toNat c f.b f.lit) hop

/-- A wide and a narrow source. -/
theorem laneW_wide_narrow (op' : Dword → Word → Dword)
    (hop : ∀ (x : Dword) (y : Word), BitVec.ofNat 64 (op x.toNat y.toNat) = op' x y) :
    ∃ t c', runInstr i (laneW f .w .n op) s = .next t ∧
      LaneDone i c s t c' .w f.d.toNat (guardLanes c f.g) (fun l => (op' (srcW c f.a f.lit l) (srcN c f.b f.lit l)).toNat) 0 :=
  laneW_completes h f (fun l _ => srcW_toNat c f.a f.lit l) (fun _ => srcN_toNat c f.b f.lit) hop

end Sources

/-- A difference that borrows 2^64, so that it is not truncated at 0. -/
theorem ofNat_add_sub (x y : Dword) : BitVec.ofNat 64 (x.toNat + 2 ^ 64 - y.toNat) = x - y := by
  rw [BitVec.sub_def]
  have := y.isLt
  congr 1
  omega

/-- The low 64 bits of the product of the extended words are the product of the integers. -/
theorem signExtend_mul_signExtend (x y : Word) :
    x.signExtend 64 * y.signExtend 64 = BitVec.ofInt 64 (x.toInt * y.toInt) := by
  rw [signExtend_eq_ofInt x (by omega), signExtend_eq_ofInt y (by omega), BitVec.ofInt_mul]

/-- Settles O2, by the kinds of the two sources of each wide form. -/
theorem wideIntegerResults : Obligations.WideIntegerResults := by
  unfold Obligations.WideIntegerResults
  intro i f op s c hi h
  cases i <;> cases hi
  case wadd => exact laneW_wide_wide h f (· + ·) fun x y => (BitVec.add_def x y).symm
  case wsub => exact laneW_wide_wide h f (· - ·) ofNat_add_sub
  case wmulu => exact laneW_narrow_narrow h f (fun x y => BitVec.ofNat 64 (x.toNat * y.toNat)) fun _ _ => rfl
  case wmuls =>
    refine laneW_narrow_narrow h f (fun x y => BitVec.ofInt 64 (x.toInt * y.toInt)) fun x y => ?_
    simp only [BitVec.ofNat_toNat, BitVec.setWidth_eq, signExtend_mul_signExtend]
  case wshl =>
    refine laneW_wide_narrow h f
      (fun x y => if y.toNat ≥ 64 then 0 else BitVec.ofNat 64 (x.toNat * 2 ^ y.toNat)) fun x y => ?_
    simp only [BitVec.ofNat_toNat, BitVec.setWidth_eq, shlN_eq]
  case wshrl =>
    refine laneW_wide_narrow h f
      (fun x y => if y.toNat ≥ 64 then 0 else BitVec.ofNat 64 (x.toNat / 2 ^ y.toNat)) fun x y => ?_
    simp only [BitVec.ofNat_toNat, BitVec.setWidth_eq, shrN_eq]
  case wadds =>
    refine laneW_wide_narrow h f (fun x y => x + y.signExtend 64) fun x y => ?_
    simp only [BitVec.ofNat_add, BitVec.ofNat_toNat, BitVec.setWidth_eq]

end Sys2Proof.Machine
end

section
/-! SUPPORT. Traps as whole instructions: the first failed check of R39, traps that a body takes itself, and traps without a
handler (R39, R40, R275, R277). -/

namespace Sys2Proof.Machine

/-! ## The first failed check (R39) -/

theorem failsCheck_one_iff {s : State} {c : Ctx} {i : Instr} :
    failsCheck s c i 1 ↔
      (!(rangeOk i && privOk s c (firstWord i) && fmtOk c.st.fmt (firstWord i) && placeOk s c (firstWord i))) = true := by
  simp only [failsCheck, Bool.not_eq_true', Bool.and_eq_false_iff, or_assoc]

theorem failsCheck_two_iff {s : State} {c : Ctx} {i : Instr} :
    failsCheck s c i 2 ↔ (!(if (firstWord i).getLsbD 31 then groupOperandOk c.st.fmt c.g.nregs (firstWord i)
      else laneOperandOk c.st.fmt c.g.nregs (firstWord i))) = true := by
  rw [failsCheck]
  cases (firstWord i).getLsbD 31 <;> simp

/-- The 24th instruction of a run has 23 before it. -/
theorem failsCheck_three_iff {s : State} {c : Ctx} {i : Instr} (he : isEncoded i = true) :
    failsCheck s c i 3 ↔ (!(firstWord i).getLsbD 30) = true ∧ (mustE (firstWord i) = true ∨ 23 ≤ c.st.cnt) := by
  rw [failsCheck, eOf_bit i he, Nat.succ_le_succ_iff, Bool.not_eq_true']

theorem failsCheck_four_iff {s : State} {c : Ctx} {i : Instr} :
    failsCheck s c i 4 ↔
      (!(firstWord i).getLsbD 31) = true ∧ (!laneLatchOk c.st.fmt c.st.lat (firstWord i)) = true := by
  simp only [failsCheck, Bool.not_eq_true']

/-- The issue of an encoded instruction finds the first check that it fails. -/
theorem issueTrap_of_fails {s : State} {c : Ctx} {i : Instr} {n : Nat} (he : isEncoded i = true) (hn : failsCheck s c i n)
    (hfirst : ∀ m, m < n → ¬ failsCheck s c i m) : issueTrap s c i = some n := by
  have h1 := failsCheck_one_iff (s := s) (c := c) (i := i)
  have h2 := failsCheck_two_iff (s := s) (c := c) (i := i)
  have h3 := failsCheck_three_iff (s := s) (c := c) he
  have h4 := failsCheck_four_iff (s := s) (c := c) (i := i)
  rw [issueTrap]
  match n, hn with
  | 1, hn => exact if_pos (h1.mp hn)
  | 2, hn => rw [if_neg (mt h1.mpr (hfirst 1 (by decide))), if_pos (h2.mp hn)]
  | 3, hn =>
    rw [if_neg (mt h1.mpr (hfirst 1 (by decide))), if_neg (mt h2.mpr (hfirst 2 (by decide))), if_pos (h3.mp hn)]
  | 4, hn =>
    rw [if_neg (mt h1.mpr (hfirst 1 (by decide))), if_neg (mt h2.mpr (hfirst 2 (by decide))),
      if_neg (mt h3.mpr (hfirst 3 (by decide))), if_pos (h4.mp hn)]

/-- An encoded instruction that fails checks goes to the trap of the first and does nothing else. -/
theorem exec_failsFirst {i : Instr} {s : State} {c : Ctx} {n : Nat} (he : isEncoded i = true) (hf : FailsFirst s c i n) :
    exec i s = .next (takeTrap s c n 0 ((firstWord i).setWidth 64) c.pc0) := by
  obtain ⟨hc, hn, hfirst, hset⟩ := hf
  obtain ⟨body, hrun⟩ := encoded_runs i he
  rw [hrun, runInstr, hc]
  simp only [issue, issueTrap_of_fails he hn hfirst, failed, hset, if_true, trapWord]

/-- The strand at work stands in its group, at the address of its instruction. -/
theorem failsFirst_spec {s : State} {c : Ctx} {i : Instr} {n : Nat} (hf : FailsFirst s c i n) :
    c.pc0 = c.st.pc ∧ c.gone = false ∧ (findStrand c.g c.st.sid).isSome := by
  obtain ⟨_, _, hfind, hpc, hgone⟩ := curCtx_spec hf.1
  exact ⟨hpc, hgone, Option.isSome_of_eq_some hfind⟩

/-! ## Traps that find no handler (R275, R284) -/

/-- A trap in a handler stops the strand. -/
theorem takeTrap_inHandler {s : State} {c : Ctx} (hh : c.st.hnd = true) (cause sub : Nat) (value epc : Dword) :
    takeTrap s c cause sub value epc =
      stopStrand s { c with st := { c.st with pc := c.pc0, fpc := c.pc0 } } 19 cause value c.pc0 0x47 0 0 none := by
  simp only [takeTrap, hh, if_true]

theorem takeTrap_inHandler_stopped {s : State} {c : Ctx} (hh : c.st.hnd = true) (cause sub : Nat) (value epc : Dword)
    (hg : c.gone = false) (hf : (findStrand c.g c.st.sid).isSome) :
    ∃ c', StoppedAs c c.g s (takeTrap s c cause sub value epc) 19 cause value 0x47 c' := by
  rw [takeTrap_inHandler hh]
  exact stopStrand_stopped s c 19 cause value 0x47 hg hf

theorem takeTrap_unhandled_stopped {s e : State} {c : Ctx} {cause : Nat} {h : Dword} (H : TableAt s c cause e h)
    (hno : (ctxBlock s (dieOf c.core) c.g.ctx.toNat).ttbase.getLsbD 0 = false ∨ h = 0) (sub : Nat) (value epc : Dword)
    (hg : c.gone = false) (hf : (findStrand c.g c.st.sid).isSome) :
    ∃ c', StoppedAs c c.g e (takeTrap s c cause sub value epc) 20 cause value 0x46 c' := by
  rw [takeTrap_read H, if_pos hno]
  exact stopStrand_stopped e c 20 cause value 0x46 hg hf

/-! ## Traps that an instruction's own execution takes (R277) -/

theorem sentOn_atIssue (c : Ctx) (i : Instr) (s : State) : sentOn (atIssue c i) i s = sentOn c i s := rfl

/-- An instruction whose own execution leaves a complete state: what it has written is sent on its way, and no more. -/
theorem runInstr_gone {i : Instr} {s t : State} {c : Ctx} (h : Issues i s c) {body : State → Ctx → Done}
    (hb : body (chargeInstr s c (firstWord i)) (begun c i) = .gone t) : runInstr i body s = .next (sentOn c i t) := by
  obtain ⟨k, _, rfl, hrun⟩ := runInstr_issues h body
  rw [hrun, hb, sentOn_atIssue]
  rfl

/-- Sending on what an instruction has written leaves every strand where it is. -/
theorem ctxAt_sentOn {c d : Ctx} {i : Instr} {s : State} {sid : Nat} (h : ctxAt s c.core c.slot sid = some d) :
    ctxAt (sentOn c i s) c.core c.slot sid = some { d with g := sent c i d.g } := by
  unfold ctxAt at h ⊢
  split at h
  · cases h
  · next g hg =>
    obtain ⟨u, hu, rfl⟩ := Option.map_eq_some_iff.mp h
    rw [sentOn_group hg]
    show (findStrand g sid).map _ = _
    rw [hu]
    rfl

/-- A trap taken by the strand that an instruction's own execution started with is one of the strand as it issued. -/
theorem trapped_sentOn {i : Instr} {s e t : State} {c c' : Ctx} {cause sub : Nat} {value epc a : Dword} (h : Issues i s c)
    (H : Trapped (begun c i) (begun c i).g e t cause sub value epc a c') :
    Trapped c (issued c i) e (sentOn c i t) cause sub value epc a { c' with g := sent c i c'.g } where
  strand := ctxAt_sentOn H.strand
  untouched := untouched_trans (untouched_congr H.untouched rfl rfl) (untouched_sentOn c i t)
  others sid hne := by
    rw [← begun_g h]
    exact H.others sid hne
  group := by
    have hg : c'.g = { issued c i with uv := (begun c i).g.uv, strands := c'.g.strands } := H.group
    rw [NoRegs, sent_begun (by rw [hg]) (by rw [hg]; rfl), hg]
    rfl
  saved := H.saved
  pc := H.pc
  ended := by rw [sentOn_cur]; exact H.ended

/-- An instruction whose body is to take a trap, with an EPC of its own, takes it where there is a handler. -/
theorem takeTrap_taken {i : Instr} {s : State} {c : Ctx} (h : Issues i s c) {body : State → Ctx → Done} {cause : Nat}
    {value epc : Dword}
    (hb : ∀ s', body s' (begun c i) = .gone (takeTrap s' (begun c i) cause 0 value epc)) {e : State} {a : Dword}
    (H : HandlerAt (chargeInstr s c (firstWord i)) c cause e a) :
    ∃ t c', runInstr i body s = .next t ∧ Trapped c (issued c i) e t cause 0 value epc a c' := by
  obtain ⟨_, hfind, _, hgone⟩ := issues_spec h
  have hb' : HandlerAt (chargeInstr s c (firstWord i)) (begun c i) cause e a := handlerAt_congr H rfl (by rw [begun_g h]) rfl
  have hsome : (findStrand (begun c i).g (begun c i).st.sid).isSome := by
    rw [begun_g h]
    exact Option.isSome_of_eq_some hfind
  obtain ⟨c', H'⟩ := takeTrap_trapped hb' 0 value epc hgone hsome
  exact ⟨_, _, runInstr_gone h (hb _), trapped_sentOn h H'⟩

/-- When its own execution starts, an instruction's strand stands at the next one. -/
theorem begun_pc {i : Instr} {s : State} {c : Ctx} (h : Issues i s c) : (begun c i).st.pc = nextPc i c := by
  obtain ⟨_, _, hpc, _⟩ := issues_spec h
  rw [nextPc, ← hpc]
  rfl

/-- TRAP and BKPT, the two bodies of R277 with their cause. -/
theorem numberedTrap_taken {i : Instr} {s : State} {c : Ctx} (h : Issues i s c) (d : BitVec 6) (cause : Nat) {e : State} {a : Dword}
    (H : HandlerAt (chargeInstr s c (firstWord i)) c cause e a) :
    ∃ t c', runInstr i (fun s c => .gone (takeTrap s c cause 0 (d.setWidth 64) c.st.pc)) s = .next t ∧
      Trapped c (issued c i) e t cause 0 (BitVec.ofNat 64 d.toNat) (nextPc i c) a c' := by
  rw [BitVec.ofNat_toNat, ← begun_pc h]
  exact takeTrap_taken h (fun _ => rfl) H

/-- Settles O20: TRAP and BKPT by their shared body, a failed check by the first one the issue finds, and the two stops by what
the trap meets instead of a handler. -/
theorem trapResults : Obligations.TrapResults := by
  unfold Obligations.TrapResults
  refine ⟨⟨fun f s c e h hi H => numberedTrap_taken hi f.d 13 H, fun f s c e h hi H => numberedTrap_taken hi f.d 12 H⟩, ?_, ?_, ?_⟩
  · intro i s c n e h he hf H
    obtain ⟨hpc, hgone, hsome⟩ := failsFirst_spec hf
    obtain ⟨c', H'⟩ := takeTrap_trapped H 0 ((firstWord i).setWidth 64) c.pc0 hgone hsome
    exact ⟨_, c', exec_failsFirst he hf, hpc ▸ H'⟩
  · intro i s c n e h he hf H hno
    obtain ⟨_, hgone, hsome⟩ := failsFirst_spec hf
    obtain ⟨c', H'⟩ := takeTrap_unhandled_stopped H hno 0 ((firstWord i).setWidth 64) c.pc0 hgone hsome
    exact ⟨_, c', exec_failsFirst he hf, H'⟩
  · intro i s c n he hf hh
    obtain ⟨_, hgone, hsome⟩ := failsFirst_spec hf
    obtain ⟨c', H'⟩ := takeTrap_inHandler_stopped hh n 0 ((firstWord i).setWidth 64) c.pc0 hgone hsome
    exact ⟨_, c', exec_failsFirst he hf, H'⟩

end Sys2Proof.Machine
end
